-- ==== Sys2Proof/Word.lean ====
section
/-! DEFINITION. The word and byte types of the Calotte 9600 and the few conversions every layer uses. -/

namespace Sys2Proof

/-- A 64-bit scalar register, syllable or memory double word (R157, R172). -/
abbrev Word := BitVec 64

/-- One byte of any memory. -/
abbrev Byte := BitVec 8

/-- One section's copy of a V register (R171). -/
abbrev Sec := BitVec 512

/-- The value of a word as a natural number, NX of R199. -/
abbrev nx (w : Word) : Nat := w.toNat

/-- The value of a word in two's complement, SX of R199. -/
abbrev sx (w : Word) : Int := w.toInt

end Sys2Proof
end

