-- ==== Sys2Proof/Machine/Tab.lean ====
section
/-! DEFINITION. Sparse tables in one canonical form: register files and memories are lists of key and value, keys strictly rising, no entry equal to the default. -/

namespace Sys2Proof.Machine

/-- A sparse table from natural keys; an unlisted key reads as the default that its reader names. -/
abbrev Tab (α : Type) := List (Nat × α)

/-- The value at key `k`, `d` where the table lists none. -/
def tget {α : Type} (d : α) : Tab α → Nat → α
  | [], _ => d
  | (j, v) :: t, k => if k < j then d else if k = j then v else tget d t k

/-- Write `v` at key `k` and keep the canonical form. -/
def tset {α : Type} [DecidableEq α] (d : α) : Tab α → Nat → α → Tab α
  | [], k, v => if v = d then [] else [(k, v)]
  | (j, w) :: t, k, v =>
    if k < j then (if v = d then (j, w) :: t else (k, v) :: (j, w) :: t)
    else if k = j then (if v = d then t else (k, v) :: t)
    else (j, w) :: tset d t k v

/-- Every key of the table lies above `b`, keys rise strictly, and no value is the default. -/
def twfFrom {α : Type} [DecidableEq α] (d : α) : Option Nat → Tab α → Bool
  | _, [] => true
  | b, (j, w) :: t => (match b with | none => true | some x => decide (x < j)) && decide (w ≠ d) && twfFrom d (some j) t

/-- The canonical form of a table. -/
def twf {α : Type} [DecidableEq α] (d : α) (t : Tab α) : Bool := twfFrom d none t

/-- Write a list of key and value pairs in order. -/
def tsetMany {α : Type} [DecidableEq α] (d : α) (t : Tab α) (l : List (Nat × α)) : Tab α :=
  l.foldl (fun t p => tset d t p.1 p.2) t

/-- The table without the keys from `a` up to but not including `b`. -/
def tclear {α : Type} (t : Tab α) (a b : Nat) : Tab α := t.filter fun p => p.1 < a || b ≤ p.1

/-- A memory: bytes by address, an unlisted address reads as 0 (log entry 3). -/
abbrev Memory := List Host.Cell

namespace Memory

/-- The canonical form of a memory. -/
def wf (m : Memory) : Bool := twf (0 : Byte) m

/-- The byte at an address. -/
def byte (m : Memory) (a : Nat) : Byte := tget 0 m a

/-- Store one byte. -/
def setByte (m : Memory) (a : Nat) (b : Byte) : Memory := tset 0 m a b

/-- The `n` bytes from address `a`, little-endian (R4), as a number. -/
def readN (m : Memory) (a : Nat) : Nat → Nat
  | 0 => 0
  | n + 1 => (m.byte a).toNat + 256 * readN m (a + 1) n

/-- The `n` bytes from address `a`, in ascending order. -/
def bytes (m : Memory) (a n : Nat) : List Byte := (List.range n).map fun i => m.byte (a + i)

/-- Store the low `n` bytes of `v` from address `a`, little-endian (R4). -/
def writeN (m : Memory) (a : Nat) (v : Nat) : Nat → Memory
  | 0 => m
  | n + 1 => writeN (m.setByte a (BitVec.ofNat 8 v)) (a + 1) (v / 256) n

/-- Store a list of cells in order. -/
def store (m : Memory) (l : List Host.Cell) : Memory := l.foldl (fun m p => m.setByte p.1 p.2) m

/-- The cells that place the bytes `bs` from address `a`. -/
def cellsOf (a : Nat) (bs : List Byte) : List Host.Cell :=
  (List.range bs.length).zipWith (fun i b => (a + i, b)) bs

/-- Every byte from `a` up to `a + n` reads zero afterwards. -/
def zero (m : Memory) (a n : Nat) : Memory := tclear m a (a + n)

end Memory

/-- The bytes of a number, least significant first. -/
def leBytes (v : Nat) : Nat → List Byte
  | 0 => []
  | n + 1 => BitVec.ofNat 8 v :: leBytes (v / 256) n

/-- The number whose bytes are given, least significant first. -/
def ofLeBytes : List Byte → Nat
  | [] => 0
  | b :: t => b.toNat + 256 * ofLeBytes t

/-- Bits `hi:lo` of a number (R6). -/
def bits (x hi lo : Nat) : Nat := (x >>> lo) % 2 ^ (hi + 1 - lo)

/-- Place the `w` low bits of `v` at bit `lo`. -/
def place (v lo w : Nat) : Nat := (v % 2 ^ w) <<< lo

end Sys2Proof.Machine
end

