-- ==== Sys2Proof/Syntax.lean ====
section
/-! DEFINITION. The syntax: the fields of each slot format (R162 to R170), and one constructor for each row of the opcode table. -/

namespace Sys2Proof

/-- The guard of a syllable: GNEG and GIDX (R157, R162). -/
structure Guard where
  neg : Bool
  idx : BitVec 4
deriving DecidableEq, Repr

/-- The S register format (R163), without its reserved bits. -/
structure SR where
  guard : Guard
  gd : BitVec 6
  ga : BitVec 6
  gb : BitVec 6
  gc : BitVec 6
  pd : BitVec 4
  pa : BitVec 4
  pb : BitVec 4
  sub : BitVec 5
deriving DecidableEq, Repr

/-- The S immediate format (R164). -/
structure SI where
  guard : Guard
  gd : BitVec 6
  ga : BitVec 6
  imm : BitVec 32
  sub : BitVec 3
deriving DecidableEq, Repr

/-- The S long format (R165). -/
structure SL where
  guard : Guard
  gd : BitVec 6
  imm : BitVec 41
deriving DecidableEq, Repr

/-- The S branch format (R165), without its reserved bits. -/
structure SB where
  guard : Guard
  link : BitVec 6
  off : BitVec 32
deriving DecidableEq, Repr

/-- The V format (R166); `low` holds bits 21:0, which the form bit I divides. `v1` says that the slot is V1. -/
structure VF where
  guard : Guard
  v1 : Bool
  vd : BitVec 5
  va : BitVec 5
  vb : BitVec 5
  vc : BitVec 5
  fmt : BitVec 4
  i : Bool
  low : BitVec 22
deriving DecidableEq, Repr

/-- The X format (R167), without its reserved bits. -/
structure XF where
  guard : Guard
  vd : BitVec 5
  va : BitVec 5
  xp : BitVec 4
  vb : BitVec 5
  fmt : BitVec 4
  imm : BitVec 8
  sub : BitVec 5
deriving DecidableEq, Repr

/-- The M format (R168), without its reserved bits. -/
structure MF where
  guard : Guard
  ta : BitVec 4
  tb : BitVec 4
  acc : BitVec 4
  bind : BitVec 4
  q : BitVec 4
  k : BitVec 8
  aux : BitVec 4
  sub : BitVec 5
deriving DecidableEq, Repr

/-- The LD and ST format (R169), without its reserved bit. -/
structure LS where
  guard : Guard
  dr : BitVec 5
  gb : BitVec 6
  off : BitVec 16
  sub : BitVec 3
  space : BitVec 2
  width : BitVec 2
  dhi : BitVec 1
  gs : BitVec 6
  q : BitVec 4
  rf : Bool
deriving DecidableEq, Repr

/-- The E format (R170). -/
structure EF where
  guard : Guard
  qc : BitVec 4
  ga : BitVec 6
  gb : BitVec 6
  h : BitVec 4
  es : BitVec 4
  scope : BitVec 3
  cla : BitVec 4
  clb : BitVec 4
  at_ : Bool
  gt : BitVec 6
  sub : BitVec 5
deriving DecidableEq, Repr

/-- A hint: its slot, the low four bits of its opcode, and the 52 bits below the opcode, which it ignores (R185). -/
structure HF where
  slot : BitVec 3
  opc : BitVec 4
  rest : BitVec 52
deriving DecidableEq, Repr

/-- The register files of a context that the supervisor may rewrite. -/
inductive RegFile where
  | g | p | v | m | w | xp | h | q | b | es
deriving DecidableEq, Repr

/-- What a supervisor or management write without a row of its own may write (R78, R81, R103, R186, R315, R381, R387, R390). -/
inductive Mgmt where
  /-- Bytes of physical memory: page tables, function tables, staged programs, descriptors of the supervisor. -/
  | mem (pa : Nat) (bytes : List Byte)
  /-- An entry of the address-range table (Table 4-6). -/
  | range (i : Nat) (entry : BitVec 256)
  /-- TSHARE of a core (Table 6-1). -/
  | tshare (c : Nat) (w : BitVec 64)
  /-- CACHECFG of a core (Table 4-1). -/
  | cachecfg (c : Nat) (w : BitVec 64)
  /-- DOMAIN of a context (Table 6-3). -/
  | domain (c k : Nat) (w : BitVec 64)
  /-- SAVECFG of a context (Table 6-8). -/
  | savecfg (c k : Nat) (w : BitVec 64)
  /-- The save area of a context saved in faulted state is marked normal (R381). -/
  | markNormal (c k : Nat)
  /-- A barrier-group entry of a function; the group is whole again and its counters read 0 (R110, R111, R387). -/
  | barrierGroup (f g : Nat) (entry : BitVec 64)
  /-- The level-5 step counter of a barrier group (R390). -/
  | level5 (f g : Nat) (count : BitVec 64)
  /-- Scrubbed pages enter the pool's free list (R83). -/
  | pool (pfns : List Nat)
  /-- A register of a frozen context, as firmware services a fault (R359); `sec` is the section of a per-section register. -/
  | reg (c k : Nat) (file : RegFile) (r sec : Nat) (v : BitVec 512)
  /-- The size in pages of a log of a function and the physical address of its first page (R86). -/
  | logSize (f log pages base : Nat)
  /-- The program store: a staged program is pinned at a virtual address of a function, with its range list, each range by first virtual page and pages, in the order of use (R88, R119). -/
  | stage (f va : Nat) (ranges : List (Nat × Nat))
  /-- A step-window entry of a function; the page engine allocates both copies of each of its pages (R116). -/
  | stepWindow (f i : Nat) (entry : BitVec 128)
  /-- The package number that the host node assigns: step 6 of bring-up (R313, R324). -/
  | package (n : BitVec 12)
  /-- The number of records that the fault queue of a die's supervisor holds (R329). -/
  | supQueue (die size : Nat)
  /-- A context of a supervisor core starts firmware of a function at an address (R10, Table 19-3). -/
  | startSup (c k f : Nat) (pc : BitVec 64)
  /-- Every line of a page in use is copied to a fresh page, poison with each poisoned line; revoking the tag and writing the entry are writes of their own (R373). -/
  | copyPage (src dst : Nat)
deriving DecidableEq, Repr

/-- The instructions and the indivisible steps of the part: one constructor for each row of spec/opcode_table.json. -/
inductive Instr where
  /-- S-slot no-operation; also fills every empty slot of a canonical bundle (R200). -/
  | nop (o : SR)
  /-- Writes the 64-bit wrapping sum of two scalar registers (R201). -/
  | add (o : SR)
  /-- Writes the wrapping sum of a scalar register and a sign-extended immediate (R201). -/
  | addi (o : SI)
  /-- Writes the 64-bit wrapping difference of two scalar registers (R201). -/
  | sub (o : SR)
  /-- Writes the low 64 bits of the product; lands after 3 bundles (R201). -/
  | mul (o : SR)
  /-- Writes the high 64 bits of the signed 128-bit product (R201). -/
  | mulh (o : SR)
  /-- Writes the high 64 bits of the natural 128-bit product (R201). -/
  | mulhx (o : SR)
  /-- Signed division truncated toward zero; a zero divisor gives all ones and sets DIVZ (R202). -/
  | div (o : SR)
  /-- Natural division; a zero divisor gives all ones and sets DIVZ (R202). -/
  | divx (o : SR)
  /-- Signed remainder with the sign of the dividend; a zero divisor returns the dividend and sets DIVZ (R202). -/
  | rem (o : SR)
  /-- Natural remainder; a zero divisor returns the dividend and sets DIVZ (R202). -/
  | remx (o : SR)
  /-- Bitwise AND of two scalar registers (R201). -/
  | and (o : SR)
  /-- Bitwise AND with a zero-extended immediate (R201). -/
  | andi (o : SI)
  /-- Bitwise OR of two scalar registers (R201). -/
  | or (o : SR)
  /-- Bitwise OR with a zero-extended immediate (R201). -/
  | ori (o : SI)
  /-- Bitwise XOR of two scalar registers (R201). -/
  | xor (o : SR)
  /-- Bitwise XOR with a zero-extended immediate (R201). -/
  | xori (o : SI)
  /-- Logical left shift by a register count mod 64 (R201). -/
  | shl (o : SR)
  /-- Logical left shift by an immediate count (R201). -/
  | shli (o : SI)
  /-- Logical right shift by a register count mod 64 (R201). -/
  | shr (o : SR)
  /-- Logical right shift by an immediate count (R201). -/
  | shri (o : SI)
  /-- Arithmetic right shift by a register count mod 64 (R201). -/
  | sra (o : SR)
  /-- Arithmetic right shift by an immediate count (R201). -/
  | srai (o : SI)
  /-- Writes the signed minimum of two scalar registers (R201). -/
  | min (o : SR)
  /-- Writes the signed maximum of two scalar registers (R201). -/
  | max (o : SR)
  /-- Writes the natural minimum of two scalar registers (R201). -/
  | minx (o : SR)
  /-- Writes the natural maximum of two scalar registers (R201). -/
  | maxx (o : SR)
  /-- Counts leading zero bits of a scalar register (R201). -/
  | clz (o : SR)
  /-- Counts the one bits of a scalar register (R201). -/
  | popc (o : SR)
  /-- Loads a sign-extended 41-bit immediate into a scalar register (R203). -/
  | li (o : SL)
  /-- Replaces the top 23 bits of its destination with an immediate (R203). -/
  | lih (o : SL)
  /-- Selects one of two scalar registers by a predicate (SUB 0) (R204). -/
  | selPred (o : SR)
  /-- Selects bit by bit between two registers under a third (SUB 1) (R204). -/
  | selBits (o : SR)
  /-- Compares two registers and writes the condition and its complement, each ANDed with a predicate (R205). -/
  | cmp (o : SR)
  /-- Compares a register with a sign-extended immediate and writes one predicate (R205). -/
  | cmpi (o : SI)
  /-- Writes a two-input logic function of two predicates (R206). -/
  | plogic (o : SR)
  /-- FP32 addition rounded once by RNE (R207). -/
  | fadd (o : SR)
  /-- FP32 subtraction rounded once by RNE (R207). -/
  | fsub (o : SR)
  /-- FP32 multiplication rounded once by RNE (R207). -/
  | fmul (o : SR)
  /-- FP32 fused multiply-add with one rounding (R207). -/
  | ffma (o : SR)
  /-- FP32 minimum by the min rule of R31 (R207). -/
  | fmin (o : SR)
  /-- FP32 maximum by the max rule of R31 (R207). -/
  | fmax (o : SR)
  /-- FP32 compare writing a predicate and its complement (R208). -/
  | fcmp (o : SR)
  /-- Scalar conversion between FP32 and integer or 16-bit float formats (R209). -/
  | fcvt (o : SR)
  /-- PC-relative branch with two delay bundles (R210). -/
  | br (o : SB)
  /-- PC-relative branch that writes a link register (R210). -/
  | brl (o : SB)
  /-- Register-indirect branch that writes a link register (R210). -/
  | jr (o : SR)
  /-- Sets up hardware loop level 0 or 1 with a count and an end bundle (R182). -/
  | loop (o : SI)
  /-- Retires the context after its bundle commits, releasing pins and bindings (R212). -/
  | exit (o : SR)
  /-- Blocks once to let another ready context issue; otherwise a NOP (R213). -/
  | yield (o : SR)
  /-- Reads a special register into a scalar register (R214). -/
  | srd (o : SI)
  /-- Writes a special register under its access codes; RWS from a task is ignored and recorded (R214). -/
  | swr (o : SI)
  /-- Writes an engine staging register (R214). -/
  | stg (o : SR)
  /-- Writes the shape word of an owned tile (R177). -/
  | tset (o : SR)
  /-- Writes a lane-pattern register (R178). -/
  | xpset (o : SR)
  /-- Posts a call record to the die's supervisor, with the reply to come through a ring (R216). -/
  | svc (o : SI)
  /-- Reads the global tick at the bundle's issue cycle (R215). -/
  | tick (o : SR)
  /-- Opcodes 0xF0-0xFF in any slot execute as NOP and never fault (R185). -/
  | hint (o : HF)
  /-- Elementwise wrapping integer addition (R220). -/
  | vadd (o : VF)
  /-- Elementwise wrapping integer subtraction (R220). -/
  | vsub (o : VF)
  /-- Elementwise wrapping integer multiplication (R220). -/
  | vmul (o : VF)
  /-- Elementwise high half of the integer product (R220). -/
  | vmulh (o : VF)
  /-- Elementwise wrapping multiply-accumulate (R220). -/
  | vmac (o : VF)
  /-- Elementwise left shift by a count mod w (R220). -/
  | vshl (o : VF)
  /-- Elementwise logical right shift (R220). -/
  | vshr (o : VF)
  /-- Elementwise arithmetic right shift (R220). -/
  | vsra (o : VF)
  /-- Elementwise bitwise AND (R220). -/
  | vand (o : VF)
  /-- Elementwise bitwise OR (R220). -/
  | vor (o : VF)
  /-- Elementwise bitwise XOR (R220). -/
  | vxor (o : VF)
  /-- Elementwise bitwise NOT (R220). -/
  | vnot (o : VF)
  /-- Elementwise minimum; NaN-propagating on float formats (R220). -/
  | vmin (o : VF)
  /-- Elementwise maximum; NaN-propagating on float formats (R220). -/
  | vmax (o : VF)
  /-- Elementwise wrapping absolute value (R220). -/
  | vabs (o : VF)
  /-- Elementwise wrapping negation (R220). -/
  | vneg (o : VF)
  /-- Integer compare writing a mask and clearing its high bits in every section (R221). -/
  | vcmp (o : VF)
  /-- Selects elements of two registers by a mask (R220). -/
  | vsel (o : VF)
  /-- Copies a vector register bit for bit (R220). -/
  | vmov (o : VF)
  /-- Broadcasts element k of a register to every element (SUB 0) (R220). -/
  | vbcastElem (o : VF)
  /-- Broadcasts a sign-extended immediate to every element (SUB 1) (R220). -/
  | vbcastImm (o : VF)
  /-- Broadcasts a 16-bit pattern into the top half of every element (SUB 2) (R220). -/
  | vbcastHi (o : VF)
  /-- Inserts element 0 of a source into element k of the destination (R220). -/
  | vins (o : VF)
  /-- Extracts element k into element 0 and zeroes the rest (R220). -/
  | vext (o : VF)
  /-- Writes an immediate plus the element index into every element (R220). -/
  | viota (o : VF)
  /-- Elementwise float addition rounded by RNE (R222). -/
  | vfadd (o : VF)
  /-- Elementwise float subtraction rounded by RNE (R222). -/
  | vfsub (o : VF)
  /-- Elementwise float multiplication rounded by RNE (R222). -/
  | vfmul (o : VF)
  /-- Elementwise fused multiply-add with one rounding (R222). -/
  | vfma (o : VF)
  /-- Elementwise float minimum by R31 (R222). -/
  | vfmin (o : VF)
  /-- Elementwise float maximum by R31 (R222). -/
  | vfmax (o : VF)
  /-- Float compare writing a mask (R222). -/
  | vfcmp (o : VF)
  /-- Converts a run of elements between formats by RNE, RZ or stochastic rounding (R223). -/
  | vcvt (o : VF)
  /-- Block-converts 32 FP32 values to FP8 with a shared E8M0 scale (R224). -/
  | vbcvt (o : VF)
  /-- Reduces a section by the fixed pairwise sum tree (R225). -/
  | vrsum (o : VF)
  /-- Reduces a section by the fixed pairwise max tree (R225). -/
  | vrmax (o : VF)
  /-- Bitonic compare-and-swap of keys with index companions (R226). -/
  | vcas (o : VF)
  /-- Bitwise logic function of two masks (R227). -/
  | mlogic (o : VF)
  /-- Counts the set bits of a mask into element 0 (R227). -/
  | mcnt (o : VF)
  /-- Isolates the lowest set bit of a mask (R227). -/
  | mfirst (o : VF)
  /-- Soft compare writing PF16 fractions softened by TMPR and a fresh lineage (R229). -/
  | wcmp (o : VF)
  /-- Probabilistic AND of two fractions, by lineage independence (R230). -/
  | wand (o : VF)
  /-- Probabilistic OR of two fractions, by lineage independence (R230). -/
  | wor (o : VF)
  /-- Complements each fraction exactly (R230). -/
  | wnot (o : VF)
  /-- Blends two vectors by a fraction (R231). -/
  | wblend (o : VF)
  /-- Collapses fractions to mask bits using counter-based random draws and advances RCNT (R232). -/
  | wcoll (o : VF)
  /-- Writes the gradient of a soft compare (R233). -/
  | wgradCmp (o : VF)
  /-- Writes the gradient of a blend with respect to p (R233). -/
  | wgradBlend (o : VF)
  /-- Writes the straight-through gradient 1.0 (R233). -/
  | wgradColl (o : VF)
  /-- Sets fractions from PF16 elements with a given lineage (R234). -/
  | wset (o : VF)
  /-- Reads fraction codes and lineage into a vector (R234). -/
  | wget (o : VF)
  /-- Copies fractions under a fresh lineage (R234). -/
  | wlin (o : VF)
  /-- Correctly rounded 2^a, V1 only (R236). -/
  | vexp2 (o : VF)
  /-- Correctly rounded log2(a), V1 only (R236). -/
  | vlog2 (o : VF)
  /-- Correctly rounded reciprocal, V1 only (R236). -/
  | vrcp (o : VF)
  /-- Correctly rounded reciprocal square root, V1 only (R236). -/
  | vrsq (o : VF)
  /-- Correctly rounded tanh, V1 only (R236). -/
  | vtanh (o : VF)
  /-- Writes mean, reciprocal std and count into a statistics entry (R237). -/
  | vstatNorm (o : VF)
  /-- Folds a value into a statistics entry's base-2 log-sum-exp (R237). -/
  | vstatLse (o : VF)
  /-- Felts register data to codeword indices through a binding (R238). -/
  | vnear (o : VF)
  /-- Permutes lanes within each section by a pattern register (R239). -/
  | xperm (o : XF)
  /-- Rotates elements within each section (R239). -/
  | xrot (o : XF)
  /-- Shifts elements across two registers (R239). -/
  | xshift (o : XF)
  /-- Broadcasts one section to all sections over the section network (R239). -/
  | xbcast (o : XF)
  /-- Gathers sections by a pattern over the section network (R239). -/
  | xsec (o : XF)
  /-- Interleaves halves of two registers (R239). -/
  | xzip (o : XF)
  /-- De-interleaves a run of two registers (R239). -/
  | xunzip (o : XF)
  /-- Reverses elements within each section (R239). -/
  | xrev (o : XF)
  /-- Queues the zeroing of an accumulator and its peak register (R282). -/
  | mzero (o : MF)
  /-- Queues one rank-16 segment update of an accumulator from two tiles (R283). -/
  | mop (o : MF)
  /-- Queues the build of a partial-product table of a binding against a tile (R286). -/
  | mpart (o : MF)
  /-- Queues the gather-add of table rows into an accumulator by index (R287). -/
  | mlut (o : MF)
  /-- Queues a pair-table build and gather for two coded operands (R288). -/
  | mlut2 (o : MF)
  /-- Sets or clears the scale latch of a tile (R285). -/
  | mscl (o : MF)
  /-- Reads half an accumulator row into a vector; a peak-register drain (R289). -/
  | mrd (o : MF)
  /-- Queues the write of half an accumulator row from a vector (R289). -/
  | mwr (o : MF)
  /-- Reads an accumulator's peak register as some prefix of its drains (R290). -/
  | mpeak (o : MF)
  /-- Waits for all earlier drains, then reads the full-prefix peak (R290). -/
  | mpeakSettle (o : MF)
  /-- Queues an AdamW update of parameter records from a ring into a ring and a master tile (R292). -/
  | mopt (o : MF)
  /-- Queues the write of an accumulator as a quarter of a 512x512 matrix in the cluster window (R291). -/
  | mxfer (o : MF)
  /-- Blocks until earlier queued writers of a tile or accumulator have landed, then clears its unwaited bit (R279). -/
  | mwait (o : MF)
  /-- A queued matrix operation starts after its issue and after the operation ahead lands, reading its data (R277). -/
  | matrixOpStart (c : Nat)
  /-- A queued matrix operation lands its results, peak contributions and any ring advance (R277). -/
  | matrixOpLand (c : Nat)
  /-- Loads a zero-extended scalar from scratchpad or window (R245). -/
  | lds (o : LS)
  /-- Loads a 512-byte vector at a stride (R246). -/
  | ldv (o : LS)
  /-- Gathers one 32-bit element per lane from data-formed addresses (R247). -/
  | ldvx (o : LS)
  /-- Queues a tile load from scratchpad at a pitch (R250). -/
  | ldt (o : LS)
  /-- Queues a tile load from a ring slot, waiting on the ring (R250). -/
  | ldtRing (o : LS)
  /-- Loads a vector from a consumer ring slot, waiting until it is available (R246). -/
  | ldq (o : LS)
  /-- Loads packed indices and decodes them through a binding (R251). -/
  | ldc (o : LS)
  /-- Loads W registers and lineages as per-section records (R248). -/
  | ldw (o : LS)
  /-- Loads a mask register per section (R248). -/
  | ldm (o : LS)
  /-- Reads 32 statistics entries into a vector (R249). -/
  | ldstat (o : LS)
  /-- Looks up a block in the tag table, returning a slot or a miss predicate (R73). -/
  | probe (o : LS)
  /-- Looks up a block and on a miss claims a victim slot and queues its 2 KiB fill (R253). -/
  | probeFill (o : LS)
  /-- Stores the low bytes of a scalar register (R245). -/
  | sts (o : LS)
  /-- Stores a 512-byte vector at a stride (R246). -/
  | stv (o : LS)
  /-- Scatters one 32-bit element per lane to data-formed addresses (R247). -/
  | stvx (o : LS)
  /-- Stores a tile image to scratchpad at a pitch (R250). -/
  | stt (o : LS)
  /-- Stores a vector through a producer slot of a local ring (R254). -/
  | stq (o : LS)
  /-- Felts a vector through a binding and stores the packed indices (R251). -/
  | stc (o : LS)
  /-- Stores W registers and lineages as per-section records (R248). -/
  | stw (o : LS)
  /-- Stores a mask register per section (R248). -/
  | stm (o : LS)
  /-- Indivisible read-modify-write of a scratchpad or window word, returning the old value (R252). -/
  | atom (o : LS)
  /-- Writes one tag-table entry (R253). -/
  | tagw (o : LS)
  /-- Queues a linear copy between a handle's page and local memory, or local to local (R258). -/
  | cpy (o : EF)
  /-- Queues a four-dimensional affine copy, optionally indirect through a piece table (R259). -/
  | cpya (o : EF)
  /-- Queues a copy into the next producer slot of a local or remote ring (R261). -/
  | cpyw (o : EF)
  /-- Queues the re-encoding of a coded tensor from one binding to another (R265). -/
  | enc (o : EF)
  /-- Binds a register to a named codebook version and queues the copy of its array (R262). -/
  | cbindPin (o : EF)
  /-- Binds a register to the latest codebook version as floating and queues the copy (R262). -/
  | cbindFloat (o : EF)
  /-- Queues the publication of a new codebook version from a scratchpad array (R263). -/
  | cbrev (o : EF)
  /-- Clears a binding and releases its reference once its accesses have landed (R264). -/
  | cbret (o : EF)
  /-- Queues a splice request that publishes a new version of a stitched tensor (R97). -/
  | splice (o : EF)
  /-- Queues a splice that suspends with a fault instead of writing a failure STAT (R368). -/
  | spliceTrap (o : EF)
  /-- Queues a pin on the current version of a stitched tensor (R99). -/
  | pin (o : EF)
  /-- Queues the drop of one pin after earlier copies complete (R99). -/
  | unpin (o : EF)
  /-- Queues the addition of one share reference to a piece page (R101). -/
  | share (o : EF)
  /-- Supervisor command allocating a page to a function (R267). -/
  | pgalloc (o : EF)
  /-- Supervisor command freeing a page into quarantine (R267). -/
  | pgfree (o : EF)
  /-- Translates a virtual page into a handle landing 9 bundles after issue (R268). -/
  | xlat (o : EF)
  /-- Clears a handle's VALID (R268). -/
  | hrel (o : EF)
  /-- Advances a ring's produced count (R269). -/
  | advProd (o : EF)
  /-- Advances a ring's consumed count, releasing slots after earlier reads (R269). -/
  | advCons (o : EF)
  /-- Writes a ring handle, sets VALID and clears its counts (R270). -/
  | ringset (o : EF)
  /-- Queues the send of a launch record to a queue of a package (R271). -/
  | msg (o : EF)
  /-- Queues the send of a launch record to a queue of this package (R271). -/
  | task (o : EF)
  /-- Adds to an event counter after earlier writes perform (R272). -/
  | evsig (o : EF)
  /-- Blocks until an event counter meets a threshold (R272). -/
  | evwait (o : EF)
  /-- Arrives at a barrier of a level and blocks until release (R114). -/
  | bar (o : EF)
  /-- Stalls the core on the die's wired-AND sync line (R113). -/
  | sync (o : EF)
  /-- Holds later engine commands of chosen classes until earlier accesses perform at a scope (R138). -/
  | fence (o : EF)
  /-- Orders remote accesses and advances a ring when earlier ones complete (R139). -/
  | drain (o : EF)
  /-- A barrier whose release advances the step counter and re-resolves floating bindings (R115). -/
  | step (o : EF)
  /-- Blocks until the global tick reaches a value (R129). -/
  | twait (o : EF)
  /-- Queues the append of pages to a flash log (R274). -/
  | flapp (o : EF)
  /-- Queues an indivisible remote read-modify-write at a word's home agent (R275). -/
  | rmw (o : EF)
  /-- An in-flight register result lands between its two bundles of the context (R104). -/
  | resultLands (c k : Nat)
  /-- A queued engine command starts in order once ring room, fences and drains allow (R255). -/
  | engineCommandStart (c e : Nat)
  /-- An .at command starts when TICK reaches its tick (R129). -/
  | timedCommandStart (c e : Nat)
  /-- An engine command's writes perform and it advances its completion ring in issue order (R255). -/
  | engineCompletion (c id : Nat)
  /-- The codeword array of a binding lands in scratchpad and its ring advances (R50). -/
  | cbindArrayLands (c id : Nat)
  /-- In one indivisible step the new version becomes live and LATEST, or MISMATCH is written (R54). -/
  | cbrevPublish (c id : Nat)
  /-- A reblocking completes, setting UNENC if any search failed, and advances its ring (R62). -/
  | encComplete (c id : Nat)
  /-- The stitch engine takes the head when BUSY clears and publishes or fails the splice (R97). -/
  | splicePerform (c id : Nat)
  /-- The stitch engine increments PINS, writes the pin record and advances the ring (R99). -/
  | pinPerform (c id : Nat)
  /-- The pin is dropped once earlier copies complete (R99). -/
  | unpinDrop (c id : Nat)
  /-- A waiting allocation takes a page when one joins the free list (R83). -/
  | pgallocPageTaken (c id : Nat)
  /-- When quiescence passes QSTAMP the scrub engine takes the page (R84). -/
  | scrubStart (pfn : Nat)
  /-- A scrubbed page joins the free list and freed directory or version slots clear (R84). -/
  | scrubDone (pfn : Nat)
  /-- The scrub engine clears a line still marked pending scrub in the background (R371). -/
  | scrubLineClear (pfn line : Nat)
  /-- A cache fill lands, clears FILLING and advances its ring (R73). -/
  | probeFillLands (c id : Nat)
  /-- A translation-cache miss walk completes and the blocked XLAT issues or faults (R79). -/
  | pageWalkDone (c k : Nat)
  /-- Instruction-cache lines arrive and the blocked context becomes ready (R161). -/
  | icacheFill (c k : Nat)
  /-- Supervisor revocation clears handles and cache entries with a mapping tag (R80). -/
  | mtagRevoke (f tag : Nat)
  /-- Revocation reports done when no in-flight command uses the mapping (R80). -/
  | revokeDone (f tag : Nat)
  /-- The supervisor evicts a page to the compressed reserve zone (R88). -/
  | pageEvict (f va : Nat)
  /-- The supervisor expands a reserve-zone page, maps it and resumes the context (R362). -/
  | pageExpand (f va c k : Nat)
  /-- Supervisor command erasing a flash log and resetting its pointer (R86). -/
  | logErase (f log : Nat)
  /-- The supervisor writes a reply into a free slot of the ring and advances PROD (R216). -/
  | svcReply (die : Nat) (reply : BitVec 512)
  /-- A send's data arrives and the consumer end's PROD advances in send order (R309). -/
  | remoteDataArrive (f link : Nat) (data : List Byte)
  /-- The producer end's PROD advances when the consumer accepted the send (R309). -/
  | remoteSendAccept (f link : Nat)
  /-- A slot return reaches the producer end and advances its CONS (R77). -/
  | slotReturnArrive (f link : Nat)
  /-- The host writes a launch record into a queue window (R315). -/
  | launchRecordWrite (q : Nat) (r : BitVec 512)
  /-- A queue accepts a record whole and stamps SEQ (R123). -/
  | queueRecordAccept (q : Nat)
  /-- A full queue drops a record and later ones from the sender and sets NACK (R389). -/
  | negativeAcknowledgement (q : Nat)
  /-- BACKOFF ticks after a negative acknowledgement the sender resends its dropped records in order (R389). -/
  | replay (c k q : Nat)
  /-- The arbiter places ready head records on contexts by priority and weight (R124). -/
  | dispatch 
  /-- After a block or fault the core issues the next ready context after two bubble cycles (R105). -/
  | contextSwitch (c : Nat)
  /-- A context ready but unrun for 4,096 cycles is switched in (R106). -/
  | agingSwitch (c : Nat)
  /-- A frozen team resumes with its skew unchanged two cycles after the block clears (R108). -/
  | teamResume (t : Nat)
  /-- A barrier releases when all participants have arrived (R114). -/
  | barRelease (c k : Nat)
  /-- A STEP releases, advancing the step counter and re-resolving floating bindings (R115). -/
  | stepRelease (c k : Nat)
  /-- A floating binding's reloaded codeword array lands, completing the STEP (R52). -/
  | bindingReloadLands (c k : Nat)
  /-- All participants issue their next bundle six cycles after the last SYNC arrival (R113). -/
  | syncRelease (c k : Nat)
  /-- The save engine saves pre-empted contexts and, for another function, whole clusters (R130). -/
  | preemptSave (c k : Nat)
  /-- A saved context is restored on its own core and context and resumes (R131). -/
  | contextRestore (c k : Nat)
  /-- A finished task writes its completion record and signal in queue order and frees contexts (R121). -/
  | taskComplete (t : Nat)
  /-- A ready launch node enters its record into the graph's queue (R128). -/
  | graphLaunchNode (g n : Nat)
  /-- A ready if node makes a successor ready by its condition word (R128). -/
  | graphIfNode (g n : Nat)
  /-- A ready while node chooses its body or exit by its condition word (R128). -/
  | graphWhileNode (g n : Nat)
  /-- A ready switch node makes the successor its value selects ready (R128). -/
  | graphSwitchNode (g n : Nat)
  /-- A join node counts arrivals and releases its successor at JOIN (R128). -/
  | graphJoinNode (g n : Nat)
  /-- The supervisor resumes a faulted context, reissuing the faulting bundle (R326). -/
  | supervisorResume (c k : Nat)
  /-- The supervisor saves a faulted context or team in faulted state (R381). -/
  | saveFaulted (c k : Nat)
  /-- A task's contexts stop, commands are discarded and it completes with STAT 0x01 (R382). -/
  | abandonTask (t : Nat)
  /-- A suspended engine command runs again from its first step (R380). -/
  | resumeCommand (c id : Nat)
  /-- A suspended engine command is discarded with its held completions (R380). -/
  | discardCommand (c id : Nat)
  /-- A configuration block with EN 1 enables a disabled function (R317). -/
  | functionEnable (f : Nat) (blk : BitVec 1024)
  /-- A block with EN 1 to an enabled function changes only WEIGHT and QUOTA (R317). -/
  | functionUpdate (f : Nat) (blk : BitVec 1024)
  /-- A block with EN 0 to an enabled function abandons its work and frees its pages (R336). -/
  | functionReset (f : Nat)
  /-- Management write of a queue configuration word (R123). -/
  | queueConfigWrite (q : Nat) (w : BitVec 64)
  /-- Management write of a remote-ring table entry (R318). -/
  | remoteRingEntryWrite (f i : Nat) (w : BitVec 128)
  /-- Any other supervisor or management write to a table or register without a row of its own (R315). -/
  | managementWrite (m : Mgmt)
  /-- Returns everything to Reset values and runs bring-up, reporting a failed step (R337). -/
  | packageReset (failStep cause : Nat)
  /-- Every 1,024 ticks each link sends an alignment flit (R320). -/
  | alignFlitSend 
  /-- An alignment flit steers the tick toward the root and checks alignment (R320). -/
  | alignFlitReceive (rootTick : BitVec 64) (steps : List (Nat × BitVec 64))
  /-- No alignment flit for 65,536 ticks takes the package out of alignment (R390). -/
  | alignTimeout 
  /-- After 1,024 ticks within one tick of the root the package rejoins alignment (R390). -/
  | alignRejoin 
  /-- A flit failing its link check is resent and counted as corrected (R391). -/
  | linkFlitResend (port lane : Nat) (syn : BitVec 64)
  /-- A request failing its end-to-end check is retried up to three times, then suspended (R391). -/
  | endToEndRetry (c id : Nat) (ok : Bool)
  /-- A CXL request with no answer within 2 ms ends with an integrity fault (R375). -/
  | cxlTimeout (c id : Nat)
  /-- A row exceeding 512 activations in 32 microseconds is throttled (R372). -/
  | rowThrottle (bank row : Nat)
  /-- After 200 ns the throttled row serves its parked requests (R372). -/
  | throttleRelease (bank row : Nat)
  /-- The buffer drains to the log, writing overflow counts, chain words and signed heads (R334). -/
  | studBookDrain 
  /-- A root-signed command clears the stud book and restarts its chain (R335). -/
  | secureErase (rootSigned : Bool)
  /-- A cluster-window read or write, an ATOM on the window, or a .c tile transfer performs on the sixth cycle after its issue; same-cycle writes take effect in ascending COREID order (R69). -/
  | windowAccessPerform (c : Nat)
  /-- On a host request carrying a 32-byte nonce, the security processor builds an attestation report and signs it after writing the incremented one-time-key counter to flash (R323). -/
  | attestationReport (nonce : BitVec 256)
  /-- A fabric or CXL link goes down; in-flight requests are retried over other ports, and later CXL requests fail until their mappings are revoked (R391). -/
  | linkDown (port : Nat)
deriving DecidableEq, Repr

end Sys2Proof
end

