-- ==== Sys2Proof/Machine/Encoding.lean ====
section
/-! DEFINITION. The encoding tables of 08_encoding and of the instruction chapters: opcodes, operand fields, which fields a row uses, and the limits that the decode checks judge (R338 to R345). -/

namespace Sys2Proof.Machine.Encoding

/-- Bits `hi:lo` of an operand field, set. -/
def fld (hi lo : Nat) : BitVec 47 := BitVec.ofNat 47 ((2 ^ (hi + 1 - lo) - 1) <<< lo)

/-! ## Operand fields and formats (R163 to R170) -/

/-- The operand field of an S-R syllable (R163). -/
def packSR (o : SR) : BitVec 47 := o.gd ++ o.ga ++ o.gb ++ o.gc ++ o.pd ++ o.pa ++ o.pb ++ o.sub ++ 0#6

/-- The S-R fields of an operand field (R163). -/
def unpackSR (g : Guard) (f : BitVec 47) : SR :=
  { guard := g, gd := f.extractLsb' 41 6, ga := f.extractLsb' 35 6, gb := f.extractLsb' 29 6, gc := f.extractLsb' 23 6,
    pd := f.extractLsb' 19 4, pa := f.extractLsb' 15 4, pb := f.extractLsb' 11 4, sub := f.extractLsb' 6 5 }

/-- The operand field of an S-I syllable (R164). -/
def packSI (o : SI) : BitVec 47 := o.gd ++ o.ga ++ o.imm ++ o.sub

/-- The S-I fields of an operand field (R164). -/
def unpackSI (g : Guard) (f : BitVec 47) : SI :=
  { guard := g, gd := f.extractLsb' 41 6, ga := f.extractLsb' 35 6, imm := f.extractLsb' 3 32, sub := f.extractLsb' 0 3 }

/-- The operand field of an S-L syllable (R165). -/
def packSL (o : SL) : BitVec 47 := o.gd ++ o.imm

/-- The S-L fields of an operand field (R165). -/
def unpackSL (g : Guard) (f : BitVec 47) : SL := { guard := g, gd := f.extractLsb' 41 6, imm := f.extractLsb' 0 41 }

/-- The operand field of an S-B syllable (R165). -/
def packSB (o : SB) : BitVec 47 := o.link ++ o.off ++ 0#9

/-- The S-B fields of an operand field (R165). -/
def unpackSB (g : Guard) (f : BitVec 47) : SB := { guard := g, link := f.extractLsb' 41 6, off := f.extractLsb' 9 32 }

/-- The operand field of a V0 or V1 syllable (R166). -/
def packVF (o : VF) : BitVec 47 := o.vd ++ o.va ++ o.vb ++ o.vc ++ o.fmt ++ BitVec.ofBool o.i ++ o.low

/-- The V fields of an operand field (R166). -/
def unpackVF (g : Guard) (v1 : Bool) (f : BitVec 47) : VF :=
  { guard := g, v1 := v1, vd := f.extractLsb' 42 5, va := f.extractLsb' 37 5, vb := f.extractLsb' 32 5, vc := f.extractLsb' 27 5,
    fmt := f.extractLsb' 23 4, i := f.getLsbD 22, low := f.extractLsb' 0 22 }

/-- The operand field of an X syllable (R167). -/
def packXF (o : XF) : BitVec 47 := o.vd ++ o.va ++ o.xp ++ o.vb ++ o.fmt ++ o.imm ++ o.sub ++ 0#11

/-- The X fields of an operand field (R167). -/
def unpackXF (g : Guard) (f : BitVec 47) : XF :=
  { guard := g, vd := f.extractLsb' 42 5, va := f.extractLsb' 37 5, xp := f.extractLsb' 33 4, vb := f.extractLsb' 28 5,
    fmt := f.extractLsb' 24 4, imm := f.extractLsb' 16 8, sub := f.extractLsb' 11 5 }

/-- The operand field of an M syllable (R168). -/
def packMF (o : MF) : BitVec 47 := o.ta ++ o.tb ++ o.acc ++ o.bind ++ o.q ++ o.k ++ o.aux ++ o.sub ++ 0#10

/-- The M fields of an operand field (R168). -/
def unpackMF (g : Guard) (f : BitVec 47) : MF :=
  { guard := g, ta := f.extractLsb' 43 4, tb := f.extractLsb' 39 4, acc := f.extractLsb' 35 4, bind := f.extractLsb' 31 4,
    q := f.extractLsb' 27 4, k := f.extractLsb' 19 8, aux := f.extractLsb' 15 4, sub := f.extractLsb' 10 5 }

/-- The operand field of an LD or ST syllable (R169). -/
def packLS (o : LS) : BitVec 47 :=
  o.dr ++ o.gb ++ o.off ++ o.sub ++ o.space ++ o.width ++ o.dhi ++ o.gs ++ o.q ++ BitVec.ofBool o.rf ++ 0#1

/-- The LD and ST fields of an operand field (R169). -/
def unpackLS (g : Guard) (f : BitVec 47) : LS :=
  { guard := g, dr := f.extractLsb' 42 5, gb := f.extractLsb' 36 6, off := f.extractLsb' 20 16, sub := f.extractLsb' 17 3,
    space := f.extractLsb' 15 2, width := f.extractLsb' 13 2, dhi := f.extractLsb' 12 1, gs := f.extractLsb' 6 6,
    q := f.extractLsb' 2 4, rf := f.getLsbD 1 }

/-- The operand field of an E syllable (R170). -/
def packEF (o : EF) : BitVec 47 :=
  o.qc ++ o.ga ++ o.gb ++ o.h ++ o.es ++ o.scope ++ o.cla ++ o.clb ++ BitVec.ofBool o.at_ ++ o.gt ++ o.sub

/-- The E fields of an operand field (R170). -/
def unpackEF (g : Guard) (f : BitVec 47) : EF :=
  { guard := g, qc := f.extractLsb' 43 4, ga := f.extractLsb' 37 6, gb := f.extractLsb' 31 6, h := f.extractLsb' 27 4,
    es := f.extractLsb' 23 4, scope := f.extractLsb' 20 3, cla := f.extractLsb' 16 4, clb := f.extractLsb' 12 4,
    at_ := f.getLsbD 11, gt := f.extractLsb' 5 6, sub := f.extractLsb' 0 5 }

/-! ## Subfields -/

/-- xa (R166). -/
def xa (o : VF) : Nat := (o.low.extractLsb' 19 3).toNat
/-- xb (R166). -/
def xb (o : VF) : Nat := (o.low.extractLsb' 16 3).toNat
/-- SUB of the form in use (R219). -/
def vsub (o : VF) : Nat := if o.i then (o.low.extractLsb' 0 6).toNat else (o.low.extractLsb' 11 5).toNat
/-- SRC (R166). -/
def src (o : VF) : Nat := (o.low.extractLsb' 8 3).toNat
/-- imm16 (R166). -/
def imm16 (o : VF) : BitVec 16 := o.low.extractLsb' 6 16
/-- The scalar register DHI:DR (R169). -/
def sreg (o : LS) : Nat := o.dhi.toNat * 32 + o.dr.toNat
/-- The predicate of PROBE in bits 16:13 (R253). -/
def probePd (o : LS) : Nat := o.space.toNat * 4 + o.width.toNat
/-- The V register of MRD and MWR in bits 46:42 (R280). -/
def mvreg (o : MF) : Nat := o.ta.toNat * 2 + o.tb.toNat / 8
/-- The G register of an M syllable in K[5:0] (R280). -/
def mgreg (o : MF) : Nat := o.k.toNat % 64

/-- Element width of a format code (Table 8-3). -/
def fmtWidth (c : Nat) : Nat :=
  if c = 4 ∨ c = 5 ∨ c = 11 then 32
  else if c = 2 ∨ c = 3 ∨ c = 9 ∨ c = 10 ∨ c = 12 then 16
  else 8

/-- Elements of a section at a format's width (R218). -/
def fmtCount (c : Nat) : Nat := 512 / fmtWidth c

/-- Is the guard index one that the slot has (R162, R344)? -/
def vguardOk (g : Guard) : Bool := g.idx.toNat < 8

/-! ## Slots and opcodes (Tables 8-12 to 8-14) -/

/-- The tag of the slot of an instruction (R157); an event has none. -/
def tag : Instr → Option (BitVec 3)
  | .nop _ => some 0
  | .add _ => some 0
  | .addi _ => some 0
  | .sub _ => some 0
  | .mul _ => some 0
  | .mulh _ => some 0
  | .mulhx _ => some 0
  | .div _ => some 0
  | .divx _ => some 0
  | .rem _ => some 0
  | .remx _ => some 0
  | .and _ => some 0
  | .andi _ => some 0
  | .or _ => some 0
  | .ori _ => some 0
  | .xor _ => some 0
  | .xori _ => some 0
  | .shl _ => some 0
  | .shli _ => some 0
  | .shr _ => some 0
  | .shri _ => some 0
  | .sra _ => some 0
  | .srai _ => some 0
  | .min _ => some 0
  | .max _ => some 0
  | .minx _ => some 0
  | .maxx _ => some 0
  | .clz _ => some 0
  | .popc _ => some 0
  | .li _ => some 0
  | .lih _ => some 0
  | .selPred _ => some 0
  | .selBits _ => some 0
  | .cmp _ => some 0
  | .cmpi _ => some 0
  | .plogic _ => some 0
  | .fadd _ => some 0
  | .fsub _ => some 0
  | .fmul _ => some 0
  | .ffma _ => some 0
  | .fmin _ => some 0
  | .fmax _ => some 0
  | .fcmp _ => some 0
  | .fcvt _ => some 0
  | .br _ => some 0
  | .brl _ => some 0
  | .jr _ => some 0
  | .loop _ => some 0
  | .exit _ => some 0
  | .yield _ => some 0
  | .srd _ => some 0
  | .swr _ => some 0
  | .stg _ => some 0
  | .tset _ => some 0
  | .xpset _ => some 0
  | .svc _ => some 0
  | .tick _ => some 0
  | .vadd o => some (if o.v1 then 2 else 1)
  | .vsub o => some (if o.v1 then 2 else 1)
  | .vmul o => some (if o.v1 then 2 else 1)
  | .vmulh o => some (if o.v1 then 2 else 1)
  | .vmac o => some (if o.v1 then 2 else 1)
  | .vshl o => some (if o.v1 then 2 else 1)
  | .vshr o => some (if o.v1 then 2 else 1)
  | .vsra o => some (if o.v1 then 2 else 1)
  | .vand o => some (if o.v1 then 2 else 1)
  | .vor o => some (if o.v1 then 2 else 1)
  | .vxor o => some (if o.v1 then 2 else 1)
  | .vnot o => some (if o.v1 then 2 else 1)
  | .vmin o => some (if o.v1 then 2 else 1)
  | .vmax o => some (if o.v1 then 2 else 1)
  | .vabs o => some (if o.v1 then 2 else 1)
  | .vneg o => some (if o.v1 then 2 else 1)
  | .vcmp o => some (if o.v1 then 2 else 1)
  | .vsel o => some (if o.v1 then 2 else 1)
  | .vmov o => some (if o.v1 then 2 else 1)
  | .vbcastElem o => some (if o.v1 then 2 else 1)
  | .vbcastImm o => some (if o.v1 then 2 else 1)
  | .vbcastHi o => some (if o.v1 then 2 else 1)
  | .vins o => some (if o.v1 then 2 else 1)
  | .vext o => some (if o.v1 then 2 else 1)
  | .viota o => some (if o.v1 then 2 else 1)
  | .vfadd o => some (if o.v1 then 2 else 1)
  | .vfsub o => some (if o.v1 then 2 else 1)
  | .vfmul o => some (if o.v1 then 2 else 1)
  | .vfma o => some (if o.v1 then 2 else 1)
  | .vfmin o => some (if o.v1 then 2 else 1)
  | .vfmax o => some (if o.v1 then 2 else 1)
  | .vfcmp o => some (if o.v1 then 2 else 1)
  | .vcvt o => some (if o.v1 then 2 else 1)
  | .vbcvt o => some (if o.v1 then 2 else 1)
  | .vrsum o => some (if o.v1 then 2 else 1)
  | .vrmax o => some (if o.v1 then 2 else 1)
  | .vcas o => some (if o.v1 then 2 else 1)
  | .mlogic o => some (if o.v1 then 2 else 1)
  | .mcnt o => some (if o.v1 then 2 else 1)
  | .mfirst o => some (if o.v1 then 2 else 1)
  | .wcmp o => some (if o.v1 then 2 else 1)
  | .wand o => some (if o.v1 then 2 else 1)
  | .wor o => some (if o.v1 then 2 else 1)
  | .wnot o => some (if o.v1 then 2 else 1)
  | .wblend o => some (if o.v1 then 2 else 1)
  | .wcoll o => some (if o.v1 then 2 else 1)
  | .wgradCmp o => some (if o.v1 then 2 else 1)
  | .wgradBlend o => some (if o.v1 then 2 else 1)
  | .wgradColl o => some (if o.v1 then 2 else 1)
  | .wset o => some (if o.v1 then 2 else 1)
  | .wget o => some (if o.v1 then 2 else 1)
  | .wlin o => some (if o.v1 then 2 else 1)
  | .vexp2 o => some (if o.v1 then 2 else 1)
  | .vlog2 o => some (if o.v1 then 2 else 1)
  | .vrcp o => some (if o.v1 then 2 else 1)
  | .vrsq o => some (if o.v1 then 2 else 1)
  | .vtanh o => some (if o.v1 then 2 else 1)
  | .vstatNorm o => some (if o.v1 then 2 else 1)
  | .vstatLse o => some (if o.v1 then 2 else 1)
  | .vnear o => some (if o.v1 then 2 else 1)
  | .xperm _ => some 3
  | .xrot _ => some 3
  | .xshift _ => some 3
  | .xbcast _ => some 3
  | .xsec _ => some 3
  | .xzip _ => some 3
  | .xunzip _ => some 3
  | .xrev _ => some 3
  | .mzero _ => some 4
  | .mop _ => some 4
  | .mpart _ => some 4
  | .mlut _ => some 4
  | .mlut2 _ => some 4
  | .mscl _ => some 4
  | .mrd _ => some 4
  | .mwr _ => some 4
  | .mpeak _ => some 4
  | .mpeakSettle _ => some 4
  | .mopt _ => some 4
  | .mxfer _ => some 4
  | .mwait _ => some 4
  | .lds _ => some 5
  | .ldv _ => some 5
  | .ldvx _ => some 5
  | .ldt _ => some 5
  | .ldtRing _ => some 5
  | .ldq _ => some 5
  | .ldc _ => some 5
  | .ldw _ => some 5
  | .ldm _ => some 5
  | .ldstat _ => some 5
  | .probe _ => some 5
  | .probeFill _ => some 5
  | .sts _ => some 6
  | .stv _ => some 6
  | .stvx _ => some 6
  | .stt _ => some 6
  | .stq _ => some 6
  | .stc _ => some 6
  | .stw _ => some 6
  | .stm _ => some 6
  | .atom _ => some 6
  | .tagw _ => some 6
  | .cpy _ => some 7
  | .cpya _ => some 7
  | .cpyw _ => some 7
  | .enc _ => some 7
  | .cbindPin _ => some 7
  | .cbindFloat _ => some 7
  | .cbrev _ => some 7
  | .cbret _ => some 7
  | .splice _ => some 7
  | .spliceTrap _ => some 7
  | .pin _ => some 7
  | .unpin _ => some 7
  | .share _ => some 7
  | .pgalloc _ => some 7
  | .pgfree _ => some 7
  | .xlat _ => some 7
  | .hrel _ => some 7
  | .advProd _ => some 7
  | .advCons _ => some 7
  | .ringset _ => some 7
  | .msg _ => some 7
  | .task _ => some 7
  | .evsig _ => some 7
  | .evwait _ => some 7
  | .bar _ => some 7
  | .sync _ => some 7
  | .fence _ => some 7
  | .drain _ => some 7
  | .step _ => some 7
  | .twait _ => some 7
  | .flapp _ => some 7
  | .rmw _ => some 7
  | .hint o => some o.slot
  | .matrixOpStart _ => none
  | .matrixOpLand _ => none
  | .resultLands _ _ => none
  | .engineCommandStart _ _ => none
  | .timedCommandStart _ _ => none
  | .engineCompletion _ _ => none
  | .cbindArrayLands _ _ => none
  | .cbrevPublish _ _ => none
  | .encComplete _ _ => none
  | .splicePerform _ _ => none
  | .pinPerform _ _ => none
  | .unpinDrop _ _ => none
  | .pgallocPageTaken _ _ => none
  | .scrubStart _ => none
  | .scrubDone _ => none
  | .scrubLineClear _ _ => none
  | .probeFillLands _ _ => none
  | .pageWalkDone _ _ => none
  | .icacheFill _ _ => none
  | .mtagRevoke _ _ => none
  | .revokeDone _ _ => none
  | .pageEvict _ _ => none
  | .pageExpand _ _ _ _ => none
  | .logErase _ _ => none
  | .svcReply _ _ => none
  | .remoteDataArrive _ _ _ => none
  | .remoteSendAccept _ _ => none
  | .slotReturnArrive _ _ => none
  | .launchRecordWrite _ _ => none
  | .queueRecordAccept _ => none
  | .negativeAcknowledgement _ => none
  | .replay _ _ _ => none
  | .dispatch => none
  | .contextSwitch _ => none
  | .agingSwitch _ => none
  | .teamResume _ => none
  | .barRelease _ _ => none
  | .stepRelease _ _ => none
  | .bindingReloadLands _ _ => none
  | .syncRelease _ _ => none
  | .preemptSave _ _ => none
  | .contextRestore _ _ => none
  | .taskComplete _ => none
  | .graphLaunchNode _ _ => none
  | .graphIfNode _ _ => none
  | .graphWhileNode _ _ => none
  | .graphSwitchNode _ _ => none
  | .graphJoinNode _ _ => none
  | .supervisorResume _ _ => none
  | .saveFaulted _ _ => none
  | .abandonTask _ => none
  | .resumeCommand _ _ => none
  | .discardCommand _ _ => none
  | .functionEnable _ _ => none
  | .functionUpdate _ _ => none
  | .functionReset _ => none
  | .queueConfigWrite _ _ => none
  | .remoteRingEntryWrite _ _ _ => none
  | .managementWrite _ => none
  | .packageReset _ _ => none
  | .alignFlitSend => none
  | .alignFlitReceive _ _ => none
  | .alignTimeout => none
  | .alignRejoin => none
  | .linkFlitResend _ _ _ => none
  | .endToEndRetry _ _ _ => none
  | .cxlTimeout _ _ => none
  | .rowThrottle _ _ => none
  | .throttleRelease _ _ => none
  | .studBookDrain => none
  | .secureErase _ => none
  | .windowAccessPerform _ => none
  | .attestationReport _ => none
  | .linkDown _ => none

/-- The opcode of an instruction within its slot (R184, R185); 0 for an event. -/
def opc : Instr → BitVec 8
  | .nop _ => 0x00
  | .add _ => 0x01
  | .addi _ => 0x02
  | .sub _ => 0x03
  | .mul _ => 0x04
  | .mulh _ => 0x05
  | .mulhx _ => 0x06
  | .div _ => 0x07
  | .divx _ => 0x08
  | .rem _ => 0x09
  | .remx _ => 0x0A
  | .and _ => 0x0B
  | .andi _ => 0x0C
  | .or _ => 0x0D
  | .ori _ => 0x0E
  | .xor _ => 0x0F
  | .xori _ => 0x10
  | .shl _ => 0x11
  | .shli _ => 0x12
  | .shr _ => 0x13
  | .shri _ => 0x14
  | .sra _ => 0x15
  | .srai _ => 0x16
  | .min _ => 0x17
  | .max _ => 0x18
  | .minx _ => 0x19
  | .maxx _ => 0x1A
  | .clz _ => 0x1B
  | .popc _ => 0x1C
  | .li _ => 0x1D
  | .lih _ => 0x1E
  | .selPred _ => 0x1F
  | .selBits _ => 0x1F
  | .cmp _ => 0x20
  | .cmpi _ => 0x21
  | .plogic _ => 0x22
  | .fadd _ => 0x28
  | .fsub _ => 0x29
  | .fmul _ => 0x2A
  | .ffma _ => 0x2B
  | .fmin _ => 0x2C
  | .fmax _ => 0x2D
  | .fcmp _ => 0x2E
  | .fcvt _ => 0x2F
  | .br _ => 0x30
  | .brl _ => 0x31
  | .jr _ => 0x32
  | .loop _ => 0x33
  | .exit _ => 0x34
  | .yield _ => 0x35
  | .srd _ => 0x38
  | .swr _ => 0x39
  | .stg _ => 0x3A
  | .tset _ => 0x3B
  | .xpset _ => 0x3C
  | .svc _ => 0x3D
  | .tick _ => 0x3E
  | .vadd _ => 0x00
  | .vsub _ => 0x01
  | .vmul _ => 0x02
  | .vmulh _ => 0x03
  | .vmac _ => 0x04
  | .vshl _ => 0x05
  | .vshr _ => 0x06
  | .vsra _ => 0x07
  | .vand _ => 0x08
  | .vor _ => 0x09
  | .vxor _ => 0x0A
  | .vnot _ => 0x0B
  | .vmin _ => 0x0C
  | .vmax _ => 0x0D
  | .vabs _ => 0x0E
  | .vneg _ => 0x0F
  | .vcmp _ => 0x10
  | .vsel _ => 0x11
  | .vmov _ => 0x12
  | .vbcastElem _ => 0x13
  | .vbcastImm _ => 0x13
  | .vbcastHi _ => 0x13
  | .vins _ => 0x14
  | .vext _ => 0x15
  | .viota _ => 0x16
  | .vfadd _ => 0x20
  | .vfsub _ => 0x21
  | .vfmul _ => 0x22
  | .vfma _ => 0x23
  | .vfmin _ => 0x24
  | .vfmax _ => 0x25
  | .vfcmp _ => 0x26
  | .vcvt _ => 0x28
  | .vbcvt _ => 0x29
  | .vrsum _ => 0x2C
  | .vrmax _ => 0x2D
  | .vcas _ => 0x2E
  | .mlogic _ => 0x30
  | .mcnt _ => 0x31
  | .mfirst _ => 0x32
  | .wcmp _ => 0x40
  | .wand _ => 0x41
  | .wor _ => 0x42
  | .wnot _ => 0x43
  | .wblend _ => 0x44
  | .wcoll _ => 0x45
  | .wgradCmp _ => 0x46
  | .wgradBlend _ => 0x46
  | .wgradColl _ => 0x46
  | .wset _ => 0x47
  | .wget _ => 0x48
  | .wlin _ => 0x49
  | .vexp2 _ => 0x50
  | .vlog2 _ => 0x51
  | .vrcp _ => 0x52
  | .vrsq _ => 0x53
  | .vtanh _ => 0x54
  | .vstatNorm _ => 0x58
  | .vstatLse _ => 0x58
  | .vnear _ => 0x59
  | .xperm _ => 0x00
  | .xrot _ => 0x01
  | .xshift _ => 0x02
  | .xbcast _ => 0x03
  | .xsec _ => 0x04
  | .xzip _ => 0x05
  | .xunzip _ => 0x06
  | .xrev _ => 0x07
  | .mzero _ => 0x00
  | .mop _ => 0x01
  | .mpart _ => 0x02
  | .mlut _ => 0x03
  | .mlut2 _ => 0x04
  | .mscl _ => 0x05
  | .mrd _ => 0x06
  | .mwr _ => 0x07
  | .mpeak _ => 0x08
  | .mpeakSettle _ => 0x08
  | .mopt _ => 0x09
  | .mxfer _ => 0x0A
  | .mwait _ => 0x0B
  | .lds _ => 0x00
  | .ldv _ => 0x01
  | .ldvx _ => 0x02
  | .ldt _ => 0x03
  | .ldtRing _ => 0x03
  | .ldq _ => 0x04
  | .ldc _ => 0x05
  | .ldw _ => 0x06
  | .ldm _ => 0x07
  | .ldstat _ => 0x08
  | .probe _ => 0x09
  | .probeFill _ => 0x09
  | .sts _ => 0x00
  | .stv _ => 0x01
  | .stvx _ => 0x02
  | .stt _ => 0x03
  | .stq _ => 0x04
  | .stc _ => 0x05
  | .stw _ => 0x06
  | .stm _ => 0x07
  | .atom _ => 0x08
  | .tagw _ => 0x09
  | .cpy _ => 0x00
  | .cpya _ => 0x01
  | .cpyw _ => 0x02
  | .enc _ => 0x08
  | .cbindPin _ => 0x09
  | .cbindFloat _ => 0x09
  | .cbrev _ => 0x0A
  | .cbret _ => 0x0B
  | .splice _ => 0x10
  | .spliceTrap _ => 0x10
  | .pin _ => 0x11
  | .unpin _ => 0x12
  | .share _ => 0x13
  | .pgalloc _ => 0x18
  | .pgfree _ => 0x19
  | .xlat _ => 0x1A
  | .hrel _ => 0x1B
  | .advProd _ => 0x20
  | .advCons _ => 0x20
  | .ringset _ => 0x21
  | .msg _ => 0x22
  | .task _ => 0x23
  | .evsig _ => 0x28
  | .evwait _ => 0x29
  | .bar _ => 0x30
  | .sync _ => 0x31
  | .fence _ => 0x32
  | .drain _ => 0x33
  | .step _ => 0x34
  | .twait _ => 0x35
  | .flapp _ => 0x38
  | .rmw _ => 0x39
  | .hint o => 0xF#4 ++ o.opc
  | .matrixOpStart _ => 0
  | .matrixOpLand _ => 0
  | .resultLands _ _ => 0
  | .engineCommandStart _ _ => 0
  | .timedCommandStart _ _ => 0
  | .engineCompletion _ _ => 0
  | .cbindArrayLands _ _ => 0
  | .cbrevPublish _ _ => 0
  | .encComplete _ _ => 0
  | .splicePerform _ _ => 0
  | .pinPerform _ _ => 0
  | .unpinDrop _ _ => 0
  | .pgallocPageTaken _ _ => 0
  | .scrubStart _ => 0
  | .scrubDone _ => 0
  | .scrubLineClear _ _ => 0
  | .probeFillLands _ _ => 0
  | .pageWalkDone _ _ => 0
  | .icacheFill _ _ => 0
  | .mtagRevoke _ _ => 0
  | .revokeDone _ _ => 0
  | .pageEvict _ _ => 0
  | .pageExpand _ _ _ _ => 0
  | .logErase _ _ => 0
  | .svcReply _ _ => 0
  | .remoteDataArrive _ _ _ => 0
  | .remoteSendAccept _ _ => 0
  | .slotReturnArrive _ _ => 0
  | .launchRecordWrite _ _ => 0
  | .queueRecordAccept _ => 0
  | .negativeAcknowledgement _ => 0
  | .replay _ _ _ => 0
  | .dispatch => 0
  | .contextSwitch _ => 0
  | .agingSwitch _ => 0
  | .teamResume _ => 0
  | .barRelease _ _ => 0
  | .stepRelease _ _ => 0
  | .bindingReloadLands _ _ => 0
  | .syncRelease _ _ => 0
  | .preemptSave _ _ => 0
  | .contextRestore _ _ => 0
  | .taskComplete _ => 0
  | .graphLaunchNode _ _ => 0
  | .graphIfNode _ _ => 0
  | .graphWhileNode _ _ => 0
  | .graphSwitchNode _ _ => 0
  | .graphJoinNode _ _ => 0
  | .supervisorResume _ _ => 0
  | .saveFaulted _ _ => 0
  | .abandonTask _ => 0
  | .resumeCommand _ _ => 0
  | .discardCommand _ _ => 0
  | .functionEnable _ _ => 0
  | .functionUpdate _ _ => 0
  | .functionReset _ => 0
  | .queueConfigWrite _ _ => 0
  | .remoteRingEntryWrite _ _ _ => 0
  | .managementWrite _ => 0
  | .packageReset _ _ => 0
  | .alignFlitSend => 0
  | .alignFlitReceive _ _ => 0
  | .alignTimeout => 0
  | .alignRejoin => 0
  | .linkFlitResend _ _ _ => 0
  | .endToEndRetry _ _ _ => 0
  | .cxlTimeout _ _ => 0
  | .rowThrottle _ _ => 0
  | .throttleRelease _ _ => 0
  | .studBookDrain => 0
  | .secureErase _ => 0
  | .windowAccessPerform _ => 0
  | .attestationReport _ => 0
  | .linkDown _ => 0

/-- The guard of an instruction; an event has none. -/
def guardOf : Instr → Guard
  | .nop o => o.guard
  | .add o => o.guard
  | .addi o => o.guard
  | .sub o => o.guard
  | .mul o => o.guard
  | .mulh o => o.guard
  | .mulhx o => o.guard
  | .div o => o.guard
  | .divx o => o.guard
  | .rem o => o.guard
  | .remx o => o.guard
  | .and o => o.guard
  | .andi o => o.guard
  | .or o => o.guard
  | .ori o => o.guard
  | .xor o => o.guard
  | .xori o => o.guard
  | .shl o => o.guard
  | .shli o => o.guard
  | .shr o => o.guard
  | .shri o => o.guard
  | .sra o => o.guard
  | .srai o => o.guard
  | .min o => o.guard
  | .max o => o.guard
  | .minx o => o.guard
  | .maxx o => o.guard
  | .clz o => o.guard
  | .popc o => o.guard
  | .li o => o.guard
  | .lih o => o.guard
  | .selPred o => o.guard
  | .selBits o => o.guard
  | .cmp o => o.guard
  | .cmpi o => o.guard
  | .plogic o => o.guard
  | .fadd o => o.guard
  | .fsub o => o.guard
  | .fmul o => o.guard
  | .ffma o => o.guard
  | .fmin o => o.guard
  | .fmax o => o.guard
  | .fcmp o => o.guard
  | .fcvt o => o.guard
  | .br o => o.guard
  | .brl o => o.guard
  | .jr o => o.guard
  | .loop o => o.guard
  | .exit o => o.guard
  | .yield o => o.guard
  | .srd o => o.guard
  | .swr o => o.guard
  | .stg o => o.guard
  | .tset o => o.guard
  | .xpset o => o.guard
  | .svc o => o.guard
  | .tick o => o.guard
  | .vadd o => o.guard
  | .vsub o => o.guard
  | .vmul o => o.guard
  | .vmulh o => o.guard
  | .vmac o => o.guard
  | .vshl o => o.guard
  | .vshr o => o.guard
  | .vsra o => o.guard
  | .vand o => o.guard
  | .vor o => o.guard
  | .vxor o => o.guard
  | .vnot o => o.guard
  | .vmin o => o.guard
  | .vmax o => o.guard
  | .vabs o => o.guard
  | .vneg o => o.guard
  | .vcmp o => o.guard
  | .vsel o => o.guard
  | .vmov o => o.guard
  | .vbcastElem o => o.guard
  | .vbcastImm o => o.guard
  | .vbcastHi o => o.guard
  | .vins o => o.guard
  | .vext o => o.guard
  | .viota o => o.guard
  | .vfadd o => o.guard
  | .vfsub o => o.guard
  | .vfmul o => o.guard
  | .vfma o => o.guard
  | .vfmin o => o.guard
  | .vfmax o => o.guard
  | .vfcmp o => o.guard
  | .vcvt o => o.guard
  | .vbcvt o => o.guard
  | .vrsum o => o.guard
  | .vrmax o => o.guard
  | .vcas o => o.guard
  | .mlogic o => o.guard
  | .mcnt o => o.guard
  | .mfirst o => o.guard
  | .wcmp o => o.guard
  | .wand o => o.guard
  | .wor o => o.guard
  | .wnot o => o.guard
  | .wblend o => o.guard
  | .wcoll o => o.guard
  | .wgradCmp o => o.guard
  | .wgradBlend o => o.guard
  | .wgradColl o => o.guard
  | .wset o => o.guard
  | .wget o => o.guard
  | .wlin o => o.guard
  | .vexp2 o => o.guard
  | .vlog2 o => o.guard
  | .vrcp o => o.guard
  | .vrsq o => o.guard
  | .vtanh o => o.guard
  | .vstatNorm o => o.guard
  | .vstatLse o => o.guard
  | .vnear o => o.guard
  | .xperm o => o.guard
  | .xrot o => o.guard
  | .xshift o => o.guard
  | .xbcast o => o.guard
  | .xsec o => o.guard
  | .xzip o => o.guard
  | .xunzip o => o.guard
  | .xrev o => o.guard
  | .mzero o => o.guard
  | .mop o => o.guard
  | .mpart o => o.guard
  | .mlut o => o.guard
  | .mlut2 o => o.guard
  | .mscl o => o.guard
  | .mrd o => o.guard
  | .mwr o => o.guard
  | .mpeak o => o.guard
  | .mpeakSettle o => o.guard
  | .mopt o => o.guard
  | .mxfer o => o.guard
  | .mwait o => o.guard
  | .lds o => o.guard
  | .ldv o => o.guard
  | .ldvx o => o.guard
  | .ldt o => o.guard
  | .ldtRing o => o.guard
  | .ldq o => o.guard
  | .ldc o => o.guard
  | .ldw o => o.guard
  | .ldm o => o.guard
  | .ldstat o => o.guard
  | .probe o => o.guard
  | .probeFill o => o.guard
  | .sts o => o.guard
  | .stv o => o.guard
  | .stvx o => o.guard
  | .stt o => o.guard
  | .stq o => o.guard
  | .stc o => o.guard
  | .stw o => o.guard
  | .stm o => o.guard
  | .atom o => o.guard
  | .tagw o => o.guard
  | .cpy o => o.guard
  | .cpya o => o.guard
  | .cpyw o => o.guard
  | .enc o => o.guard
  | .cbindPin o => o.guard
  | .cbindFloat o => o.guard
  | .cbrev o => o.guard
  | .cbret o => o.guard
  | .splice o => o.guard
  | .spliceTrap o => o.guard
  | .pin o => o.guard
  | .unpin o => o.guard
  | .share o => o.guard
  | .pgalloc o => o.guard
  | .pgfree o => o.guard
  | .xlat o => o.guard
  | .hrel o => o.guard
  | .advProd o => o.guard
  | .advCons o => o.guard
  | .ringset o => o.guard
  | .msg o => o.guard
  | .task o => o.guard
  | .evsig o => o.guard
  | .evwait o => o.guard
  | .bar o => o.guard
  | .sync o => o.guard
  | .fence o => o.guard
  | .drain o => o.guard
  | .step o => o.guard
  | .twait o => o.guard
  | .flapp o => o.guard
  | .rmw o => o.guard
  | .hint o => ⟨o.rest.getLsbD 51, o.rest.extractLsb' 47 4⟩
  | .matrixOpStart _ => ⟨false, 0⟩
  | .matrixOpLand _ => ⟨false, 0⟩
  | .resultLands _ _ => ⟨false, 0⟩
  | .engineCommandStart _ _ => ⟨false, 0⟩
  | .timedCommandStart _ _ => ⟨false, 0⟩
  | .engineCompletion _ _ => ⟨false, 0⟩
  | .cbindArrayLands _ _ => ⟨false, 0⟩
  | .cbrevPublish _ _ => ⟨false, 0⟩
  | .encComplete _ _ => ⟨false, 0⟩
  | .splicePerform _ _ => ⟨false, 0⟩
  | .pinPerform _ _ => ⟨false, 0⟩
  | .unpinDrop _ _ => ⟨false, 0⟩
  | .pgallocPageTaken _ _ => ⟨false, 0⟩
  | .scrubStart _ => ⟨false, 0⟩
  | .scrubDone _ => ⟨false, 0⟩
  | .scrubLineClear _ _ => ⟨false, 0⟩
  | .probeFillLands _ _ => ⟨false, 0⟩
  | .pageWalkDone _ _ => ⟨false, 0⟩
  | .icacheFill _ _ => ⟨false, 0⟩
  | .mtagRevoke _ _ => ⟨false, 0⟩
  | .revokeDone _ _ => ⟨false, 0⟩
  | .pageEvict _ _ => ⟨false, 0⟩
  | .pageExpand _ _ _ _ => ⟨false, 0⟩
  | .logErase _ _ => ⟨false, 0⟩
  | .svcReply _ _ => ⟨false, 0⟩
  | .remoteDataArrive _ _ _ => ⟨false, 0⟩
  | .remoteSendAccept _ _ => ⟨false, 0⟩
  | .slotReturnArrive _ _ => ⟨false, 0⟩
  | .launchRecordWrite _ _ => ⟨false, 0⟩
  | .queueRecordAccept _ => ⟨false, 0⟩
  | .negativeAcknowledgement _ => ⟨false, 0⟩
  | .replay _ _ _ => ⟨false, 0⟩
  | .dispatch => ⟨false, 0⟩
  | .contextSwitch _ => ⟨false, 0⟩
  | .agingSwitch _ => ⟨false, 0⟩
  | .teamResume _ => ⟨false, 0⟩
  | .barRelease _ _ => ⟨false, 0⟩
  | .stepRelease _ _ => ⟨false, 0⟩
  | .bindingReloadLands _ _ => ⟨false, 0⟩
  | .syncRelease _ _ => ⟨false, 0⟩
  | .preemptSave _ _ => ⟨false, 0⟩
  | .contextRestore _ _ => ⟨false, 0⟩
  | .taskComplete _ => ⟨false, 0⟩
  | .graphLaunchNode _ _ => ⟨false, 0⟩
  | .graphIfNode _ _ => ⟨false, 0⟩
  | .graphWhileNode _ _ => ⟨false, 0⟩
  | .graphSwitchNode _ _ => ⟨false, 0⟩
  | .graphJoinNode _ _ => ⟨false, 0⟩
  | .supervisorResume _ _ => ⟨false, 0⟩
  | .saveFaulted _ _ => ⟨false, 0⟩
  | .abandonTask _ => ⟨false, 0⟩
  | .resumeCommand _ _ => ⟨false, 0⟩
  | .discardCommand _ _ => ⟨false, 0⟩
  | .functionEnable _ _ => ⟨false, 0⟩
  | .functionUpdate _ _ => ⟨false, 0⟩
  | .functionReset _ => ⟨false, 0⟩
  | .queueConfigWrite _ _ => ⟨false, 0⟩
  | .remoteRingEntryWrite _ _ _ => ⟨false, 0⟩
  | .managementWrite _ => ⟨false, 0⟩
  | .packageReset _ _ => ⟨false, 0⟩
  | .alignFlitSend => ⟨false, 0⟩
  | .alignFlitReceive _ _ => ⟨false, 0⟩
  | .alignTimeout => ⟨false, 0⟩
  | .alignRejoin => ⟨false, 0⟩
  | .linkFlitResend _ _ _ => ⟨false, 0⟩
  | .endToEndRetry _ _ _ => ⟨false, 0⟩
  | .cxlTimeout _ _ => ⟨false, 0⟩
  | .rowThrottle _ _ => ⟨false, 0⟩
  | .throttleRelease _ _ => ⟨false, 0⟩
  | .studBookDrain => ⟨false, 0⟩
  | .secureErase _ => ⟨false, 0⟩
  | .windowAccessPerform _ => ⟨false, 0⟩
  | .attestationReport _ => ⟨false, 0⟩
  | .linkDown _ => ⟨false, 0⟩

/-- The operand field of an instruction; 0 for an event. -/
def field : Instr → BitVec 47
  | .nop o => packSR o
  | .add o => packSR o
  | .addi o => packSI o
  | .sub o => packSR o
  | .mul o => packSR o
  | .mulh o => packSR o
  | .mulhx o => packSR o
  | .div o => packSR o
  | .divx o => packSR o
  | .rem o => packSR o
  | .remx o => packSR o
  | .and o => packSR o
  | .andi o => packSI o
  | .or o => packSR o
  | .ori o => packSI o
  | .xor o => packSR o
  | .xori o => packSI o
  | .shl o => packSR o
  | .shli o => packSI o
  | .shr o => packSR o
  | .shri o => packSI o
  | .sra o => packSR o
  | .srai o => packSI o
  | .min o => packSR o
  | .max o => packSR o
  | .minx o => packSR o
  | .maxx o => packSR o
  | .clz o => packSR o
  | .popc o => packSR o
  | .li o => packSL o
  | .lih o => packSL o
  | .selPred o => packSR o
  | .selBits o => packSR o
  | .cmp o => packSR o
  | .cmpi o => packSI o
  | .plogic o => packSR o
  | .fadd o => packSR o
  | .fsub o => packSR o
  | .fmul o => packSR o
  | .ffma o => packSR o
  | .fmin o => packSR o
  | .fmax o => packSR o
  | .fcmp o => packSR o
  | .fcvt o => packSR o
  | .br o => packSB o
  | .brl o => packSB o
  | .jr o => packSR o
  | .loop o => packSI o
  | .exit o => packSR o
  | .yield o => packSR o
  | .srd o => packSI o
  | .swr o => packSI o
  | .stg o => packSR o
  | .tset o => packSR o
  | .xpset o => packSR o
  | .svc o => packSI o
  | .tick o => packSR o
  | .vadd o => packVF o
  | .vsub o => packVF o
  | .vmul o => packVF o
  | .vmulh o => packVF o
  | .vmac o => packVF o
  | .vshl o => packVF o
  | .vshr o => packVF o
  | .vsra o => packVF o
  | .vand o => packVF o
  | .vor o => packVF o
  | .vxor o => packVF o
  | .vnot o => packVF o
  | .vmin o => packVF o
  | .vmax o => packVF o
  | .vabs o => packVF o
  | .vneg o => packVF o
  | .vcmp o => packVF o
  | .vsel o => packVF o
  | .vmov o => packVF o
  | .vbcastElem o => packVF o
  | .vbcastImm o => packVF o
  | .vbcastHi o => packVF o
  | .vins o => packVF o
  | .vext o => packVF o
  | .viota o => packVF o
  | .vfadd o => packVF o
  | .vfsub o => packVF o
  | .vfmul o => packVF o
  | .vfma o => packVF o
  | .vfmin o => packVF o
  | .vfmax o => packVF o
  | .vfcmp o => packVF o
  | .vcvt o => packVF o
  | .vbcvt o => packVF o
  | .vrsum o => packVF o
  | .vrmax o => packVF o
  | .vcas o => packVF o
  | .mlogic o => packVF o
  | .mcnt o => packVF o
  | .mfirst o => packVF o
  | .wcmp o => packVF o
  | .wand o => packVF o
  | .wor o => packVF o
  | .wnot o => packVF o
  | .wblend o => packVF o
  | .wcoll o => packVF o
  | .wgradCmp o => packVF o
  | .wgradBlend o => packVF o
  | .wgradColl o => packVF o
  | .wset o => packVF o
  | .wget o => packVF o
  | .wlin o => packVF o
  | .vexp2 o => packVF o
  | .vlog2 o => packVF o
  | .vrcp o => packVF o
  | .vrsq o => packVF o
  | .vtanh o => packVF o
  | .vstatNorm o => packVF o
  | .vstatLse o => packVF o
  | .vnear o => packVF o
  | .xperm o => packXF o
  | .xrot o => packXF o
  | .xshift o => packXF o
  | .xbcast o => packXF o
  | .xsec o => packXF o
  | .xzip o => packXF o
  | .xunzip o => packXF o
  | .xrev o => packXF o
  | .mzero o => packMF o
  | .mop o => packMF o
  | .mpart o => packMF o
  | .mlut o => packMF o
  | .mlut2 o => packMF o
  | .mscl o => packMF o
  | .mrd o => packMF o
  | .mwr o => packMF o
  | .mpeak o => packMF o
  | .mpeakSettle o => packMF o
  | .mopt o => packMF o
  | .mxfer o => packMF o
  | .mwait o => packMF o
  | .lds o => packLS o
  | .ldv o => packLS o
  | .ldvx o => packLS o
  | .ldt o => packLS o
  | .ldtRing o => packLS o
  | .ldq o => packLS o
  | .ldc o => packLS o
  | .ldw o => packLS o
  | .ldm o => packLS o
  | .ldstat o => packLS o
  | .probe o => packLS o
  | .probeFill o => packLS o
  | .sts o => packLS o
  | .stv o => packLS o
  | .stvx o => packLS o
  | .stt o => packLS o
  | .stq o => packLS o
  | .stc o => packLS o
  | .stw o => packLS o
  | .stm o => packLS o
  | .atom o => packLS o
  | .tagw o => packLS o
  | .cpy o => packEF o
  | .cpya o => packEF o
  | .cpyw o => packEF o
  | .enc o => packEF o
  | .cbindPin o => packEF o
  | .cbindFloat o => packEF o
  | .cbrev o => packEF o
  | .cbret o => packEF o
  | .splice o => packEF o
  | .spliceTrap o => packEF o
  | .pin o => packEF o
  | .unpin o => packEF o
  | .share o => packEF o
  | .pgalloc o => packEF o
  | .pgfree o => packEF o
  | .xlat o => packEF o
  | .hrel o => packEF o
  | .advProd o => packEF o
  | .advCons o => packEF o
  | .ringset o => packEF o
  | .msg o => packEF o
  | .task o => packEF o
  | .evsig o => packEF o
  | .evwait o => packEF o
  | .bar o => packEF o
  | .sync o => packEF o
  | .fence o => packEF o
  | .drain o => packEF o
  | .step o => packEF o
  | .twait o => packEF o
  | .flapp o => packEF o
  | .rmw o => packEF o
  | .hint o => o.rest.extractLsb' 0 47
  | .matrixOpStart _ => 0
  | .matrixOpLand _ => 0
  | .resultLands _ _ => 0
  | .engineCommandStart _ _ => 0
  | .timedCommandStart _ _ => 0
  | .engineCompletion _ _ => 0
  | .cbindArrayLands _ _ => 0
  | .cbrevPublish _ _ => 0
  | .encComplete _ _ => 0
  | .splicePerform _ _ => 0
  | .pinPerform _ _ => 0
  | .unpinDrop _ _ => 0
  | .pgallocPageTaken _ _ => 0
  | .scrubStart _ => 0
  | .scrubDone _ => 0
  | .scrubLineClear _ _ => 0
  | .probeFillLands _ _ => 0
  | .pageWalkDone _ _ => 0
  | .icacheFill _ _ => 0
  | .mtagRevoke _ _ => 0
  | .revokeDone _ _ => 0
  | .pageEvict _ _ => 0
  | .pageExpand _ _ _ _ => 0
  | .logErase _ _ => 0
  | .svcReply _ _ => 0
  | .remoteDataArrive _ _ _ => 0
  | .remoteSendAccept _ _ => 0
  | .slotReturnArrive _ _ => 0
  | .launchRecordWrite _ _ => 0
  | .queueRecordAccept _ => 0
  | .negativeAcknowledgement _ => 0
  | .replay _ _ _ => 0
  | .dispatch => 0
  | .contextSwitch _ => 0
  | .agingSwitch _ => 0
  | .teamResume _ => 0
  | .barRelease _ _ => 0
  | .stepRelease _ _ => 0
  | .bindingReloadLands _ _ => 0
  | .syncRelease _ _ => 0
  | .preemptSave _ _ => 0
  | .contextRestore _ _ => 0
  | .taskComplete _ => 0
  | .graphLaunchNode _ _ => 0
  | .graphIfNode _ _ => 0
  | .graphWhileNode _ _ => 0
  | .graphSwitchNode _ _ => 0
  | .graphJoinNode _ _ => 0
  | .supervisorResume _ _ => 0
  | .saveFaulted _ _ => 0
  | .abandonTask _ => 0
  | .resumeCommand _ _ => 0
  | .discardCommand _ _ => 0
  | .functionEnable _ _ => 0
  | .functionUpdate _ _ => 0
  | .functionReset _ => 0
  | .queueConfigWrite _ _ => 0
  | .remoteRingEntryWrite _ _ _ => 0
  | .managementWrite _ => 0
  | .packageReset _ _ => 0
  | .alignFlitSend => 0
  | .alignFlitReceive _ _ => 0
  | .alignTimeout => 0
  | .alignRejoin => 0
  | .linkFlitResend _ _ _ => 0
  | .endToEndRetry _ _ _ => 0
  | .cxlTimeout _ _ => 0
  | .rowThrottle _ _ => 0
  | .throttleRelease _ _ => 0
  | .studBookDrain => 0
  | .secureErase _ => 0
  | .windowAccessPerform _ => 0
  | .attestationReport _ => 0
  | .linkDown _ => 0

/-- The bits of the operand field that the instruction's row uses; the others are reserved (R343). -/
def used : Instr → BitVec 47
  | .nop _ => 0#47
  | .add _ => fld 46 41 ||| fld 40 35 ||| fld 34 29
  | .addi _ => fld 46 41 ||| fld 40 35 ||| fld 34 3
  | .sub _ => fld 46 41 ||| fld 40 35 ||| fld 34 29
  | .mul _ => fld 46 41 ||| fld 40 35 ||| fld 34 29
  | .mulh _ => fld 46 41 ||| fld 40 35 ||| fld 34 29
  | .mulhx _ => fld 46 41 ||| fld 40 35 ||| fld 34 29
  | .div _ => fld 46 41 ||| fld 40 35 ||| fld 34 29
  | .divx _ => fld 46 41 ||| fld 40 35 ||| fld 34 29
  | .rem _ => fld 46 41 ||| fld 40 35 ||| fld 34 29
  | .remx _ => fld 46 41 ||| fld 40 35 ||| fld 34 29
  | .and _ => fld 46 41 ||| fld 40 35 ||| fld 34 29
  | .andi _ => fld 46 41 ||| fld 40 35 ||| fld 34 3
  | .or _ => fld 46 41 ||| fld 40 35 ||| fld 34 29
  | .ori _ => fld 46 41 ||| fld 40 35 ||| fld 34 3
  | .xor _ => fld 46 41 ||| fld 40 35 ||| fld 34 29
  | .xori _ => fld 46 41 ||| fld 40 35 ||| fld 34 3
  | .shl _ => fld 46 41 ||| fld 40 35 ||| fld 34 29
  | .shli _ => fld 46 41 ||| fld 40 35 ||| fld 8 3
  | .shr _ => fld 46 41 ||| fld 40 35 ||| fld 34 29
  | .shri _ => fld 46 41 ||| fld 40 35 ||| fld 8 3
  | .sra _ => fld 46 41 ||| fld 40 35 ||| fld 34 29
  | .srai _ => fld 46 41 ||| fld 40 35 ||| fld 8 3
  | .min _ => fld 46 41 ||| fld 40 35 ||| fld 34 29
  | .max _ => fld 46 41 ||| fld 40 35 ||| fld 34 29
  | .minx _ => fld 46 41 ||| fld 40 35 ||| fld 34 29
  | .maxx _ => fld 46 41 ||| fld 40 35 ||| fld 34 29
  | .clz _ => fld 46 41 ||| fld 40 35
  | .popc _ => fld 46 41 ||| fld 40 35
  | .li _ => fld 46 41 ||| fld 40 0
  | .lih _ => fld 46 41 ||| fld 22 0
  | .selPred _ => fld 46 41 ||| fld 40 35 ||| fld 34 29 ||| fld 18 15 ||| fld 10 6
  | .selBits _ => fld 46 41 ||| fld 40 35 ||| fld 34 29 ||| fld 28 23 ||| fld 10 6
  | .cmp _ => fld 22 19 ||| fld 40 35 ||| fld 34 29 ||| fld 18 15 ||| fld 14 11 ||| fld 10 6
  | .cmpi _ => fld 44 41 ||| fld 40 35 ||| fld 34 3 ||| fld 2 0
  | .plogic _ => fld 22 19 ||| fld 18 15 ||| fld 14 11 ||| fld 10 6
  | .fadd _ => fld 46 41 ||| fld 40 35 ||| fld 34 29
  | .fsub _ => fld 46 41 ||| fld 40 35 ||| fld 34 29
  | .fmul _ => fld 46 41 ||| fld 40 35 ||| fld 34 29
  | .ffma _ => fld 46 41 ||| fld 40 35 ||| fld 34 29 ||| fld 28 23
  | .fmin _ => fld 46 41 ||| fld 40 35 ||| fld 34 29
  | .fmax _ => fld 46 41 ||| fld 40 35 ||| fld 34 29
  | .fcmp _ => fld 22 19 ||| fld 40 35 ||| fld 34 29 ||| fld 18 15 ||| fld 14 11 ||| fld 10 6
  | .fcvt _ => fld 46 41 ||| fld 40 35 ||| fld 10 6
  | .br _ => fld 46 41 ||| fld 40 9
  | .brl _ => fld 46 41 ||| fld 40 9
  | .jr _ => fld 46 41 ||| fld 40 35
  | .loop _ => fld 46 41 ||| fld 40 35 ||| fld 34 3
  | .exit _ => 0#47
  | .yield _ => 0#47
  | .srd _ => fld 46 41 ||| fld 10 3
  | .swr _ => fld 40 35 ||| fld 10 3
  | .stg _ => fld 44 41 ||| fld 40 35
  | .tset _ => fld 44 41 ||| fld 40 35
  | .xpset _ => fld 44 41 ||| fld 40 35
  | .svc _ => fld 44 41 ||| fld 40 35 ||| fld 34 3
  | .tick _ => fld 46 41
  | .vadd o => if o.i then fld 46 42 ||| fld 41 37 ||| fld 21 6 ||| fld 26 23 ||| fld 22 22 else fld 46 42 ||| fld 41 37 ||| fld 36 32 ||| fld 26 23 ||| fld 22 22
  | .vsub o => if o.i then fld 46 42 ||| fld 41 37 ||| fld 21 6 ||| fld 26 23 ||| fld 22 22 else fld 46 42 ||| fld 41 37 ||| fld 36 32 ||| fld 26 23 ||| fld 22 22
  | .vmul o => if o.i then fld 46 42 ||| fld 41 37 ||| fld 21 6 ||| fld 26 23 ||| fld 22 22 else fld 46 42 ||| fld 41 37 ||| fld 36 32 ||| fld 26 23 ||| fld 22 22
  | .vmulh _ => fld 46 42 ||| fld 41 37 ||| fld 36 32 ||| fld 26 23 ||| fld 22 22
  | .vmac _ => fld 46 42 ||| fld 41 37 ||| fld 36 32 ||| fld 31 27 ||| fld 26 23 ||| fld 22 22
  | .vshl o => if o.i then fld 46 42 ||| fld 41 37 ||| fld 21 6 ||| fld 26 23 ||| fld 22 22 else fld 46 42 ||| fld 41 37 ||| fld 36 32 ||| fld 26 23 ||| fld 22 22
  | .vshr o => if o.i then fld 46 42 ||| fld 41 37 ||| fld 21 6 ||| fld 26 23 ||| fld 22 22 else fld 46 42 ||| fld 41 37 ||| fld 36 32 ||| fld 26 23 ||| fld 22 22
  | .vsra o => if o.i then fld 46 42 ||| fld 41 37 ||| fld 21 6 ||| fld 26 23 ||| fld 22 22 else fld 46 42 ||| fld 41 37 ||| fld 36 32 ||| fld 26 23 ||| fld 22 22
  | .vand o => if o.i then fld 46 42 ||| fld 41 37 ||| fld 21 6 ||| fld 26 23 ||| fld 22 22 else fld 46 42 ||| fld 41 37 ||| fld 36 32 ||| fld 26 23 ||| fld 22 22
  | .vor o => if o.i then fld 46 42 ||| fld 41 37 ||| fld 21 6 ||| fld 26 23 ||| fld 22 22 else fld 46 42 ||| fld 41 37 ||| fld 36 32 ||| fld 26 23 ||| fld 22 22
  | .vxor o => if o.i then fld 46 42 ||| fld 41 37 ||| fld 21 6 ||| fld 26 23 ||| fld 22 22 else fld 46 42 ||| fld 41 37 ||| fld 36 32 ||| fld 26 23 ||| fld 22 22
  | .vnot _ => fld 46 42 ||| fld 41 37 ||| fld 26 23 ||| fld 22 22
  | .vmin o => if o.i then fld 46 42 ||| fld 41 37 ||| fld 21 6 ||| fld 26 23 ||| fld 22 22 else fld 46 42 ||| fld 41 37 ||| fld 36 32 ||| fld 26 23 ||| fld 22 22
  | .vmax o => if o.i then fld 46 42 ||| fld 41 37 ||| fld 21 6 ||| fld 26 23 ||| fld 22 22 else fld 46 42 ||| fld 41 37 ||| fld 36 32 ||| fld 26 23 ||| fld 22 22
  | .vabs _ => fld 46 42 ||| fld 41 37 ||| fld 26 23 ||| fld 22 22
  | .vneg _ => fld 46 42 ||| fld 41 37 ||| fld 26 23 ||| fld 22 22
  | .vcmp o => if o.i then fld 44 42 ||| fld 41 37 ||| fld 21 6 ||| fld 26 23 ||| fld 22 22 ||| fld 5 0 else fld 44 42 ||| fld 41 37 ||| fld 36 32 ||| fld 26 23 ||| fld 22 22 ||| fld 15 11
  | .vsel _ => fld 46 42 ||| fld 41 37 ||| fld 36 32 ||| fld 26 23 ||| fld 22 22 ||| fld 21 19
  | .vmov _ => fld 46 42 ||| fld 41 37 ||| fld 26 23 ||| fld 22 22
  | .vbcastElem _ => fld 46 42 ||| fld 41 37 ||| fld 21 6 ||| fld 26 23 ||| fld 22 22 ||| fld 5 0
  | .vbcastImm _ => fld 46 42 ||| fld 21 6 ||| fld 26 23 ||| fld 22 22 ||| fld 5 0
  | .vbcastHi _ => fld 46 42 ||| fld 21 6 ||| fld 26 23 ||| fld 22 22 ||| fld 5 0
  | .vins _ => fld 46 42 ||| fld 41 37 ||| fld 21 6 ||| fld 26 23 ||| fld 22 22
  | .vext _ => fld 46 42 ||| fld 41 37 ||| fld 21 6 ||| fld 26 23 ||| fld 22 22
  | .viota _ => fld 46 42 ||| fld 21 6 ||| fld 26 23 ||| fld 22 22
  | .vfadd _ => fld 46 42 ||| fld 41 37 ||| fld 36 32 ||| fld 26 23 ||| fld 22 22
  | .vfsub _ => fld 46 42 ||| fld 41 37 ||| fld 36 32 ||| fld 26 23 ||| fld 22 22
  | .vfmul _ => fld 46 42 ||| fld 41 37 ||| fld 36 32 ||| fld 26 23 ||| fld 22 22
  | .vfma _ => fld 46 42 ||| fld 41 37 ||| fld 36 32 ||| fld 31 27 ||| fld 26 23 ||| fld 22 22
  | .vfmin _ => fld 46 42 ||| fld 41 37 ||| fld 36 32 ||| fld 26 23 ||| fld 22 22
  | .vfmax _ => fld 46 42 ||| fld 41 37 ||| fld 36 32 ||| fld 26 23 ||| fld 22 22
  | .vfcmp _ => fld 44 42 ||| fld 41 37 ||| fld 36 32 ||| fld 26 23 ||| fld 22 22 ||| fld 15 11
  | .vcvt _ => fld 46 42 ||| fld 41 37 ||| fld 30 27 ||| fld 26 23 ||| fld 22 22 ||| fld 14 11
  | .vbcvt _ => fld 46 42 ||| fld 41 37 ||| fld 36 32 ||| fld 26 23 ||| fld 22 22
  | .vrsum _ => fld 46 42 ||| fld 41 37 ||| fld 26 23 ||| fld 22 22
  | .vrmax _ => fld 46 42 ||| fld 41 37 ||| fld 26 23 ||| fld 22 22
  | .vcas _ => fld 46 42 ||| fld 41 37 ||| fld 18 6 ||| fld 26 23 ||| fld 22 22 ||| fld 5 0
  | .mlogic _ => fld 44 42 ||| fld 21 19 ||| fld 18 16 ||| fld 22 22 ||| fld 15 11
  | .mcnt _ => fld 46 42 ||| fld 21 19 ||| fld 22 22
  | .mfirst _ => fld 44 42 ||| fld 21 19 ||| fld 22 22
  | .wcmp _ => fld 44 42 ||| fld 41 37 ||| fld 36 32 ||| fld 26 23 ||| fld 22 22 ||| fld 10 8 ||| fld 15 11
  | .wand _ => fld 44 42 ||| fld 21 19 ||| fld 18 16 ||| fld 26 23 ||| fld 22 22 ||| fld 15 11
  | .wor _ => fld 44 42 ||| fld 21 19 ||| fld 18 16 ||| fld 26 23 ||| fld 22 22 ||| fld 15 11
  | .wnot _ => fld 44 42 ||| fld 21 19 ||| fld 26 23 ||| fld 22 22 ||| fld 15 11
  | .wblend _ => fld 46 42 ||| fld 41 37 ||| fld 36 32 ||| fld 21 19 ||| fld 26 23 ||| fld 22 22 ||| fld 15 11
  | .wcoll _ => fld 44 42 ||| fld 21 19 ||| fld 26 23 ||| fld 22 22 ||| fld 15 11
  | .wgradCmp _ => fld 46 42 ||| fld 21 19 ||| fld 26 23 ||| fld 22 22 ||| fld 15 11
  | .wgradBlend _ => fld 46 42 ||| fld 41 37 ||| fld 36 32 ||| fld 26 23 ||| fld 22 22 ||| fld 15 11
  | .wgradColl _ => fld 46 42 ||| fld 26 23 ||| fld 22 22 ||| fld 15 11
  | .wset _ => fld 44 42 ||| fld 41 37 ||| fld 13 6 ||| fld 26 23 ||| fld 22 22 ||| fld 5 0
  | .wget _ => fld 46 42 ||| fld 21 19 ||| fld 26 23 ||| fld 22 22 ||| fld 15 11
  | .wlin _ => fld 44 42 ||| fld 21 19 ||| fld 26 23 ||| fld 22 22 ||| fld 10 8 ||| fld 15 11
  | .vexp2 _ => fld 46 42 ||| fld 41 37 ||| fld 26 23 ||| fld 22 22
  | .vlog2 _ => fld 46 42 ||| fld 41 37 ||| fld 26 23 ||| fld 22 22
  | .vrcp _ => fld 46 42 ||| fld 41 37 ||| fld 26 23 ||| fld 22 22
  | .vrsq _ => fld 46 42 ||| fld 41 37 ||| fld 26 23 ||| fld 22 22
  | .vtanh _ => fld 46 42 ||| fld 41 37 ||| fld 26 23 ||| fld 22 22
  | .vstatNorm _ => fld 41 37 ||| fld 36 32 ||| fld 26 23 ||| fld 22 22 ||| fld 15 11
  | .vstatLse _ => fld 41 37 ||| fld 36 32 ||| fld 26 23 ||| fld 22 22 ||| fld 15 11
  | .vnear _ => fld 46 42 ||| fld 41 37 ||| fld 21 19 ||| fld 26 23 ||| fld 22 22
  | .xperm _ => fld 46 42 ||| fld 41 37 ||| fld 36 33 ||| fld 27 24
  | .xrot _ => fld 46 42 ||| fld 41 37 ||| fld 27 24 ||| fld 23 16
  | .xshift _ => fld 46 42 ||| fld 41 37 ||| fld 32 28 ||| fld 27 24 ||| fld 23 16
  | .xbcast _ => fld 46 42 ||| fld 41 37 ||| fld 27 24 ||| fld 23 16
  | .xsec _ => fld 46 42 ||| fld 41 37 ||| fld 36 33 ||| fld 27 24
  | .xzip _ => fld 46 42 ||| fld 41 37 ||| fld 32 28 ||| fld 27 24 ||| fld 23 16
  | .xunzip _ => fld 46 42 ||| fld 41 37 ||| fld 32 28 ||| fld 27 24 ||| fld 23 16
  | .xrev _ => fld 46 42 ||| fld 41 37 ||| fld 27 24
  | .mzero _ => fld 38 35
  | .mop _ => fld 38 35 ||| fld 46 43 ||| fld 42 39 ||| fld 26 19
  | .mpart _ => fld 46 43 ||| fld 42 39 ||| fld 34 31
  | .mlut _ => fld 38 35 ||| fld 46 43 ||| fld 42 39 ||| fld 34 31
  | .mlut2 _ => fld 38 35 ||| fld 46 43 ||| fld 42 39 ||| fld 34 31 ||| fld 29 27 ||| fld 18 15 ||| fld 26 19
  | .mscl _ => fld 46 43 ||| fld 42 39
  | .mrd _ => fld 46 42 ||| fld 38 35 ||| fld 24 19
  | .mwr _ => fld 46 42 ||| fld 38 35 ||| fld 24 19
  | .mpeak _ => fld 24 19 ||| fld 38 35 ||| fld 14 10
  | .mpeakSettle _ => fld 24 19 ||| fld 38 35 ||| fld 14 10
  | .mopt _ => fld 46 43 ||| fld 38 35 ||| fld 30 27 ||| fld 26 19 ||| fld 18 15 ||| fld 42 39 ||| fld 34 31
  | .mxfer _ => fld 30 27 ||| fld 38 35 ||| fld 24 19 ||| fld 16 15
  | .mwait o => fld 14 10 ||| (if o.sub = 1 then fld 46 43 else fld 38 35)
  | .lds _ => fld 46 42 ||| fld 12 12 ||| fld 41 36 ||| fld 35 20 ||| fld 14 13 ||| fld 16 15 ||| fld 1 1
  | .ldv _ => fld 46 42 ||| fld 41 36 ||| fld 35 20 ||| fld 16 15 ||| fld 11 6 ||| fld 1 1
  | .ldvx _ => fld 46 42 ||| fld 41 36 ||| fld 35 20 ||| fld 16 15 ||| fld 10 6 ||| fld 1 1
  | .ldt _ => fld 45 42 ||| fld 41 36 ||| fld 35 20 ||| fld 16 15 ||| fld 11 6 ||| fld 1 1
  | .ldtRing _ => fld 45 42 ||| fld 27 20 ||| fld 41 36 ||| fld 5 2 ||| fld 1 1
  | .ldq _ => fld 46 42 ||| fld 27 20 ||| fld 41 36 ||| fld 5 2 ||| fld 1 1
  | .ldc _ => fld 46 42 ||| fld 41 36 ||| fld 35 20 ||| fld 18 17 ||| fld 16 15 ||| fld 4 2 ||| fld 1 1
  | .ldw _ => fld 44 42 ||| fld 41 36 ||| fld 35 20 ||| fld 16 15 ||| fld 1 1
  | .ldm _ => fld 44 42 ||| fld 41 36 ||| fld 35 20 ||| fld 16 15 ||| fld 1 1
  | .ldstat _ => fld 46 42 ||| fld 41 36 ||| fld 35 20 ||| fld 1 1
  | .probe _ => fld 46 42 ||| fld 12 12 ||| fld 41 36 ||| fld 35 20 ||| fld 17 17 ||| fld 16 13 ||| fld 1 1
  | .probeFill _ => fld 46 42 ||| fld 12 12 ||| fld 41 36 ||| fld 35 20 ||| fld 17 17 ||| fld 16 13 ||| fld 11 6 ||| fld 5 2 ||| fld 1 1
  | .sts _ => fld 46 42 ||| fld 12 12 ||| fld 41 36 ||| fld 35 20 ||| fld 14 13 ||| fld 16 15 ||| fld 1 1
  | .stv _ => fld 46 42 ||| fld 41 36 ||| fld 35 20 ||| fld 16 15 ||| fld 11 6 ||| fld 1 1
  | .stvx _ => fld 46 42 ||| fld 41 36 ||| fld 35 20 ||| fld 16 15 ||| fld 10 6 ||| fld 1 1
  | .stt _ => fld 45 42 ||| fld 41 36 ||| fld 35 20 ||| fld 16 15 ||| fld 11 6 ||| fld 1 1
  | .stq _ => fld 46 42 ||| fld 27 20 ||| fld 41 36 ||| fld 5 2 ||| fld 1 1
  | .stc _ => fld 46 42 ||| fld 41 36 ||| fld 35 20 ||| fld 18 17 ||| fld 16 15 ||| fld 4 2 ||| fld 1 1
  | .stw _ => fld 44 42 ||| fld 41 36 ||| fld 35 20 ||| fld 16 15 ||| fld 1 1
  | .stm _ => fld 44 42 ||| fld 41 36 ||| fld 35 20 ||| fld 16 15 ||| fld 1 1
  | .atom _ => fld 46 42 ||| fld 12 12 ||| fld 41 36 ||| fld 35 20 ||| fld 14 13 ||| fld 16 15 ||| fld 19 17 ||| fld 11 6 ||| fld 1 1
  | .tagw _ => fld 46 42 ||| fld 12 12 ||| fld 41 36 ||| fld 35 20 ||| fld 1 1
  | .cpy o => fld 46 43 ||| fld 26 23 ||| fld 1 0 ||| (if o.sub.extractLsb' 0 2 = 2 then 0 else fld 30 27) ||| fld 11 11 ||| (if o.at_ then fld 10 5 else 0)
  | .cpya o => fld 46 43 ||| fld 26 23 ||| fld 1 0 ||| (if o.sub.extractLsb' 0 2 = 2 then 0 else fld 30 27) ||| fld 11 11 ||| (if o.at_ then fld 10 5 else 0)
  | .cpyw o => fld 46 43 ||| fld 26 23 ||| fld 1 0 ||| (if o.sub.extractLsb' 0 2 = 2 then 0 else fld 30 27) ||| fld 11 11 ||| (if o.at_ then fld 10 5 else 0)
  | .enc o => fld 46 43 ||| fld 30 27 ||| fld 26 23 ||| fld 39 37 ||| fld 33 31 ||| fld 11 11 ||| (if o.at_ then fld 10 5 else 0)
  | .cbindPin _ => fld 46 43 ||| fld 29 27 ||| fld 42 37 ||| fld 0 0
  | .cbindFloat _ => fld 46 43 ||| fld 29 27 ||| fld 42 37 ||| fld 0 0
  | .cbrev _ => fld 46 43 ||| fld 42 37 ||| fld 36 31
  | .cbret _ => fld 29 27
  | .splice _ => fld 46 43 ||| fld 30 27 ||| fld 42 37 ||| fld 36 31 ||| fld 0 0
  | .spliceTrap _ => fld 46 43 ||| fld 30 27 ||| fld 42 37 ||| fld 36 31 ||| fld 0 0
  | .pin _ => fld 46 43 ||| fld 30 27 ||| fld 42 37 ||| fld 36 31
  | .unpin _ => fld 30 27 ||| fld 42 37 ||| fld 36 31
  | .share _ => fld 46 43 ||| fld 30 27 ||| fld 36 31
  | .pgalloc _ => fld 46 43 ||| fld 42 37 ||| fld 36 31
  | .pgfree _ => fld 46 43 ||| fld 42 37
  | .xlat _ => fld 30 27 ||| fld 42 37
  | .hrel _ => fld 30 27
  | .advProd _ => fld 46 43 ||| fld 42 37 ||| fld 0 0
  | .advCons _ => fld 46 43 ||| fld 42 37 ||| fld 0 0
  | .ringset _ => fld 46 43 ||| fld 42 37
  | .msg o => fld 46 43 ||| fld 42 37 ||| fld 36 31 ||| fld 11 11 ||| (if o.at_ then fld 10 5 else 0)
  | .task o => fld 46 43 ||| fld 42 37 ||| fld 36 31 ||| fld 11 11 ||| (if o.at_ then fld 10 5 else 0)
  | .evsig o => fld 42 37 ||| fld 36 31 ||| fld 11 11 ||| (if o.at_ then fld 10 5 else 0)
  | .evwait _ => fld 42 37 ||| fld 36 31
  | .bar _ => fld 2 0
  | .sync _ => 0#47
  | .fence _ => fld 22 20 ||| fld 19 16 ||| fld 15 12
  | .drain _ => fld 46 43 ||| fld 22 20
  | .step _ => fld 2 0
  | .twait _ => fld 42 37
  | .flapp o => fld 46 43 ||| fld 26 23 ||| fld 36 31 ||| fld 11 11 ||| (if o.at_ then fld 10 5 else 0)
  | .rmw _ => fld 46 43 ||| fld 30 27 ||| fld 42 37 ||| fld 26 23 ||| fld 3 0
  | .hint _ => fld 46 0
  | .matrixOpStart _ => 0
  | .matrixOpLand _ => 0
  | .resultLands _ _ => 0
  | .engineCommandStart _ _ => 0
  | .timedCommandStart _ _ => 0
  | .engineCompletion _ _ => 0
  | .cbindArrayLands _ _ => 0
  | .cbrevPublish _ _ => 0
  | .encComplete _ _ => 0
  | .splicePerform _ _ => 0
  | .pinPerform _ _ => 0
  | .unpinDrop _ _ => 0
  | .pgallocPageTaken _ _ => 0
  | .scrubStart _ => 0
  | .scrubDone _ => 0
  | .scrubLineClear _ _ => 0
  | .probeFillLands _ _ => 0
  | .pageWalkDone _ _ => 0
  | .icacheFill _ _ => 0
  | .mtagRevoke _ _ => 0
  | .revokeDone _ _ => 0
  | .pageEvict _ _ => 0
  | .pageExpand _ _ _ _ => 0
  | .logErase _ _ => 0
  | .svcReply _ _ => 0
  | .remoteDataArrive _ _ _ => 0
  | .remoteSendAccept _ _ => 0
  | .slotReturnArrive _ _ => 0
  | .launchRecordWrite _ _ => 0
  | .queueRecordAccept _ => 0
  | .negativeAcknowledgement _ => 0
  | .replay _ _ _ => 0
  | .dispatch => 0
  | .contextSwitch _ => 0
  | .agingSwitch _ => 0
  | .teamResume _ => 0
  | .barRelease _ _ => 0
  | .stepRelease _ _ => 0
  | .bindingReloadLands _ _ => 0
  | .syncRelease _ _ => 0
  | .preemptSave _ _ => 0
  | .contextRestore _ _ => 0
  | .taskComplete _ => 0
  | .graphLaunchNode _ _ => 0
  | .graphIfNode _ _ => 0
  | .graphWhileNode _ _ => 0
  | .graphSwitchNode _ _ => 0
  | .graphJoinNode _ _ => 0
  | .supervisorResume _ _ => 0
  | .saveFaulted _ _ => 0
  | .abandonTask _ => 0
  | .resumeCommand _ _ => 0
  | .discardCommand _ _ => 0
  | .functionEnable _ _ => 0
  | .functionUpdate _ _ => 0
  | .functionReset _ => 0
  | .queueConfigWrite _ _ => 0
  | .remoteRingEntryWrite _ _ _ => 0
  | .managementWrite _ => 0
  | .packageReset _ _ => 0
  | .alignFlitSend => 0
  | .alignFlitReceive _ _ => 0
  | .alignTimeout => 0
  | .alignRejoin => 0
  | .linkFlitResend _ _ _ => 0
  | .endToEndRetry _ _ _ => 0
  | .cxlTimeout _ _ => 0
  | .rowThrottle _ _ => 0
  | .throttleRelease _ _ => 0
  | .studBookDrain => 0
  | .secureErase _ => 0
  | .windowAccessPerform _ => 0
  | .attestationReport _ => 0
  | .linkDown _ => 0

/-! ## Limits (R344, R345, R348, R355), in the order in which a slot's causes rank (R339) -/

/-- A format cause where the code is not in the list (CODE 0x0004, R345). -/
def inFmt (o : BitVec 4) (l : List Nat) : List (Nat × Nat) := if o.toNat ∈ l then [] else [(4, o.toNat)]

/-- An unlisted SUB (CODE 0x0005). -/
def inSub (s : Nat) (l : List Nat) : List (Nat × Nat) := if s ∈ l then [] else [(5, s)]

/-- An index that names no register (CODE 0x0006). -/
def ix (ok : Bool) (i : Nat) : List (Nat × Nat) := if ok then [] else [(6, i)]

/-- A value outside its limits (CODE 0x000A). -/
def lim (ok : Bool) (v : Nat) : List (Nat × Nat) := if ok then [] else [(10, v)]

/-- A broken register-pair rule (CODE 0x000B). -/
def pair (ok : Bool) : List (Nat × Nat) := if ok then [] else [(11, 0)]

/-- The form bit must have this value (CODE 0x000A). -/
def form (o : VF) (b : Bool) : List (Nat × Nat) := lim (o.i == b) o.i.toNat

/-- Format codes of the integers, of all elements, of FP vectors. -/
def ints : List Nat := [0, 1, 2, 3, 4, 5]
/-- Codes 0 to 12. -/
def allFmt : List Nat := [0, 1, 2, 3, 4, 5, 6, 7, 8, 9, 10, 11, 12]
/-- Codes 9 to 11. -/
def fps : List Nat := [9, 10, 11]

/-- The special-register numbers of Table 8-5. -/
def isSpecial (n : Nat) : Bool := n ≤ 0x11

/-- The rounding codes that Table 11-2 gives for a conversion from code `s` to code `d`. -/
def cvtRounds (s d : Nat) : List Nat :=
  let fl (c : Nat) : Bool := c ∈ [6, 7, 8, 9, 10, 11]
  let fd (c : Nat) : Bool := c ∈ [6, 7, 9, 10, 11]
  if fl s && fd d then (if d = 11 then [0, 1] else [0, 1, 2])
  else if (fl s || s ∈ ints || s = 12) && d = 8 then [0]
  else if s ∈ ints && fd d then [0, 1]
  else if fl s && d ∈ ints then [0, 1]
  else if s ∈ ints && d ∈ ints then [0]
  else if s = 12 && fd d then [0]
  else if (fl s || s ∈ ints) && d = 12 then [0]
  else []

/-- The source code of VCVT (R223). -/
def cvtSrc (o : VF) : Nat := o.vc.toNat % 16

/-- The causes of a VCVT (R223, R345). -/
def cvtLimits (o : VF) : List (Nat × Nat) :=
  let s := cvtSrc o
  let d := o.fmt.toNat
  let r := vsub o % 4
  let ws := fmtWidth s
  let wd := fmtWidth d
  (if cvtRounds s d = [] ∨ (r ≠ 3 ∧ r ∉ cvtRounds s d) then [(4, d + 16 * s)] else [])
    ++ (if r = 3 then [(5, vsub o)] else [])
    ++ form o false
    ++ lim (vsub o / 4 % 4 < max ws wd / min ws wd) (vsub o / 4 % 4)

/-- j and k of VCAS within R226. -/
def casOk (n j k : Nat) : Bool :=
  (j ∈ [1, 2, 4, 8, 16, 32] && 2 * j ≤ n) && (k = 0 || (k ∈ [2, 4, 8, 16, 32, 64] && 2 * j ≤ k && k ≤ n))

/-- j of VCAS. -/
def casJ (o : VF) : Nat := (imm16 o).toNat % 64
/-- k of VCAS. -/
def casK (o : VF) : Nat := (imm16 o).toNat / 64 % 128

/-- A space that exists (R169, R355). -/
def space (o : LS) : List (Nat × Nat) := lim (o.space.toNat < 2) o.space.toNat

/-- The value of RF that the instruction takes (R243). -/
def rf (o : LS) (b : Bool) : List (Nat × Nat) := lim (o.rf == b) o.rf.toNat

/-- A staging run from ES[n] of `c` registers (R255). -/
def staging (o : EF) (c : Nat) : List (Nat × Nat) := ix (o.es.toNat + c ≤ 16) o.es.toNat

/-- The scope exists (R170). -/
def scopeOk (o : EF) : List (Nat × Nat) := lim (o.scope.toNat < 3) o.scope.toNat

/-- The causes, other than reserved fields and the guard index, for which a syllable is not an instruction: CODE and INFO, in rank order (R339, R345, R355). DESIGN CHOICE: INFO of a VCAS outside its limits is the whole imm16, and that of VBCAST is its SUB (log entry 71). -/
def limits : Instr → List (Nat × Nat)
  | .nop _ => []
  | .add _ => []
  | .addi _ => []
  | .sub _ => []
  | .mul _ => []
  | .mulh _ => []
  | .mulhx _ => []
  | .div _ => []
  | .divx _ => []
  | .rem _ => []
  | .remx _ => []
  | .and _ => []
  | .andi _ => []
  | .or _ => []
  | .ori _ => []
  | .xor _ => []
  | .xori _ => []
  | .shl _ => []
  | .shli _ => []
  | .shr _ => []
  | .shri _ => []
  | .sra _ => []
  | .srai _ => []
  | .min _ => []
  | .max _ => []
  | .minx _ => []
  | .maxx _ => []
  | .clz _ => []
  | .popc _ => []
  | .li _ => []
  | .lih _ => []
  | .selPred o => inSub o.sub.toNat [0]
  | .selBits o => inSub o.sub.toNat [1]
  | .cmp o => inSub o.sub.toNat [0, 1, 2, 3, 4, 5] ++ pair (o.pd != o.pb || o.pd == 0)
  | .cmpi o => inSub o.sub.toNat [0, 1, 2, 3, 4, 5]
  | .plogic o => inSub o.sub.toNat [0, 1, 2, 3, 4, 5, 6, 7]
  | .fadd _ => []
  | .fsub _ => []
  | .fmul _ => []
  | .ffma _ => []
  | .fmin _ => []
  | .fmax _ => []
  | .fcmp o => inSub o.sub.toNat [0, 1, 2, 3] ++ pair (o.pd != o.pb || o.pd == 0)
  | .fcvt o => inSub o.sub.toNat [0, 1, 2, 3, 4, 5, 6, 7, 8, 9]
  | .br o => lim (o.link == 0) o.link.toNat
  | .brl _ => []
  | .jr _ => []
  | .loop o => lim (o.gd.toNat < 2) o.gd.toNat ++ lim (decide (1 ≤ o.imm.toInt)) o.imm.toNat
  | .exit _ => []
  | .yield _ => []
  | .srd o => ix (isSpecial (o.imm.toNat % 256)) (o.imm.toNat % 256)
  | .swr o => ix (isSpecial (o.imm.toNat % 256)) (o.imm.toNat % 256)
  | .stg _ => []
  | .tset _ => []
  | .xpset _ => []
  | .svc _ => []
  | .tick _ => []
  | .vadd o => inFmt o.fmt ints
  | .vsub o => inFmt o.fmt ints
  | .vmul o => inFmt o.fmt ints
  | .vmulh o => inFmt o.fmt ints ++ form o false
  | .vmac o => inFmt o.fmt ints ++ form o false
  | .vshl o => inFmt o.fmt ints
  | .vshr o => inFmt o.fmt ints
  | .vsra o => inFmt o.fmt ints
  | .vand o => inFmt o.fmt allFmt
  | .vor o => inFmt o.fmt allFmt
  | .vxor o => inFmt o.fmt allFmt
  | .vnot o => inFmt o.fmt allFmt ++ form o false
  | .vmin o => inFmt o.fmt (if o.i then ints else ints ++ fps)
  | .vmax o => inFmt o.fmt (if o.i then ints else ints ++ fps)
  | .vabs o => inFmt o.fmt ints ++ form o false
  | .vneg o => inFmt o.fmt ints ++ form o false
  | .vcmp o => inFmt o.fmt ints ++ inSub (vsub o) [0, 1, 2, 3]
  | .vsel o => inFmt o.fmt allFmt ++ form o false
  | .vmov o => inFmt o.fmt allFmt ++ form o false
  | .vbcastElem o => inFmt o.fmt allFmt ++ inSub (vsub o) [0] ++ form o true ++ lim ((imm16 o).toNat % 64 < fmtCount o.fmt.toNat) ((imm16 o).toNat % 64)
  | .vbcastImm o => inFmt o.fmt allFmt ++ inSub (vsub o) [1] ++ form o true
  | .vbcastHi o => inFmt o.fmt allFmt ++ inSub (vsub o) [2] ++ form o true ++ lim (16 ≤ fmtWidth o.fmt.toNat) (vsub o)
  | .vins o => inFmt o.fmt allFmt ++ form o true ++ lim ((imm16 o).toNat % 64 < fmtCount o.fmt.toNat) ((imm16 o).toNat % 64)
  | .vext o => inFmt o.fmt allFmt ++ form o true ++ lim ((imm16 o).toNat % 64 < fmtCount o.fmt.toNat) ((imm16 o).toNat % 64)
  | .viota o => inFmt o.fmt ints ++ form o true
  | .vfadd o => inFmt o.fmt fps ++ form o false
  | .vfsub o => inFmt o.fmt fps ++ form o false
  | .vfmul o => inFmt o.fmt fps ++ form o false
  | .vfma o => inFmt o.fmt fps ++ form o false
  | .vfmin o => inFmt o.fmt fps ++ form o false
  | .vfmax o => inFmt o.fmt fps ++ form o false
  | .vfcmp o => inFmt o.fmt fps ++ inSub (vsub o) [0, 1, 2, 3] ++ form o false
  | .vcvt o => cvtLimits o
  | .vbcvt o => inFmt o.fmt [6, 7] ++ form o false
  | .vrsum o => inFmt o.fmt (ints ++ fps) ++ form o false
  | .vrmax o => inFmt o.fmt (ints ++ [6, 7, 8] ++ fps) ++ form o false
  | .vcas o => inFmt o.fmt (ints ++ fps) ++ inSub (vsub o) [0, 1] ++ form o true ++ lim (casOk (fmtCount o.fmt.toNat) (casJ o) (casK o)) (imm16 o).toNat ++ pair (o.va.toNat % 2 == 0 && o.vd.toNat % 2 == 0)
  | .mlogic o => inSub (vsub o) [0, 1, 2, 3, 4, 5, 6, 7] ++ form o false
  | .mcnt o => form o false
  | .mfirst o => form o false
  | .wcmp o => inFmt o.fmt fps ++ inSub (vsub o) [0, 1, 2, 3] ++ form o false
  | .wand o => inFmt o.fmt [12] ++ inSub (vsub o) [0, 1] ++ form o false
  | .wor o => inFmt o.fmt [12] ++ inSub (vsub o) [0, 1] ++ form o false
  | .wnot o => inFmt o.fmt [12] ++ inSub (vsub o) [0] ++ form o false
  | .wblend o => inFmt o.fmt fps ++ inSub (vsub o) [0] ++ form o false
  | .wcoll o => inFmt o.fmt [12] ++ inSub (vsub o) [0] ++ form o false
  | .wgradCmp o => inFmt o.fmt [11] ++ inSub (vsub o) [0] ++ form o false
  | .wgradBlend o => inFmt o.fmt [11] ++ inSub (vsub o) [1] ++ form o false
  | .wgradColl o => inFmt o.fmt [11] ++ inSub (vsub o) [2] ++ form o false
  | .wset o => inFmt o.fmt [12] ++ inSub (vsub o) [0] ++ form o true
  | .wget o => inFmt o.fmt [12] ++ inSub (vsub o) [0] ++ form o false
  | .wlin o => inFmt o.fmt [12] ++ inSub (vsub o) [0] ++ form o false
  | .vexp2 o => (if o.v1 then [] else [(1, 0)]) ++ inFmt o.fmt fps ++ form o false
  | .vlog2 o => (if o.v1 then [] else [(1, 0)]) ++ inFmt o.fmt fps ++ form o false
  | .vrcp o => (if o.v1 then [] else [(1, 0)]) ++ inFmt o.fmt fps ++ form o false
  | .vrsq o => (if o.v1 then [] else [(1, 0)]) ++ inFmt o.fmt fps ++ form o false
  | .vtanh o => (if o.v1 then [] else [(1, 0)]) ++ inFmt o.fmt fps ++ form o false
  | .vstatNorm o => inFmt o.fmt [11] ++ inSub (vsub o) [0] ++ form o false
  | .vstatLse o => inFmt o.fmt [11] ++ inSub (vsub o) [1] ++ form o false
  | .vnear o => inFmt o.fmt fps ++ form o false
  | .xperm o => inFmt o.fmt allFmt
  | .xrot o => inFmt o.fmt allFmt ++ lim (o.imm.toNat < fmtCount o.fmt.toNat) o.imm.toNat
  | .xshift o => inFmt o.fmt allFmt ++ lim (o.imm.toNat ≤ fmtCount o.fmt.toNat) o.imm.toNat
  | .xbcast o => inFmt o.fmt allFmt ++ lim (o.imm.toNat < 8) o.imm.toNat
  | .xsec o => inFmt o.fmt allFmt
  | .xzip o => inFmt o.fmt allFmt ++ lim (o.imm.toNat ≤ 1) o.imm.toNat
  | .xunzip o => inFmt o.fmt allFmt ++ lim (o.imm.toNat ≤ 1) o.imm.toNat
  | .xrev o => inFmt o.fmt allFmt
  | .mzero o => ix (o.acc.toNat < 12) o.acc.toNat
  | .mop o => ix (o.acc.toNat < 12) o.acc.toNat ++ lim (o.k.toNat < 32) o.k.toNat
  | .mpart o => ix (o.bind.toNat < 8) o.bind.toNat
  | .mlut o => ix (o.acc.toNat < 12) o.acc.toNat ++ ix (o.bind.toNat < 8) o.bind.toNat
  | .mlut2 o => ix (o.acc.toNat < 12) o.acc.toNat ++ ix (o.bind.toNat < 8) o.bind.toNat ++ ix (o.aux.toNat < 12) o.aux.toNat
  | .mscl _ => []
  | .mrd o => ix (o.acc.toNat < 12) o.acc.toNat
  | .mwr o => ix (o.acc.toNat < 12) o.acc.toNat
  | .mpeak o => inSub o.sub.toNat [0] ++ ix (o.acc.toNat < 12) o.acc.toNat
  | .mpeakSettle o => inSub o.sub.toNat [1] ++ ix (o.acc.toNat < 12) o.acc.toNat
  | .mopt o => ix (o.acc.toNat < 12) o.acc.toNat
  | .mxfer o => ix (o.acc.toNat < 12) o.acc.toNat
  | .mwait o => inSub o.sub.toNat [0, 1] ++ ix (o.sub == 1 || o.acc.toNat < 12) o.acc.toNat
  | .lds o => space o ++ rf o false
  | .ldv o => space o ++ rf o false
  | .ldvx o => space o ++ rf o false
  | .ldt o => space o ++ rf o false
  | .ldtRing o => rf o true
  | .ldq o => rf o true
  | .ldc o => inSub (o.sub.toNat % 4) [0, 1, 2] ++ space o ++ rf o false
  | .ldw o => space o ++ rf o false
  | .ldm o => space o ++ rf o false
  | .ldstat o => rf o false
  | .probe o => inSub o.sub.toNat [0] ++ rf o false
  | .probeFill o => inSub o.sub.toNat [1] ++ rf o false
  | .sts o => space o ++ rf o false
  | .stv o => space o ++ rf o false
  | .stvx o => space o ++ rf o false
  | .stt o => space o ++ rf o false
  | .stq o => rf o true
  | .stc o => inSub (o.sub.toNat % 4) [0, 1, 2] ++ space o ++ rf o false
  | .stw o => space o ++ rf o false
  | .stm o => space o ++ rf o false
  | .atom o => lim (2 ≤ o.width.toNat) o.width.toNat ++ space o ++ rf o false
  | .tagw o => rf o false
  | .cpy o => staging o 3 ++ lim (o.sub.toNat % 4 < 3) (o.sub.toNat % 4)
  | .cpya o => staging o 8 ++ lim (o.sub.toNat % 4 < 3) (o.sub.toNat % 4)
  | .cpyw o => staging o 2 ++ lim (o.sub.toNat % 4 == 0 || o.sub.toNat % 4 == 2) (o.sub.toNat % 4)
  | .enc o => staging o 3
  | .cbindPin o => inSub o.sub.toNat [0]
  | .cbindFloat o => inSub o.sub.toNat [1]
  | .cbrev _ => []
  | .cbret _ => []
  | .splice o => inSub o.sub.toNat [0]
  | .spliceTrap o => inSub o.sub.toNat [1]
  | .pin _ => []
  | .unpin _ => []
  | .share _ => []
  | .pgalloc _ => []
  | .pgfree _ => []
  | .xlat _ => []
  | .hrel _ => []
  | .advProd o => inSub o.sub.toNat [0]
  | .advCons o => inSub o.sub.toNat [1]
  | .ringset _ => []
  | .msg _ => []
  | .task _ => []
  | .evsig _ => []
  | .evwait _ => []
  | .bar o => lim (o.sub.toNat % 8 != 6) (o.sub.toNat % 8)
  | .sync _ => []
  | .fence o => scopeOk o ++ lim (o.cla != 0) o.cla.toNat ++ lim (o.clb != 0) o.clb.toNat
  | .drain o => scopeOk o
  | .step o => lim (o.sub.toNat % 8 != 6) (o.sub.toNat % 8)
  | .twait _ => []
  | .flapp o => staging o 2
  | .rmw o => staging o 3
  | .hint _ => []
  | .matrixOpStart _ => []
  | .matrixOpLand _ => []
  | .resultLands _ _ => []
  | .engineCommandStart _ _ => []
  | .timedCommandStart _ _ => []
  | .engineCompletion _ _ => []
  | .cbindArrayLands _ _ => []
  | .cbrevPublish _ _ => []
  | .encComplete _ _ => []
  | .splicePerform _ _ => []
  | .pinPerform _ _ => []
  | .unpinDrop _ _ => []
  | .pgallocPageTaken _ _ => []
  | .scrubStart _ => []
  | .scrubDone _ => []
  | .scrubLineClear _ _ => []
  | .probeFillLands _ _ => []
  | .pageWalkDone _ _ => []
  | .icacheFill _ _ => []
  | .mtagRevoke _ _ => []
  | .revokeDone _ _ => []
  | .pageEvict _ _ => []
  | .pageExpand _ _ _ _ => []
  | .logErase _ _ => []
  | .svcReply _ _ => []
  | .remoteDataArrive _ _ _ => []
  | .remoteSendAccept _ _ => []
  | .slotReturnArrive _ _ => []
  | .launchRecordWrite _ _ => []
  | .queueRecordAccept _ => []
  | .negativeAcknowledgement _ => []
  | .replay _ _ _ => []
  | .dispatch => []
  | .contextSwitch _ => []
  | .agingSwitch _ => []
  | .teamResume _ => []
  | .barRelease _ _ => []
  | .stepRelease _ _ => []
  | .bindingReloadLands _ _ => []
  | .syncRelease _ _ => []
  | .preemptSave _ _ => []
  | .contextRestore _ _ => []
  | .taskComplete _ => []
  | .graphLaunchNode _ _ => []
  | .graphIfNode _ _ => []
  | .graphWhileNode _ _ => []
  | .graphSwitchNode _ _ => []
  | .graphJoinNode _ _ => []
  | .supervisorResume _ _ => []
  | .saveFaulted _ _ => []
  | .abandonTask _ => []
  | .resumeCommand _ _ => []
  | .discardCommand _ _ => []
  | .functionEnable _ _ => []
  | .functionUpdate _ _ => []
  | .functionReset _ => []
  | .queueConfigWrite _ _ => []
  | .remoteRingEntryWrite _ _ _ => []
  | .managementWrite _ => []
  | .packageReset _ _ => []
  | .alignFlitSend => []
  | .alignFlitReceive _ _ => []
  | .alignTimeout => []
  | .alignRejoin => []
  | .linkFlitResend _ _ _ => []
  | .endToEndRetry _ _ _ => []
  | .cxlTimeout _ _ => []
  | .rowThrottle _ _ => []
  | .throttleRelease _ _ => []
  | .studBookDrain => []
  | .secureErase _ => []
  | .windowAccessPerform _ => []
  | .attestationReport _ => []
  | .linkDown _ => []

/-- The guard index exists in the slot (R162, R344); a hint's guard is never judged (R347). -/
def guardOk (i : Instr) : Bool :=
  match i with
  | .hint _ => true
  | _ => match tag i with
    | some t => if t = 1 ∨ t = 2 ∨ t = 3 then vguardOk (guardOf i) else true
    | none => true

/-! ## From opcodes to constructors -/

/-- The instruction that an opcode names in the S slot (R184). -/
def scalarOf (g : Guard) (f : BitVec 47) : Nat → Option Instr
  | 0x00 => some (.nop (unpackSR g f))
  | 0x01 => some (.add (unpackSR g f))
  | 0x02 => some (.addi (unpackSI g f))
  | 0x03 => some (.sub (unpackSR g f))
  | 0x04 => some (.mul (unpackSR g f))
  | 0x05 => some (.mulh (unpackSR g f))
  | 0x06 => some (.mulhx (unpackSR g f))
  | 0x07 => some (.div (unpackSR g f))
  | 0x08 => some (.divx (unpackSR g f))
  | 0x09 => some (.rem (unpackSR g f))
  | 0x0A => some (.remx (unpackSR g f))
  | 0x0B => some (.and (unpackSR g f))
  | 0x0C => some (.andi (unpackSI g f))
  | 0x0D => some (.or (unpackSR g f))
  | 0x0E => some (.ori (unpackSI g f))
  | 0x0F => some (.xor (unpackSR g f))
  | 0x10 => some (.xori (unpackSI g f))
  | 0x11 => some (.shl (unpackSR g f))
  | 0x12 => some (.shli (unpackSI g f))
  | 0x13 => some (.shr (unpackSR g f))
  | 0x14 => some (.shri (unpackSI g f))
  | 0x15 => some (.sra (unpackSR g f))
  | 0x16 => some (.srai (unpackSI g f))
  | 0x17 => some (.min (unpackSR g f))
  | 0x18 => some (.max (unpackSR g f))
  | 0x19 => some (.minx (unpackSR g f))
  | 0x1A => some (.maxx (unpackSR g f))
  | 0x1B => some (.clz (unpackSR g f))
  | 0x1C => some (.popc (unpackSR g f))
  | 0x1D => some (.li (unpackSL g f))
  | 0x1E => some (.lih (unpackSL g f))
  | 0x1F => some (let x := unpackSR g f; if x.sub = 0 then .selPred x else .selBits x)
  | 0x20 => some (.cmp (unpackSR g f))
  | 0x21 => some (.cmpi (unpackSI g f))
  | 0x22 => some (.plogic (unpackSR g f))
  | 0x28 => some (.fadd (unpackSR g f))
  | 0x29 => some (.fsub (unpackSR g f))
  | 0x2A => some (.fmul (unpackSR g f))
  | 0x2B => some (.ffma (unpackSR g f))
  | 0x2C => some (.fmin (unpackSR g f))
  | 0x2D => some (.fmax (unpackSR g f))
  | 0x2E => some (.fcmp (unpackSR g f))
  | 0x2F => some (.fcvt (unpackSR g f))
  | 0x30 => some (.br (unpackSB g f))
  | 0x31 => some (.brl (unpackSB g f))
  | 0x32 => some (.jr (unpackSR g f))
  | 0x33 => some (.loop (unpackSI g f))
  | 0x34 => some (.exit (unpackSR g f))
  | 0x35 => some (.yield (unpackSR g f))
  | 0x38 => some (.srd (unpackSI g f))
  | 0x39 => some (.swr (unpackSI g f))
  | 0x3A => some (.stg (unpackSR g f))
  | 0x3B => some (.tset (unpackSR g f))
  | 0x3C => some (.xpset (unpackSR g f))
  | 0x3D => some (.svc (unpackSI g f))
  | 0x3E => some (.tick (unpackSR g f))
  | _ => none

/-- The instruction that an opcode names in the V0 and V1 slot (R184). -/
def vectorOf (g : Guard) (v1 : Bool) (f : BitVec 47) : Nat → Option Instr
  | 0x00 => some (.vadd (unpackVF g v1 f))
  | 0x01 => some (.vsub (unpackVF g v1 f))
  | 0x02 => some (.vmul (unpackVF g v1 f))
  | 0x03 => some (.vmulh (unpackVF g v1 f))
  | 0x04 => some (.vmac (unpackVF g v1 f))
  | 0x05 => some (.vshl (unpackVF g v1 f))
  | 0x06 => some (.vshr (unpackVF g v1 f))
  | 0x07 => some (.vsra (unpackVF g v1 f))
  | 0x08 => some (.vand (unpackVF g v1 f))
  | 0x09 => some (.vor (unpackVF g v1 f))
  | 0x0A => some (.vxor (unpackVF g v1 f))
  | 0x0B => some (.vnot (unpackVF g v1 f))
  | 0x0C => some (.vmin (unpackVF g v1 f))
  | 0x0D => some (.vmax (unpackVF g v1 f))
  | 0x0E => some (.vabs (unpackVF g v1 f))
  | 0x0F => some (.vneg (unpackVF g v1 f))
  | 0x10 => some (.vcmp (unpackVF g v1 f))
  | 0x11 => some (.vsel (unpackVF g v1 f))
  | 0x12 => some (.vmov (unpackVF g v1 f))
  | 0x13 => some (let x := unpackVF g v1 f; if vsub x = 0 then .vbcastElem x else if vsub x = 1 then .vbcastImm x else .vbcastHi x)
  | 0x14 => some (.vins (unpackVF g v1 f))
  | 0x15 => some (.vext (unpackVF g v1 f))
  | 0x16 => some (.viota (unpackVF g v1 f))
  | 0x20 => some (.vfadd (unpackVF g v1 f))
  | 0x21 => some (.vfsub (unpackVF g v1 f))
  | 0x22 => some (.vfmul (unpackVF g v1 f))
  | 0x23 => some (.vfma (unpackVF g v1 f))
  | 0x24 => some (.vfmin (unpackVF g v1 f))
  | 0x25 => some (.vfmax (unpackVF g v1 f))
  | 0x26 => some (.vfcmp (unpackVF g v1 f))
  | 0x28 => some (.vcvt (unpackVF g v1 f))
  | 0x29 => some (.vbcvt (unpackVF g v1 f))
  | 0x2C => some (.vrsum (unpackVF g v1 f))
  | 0x2D => some (.vrmax (unpackVF g v1 f))
  | 0x2E => some (.vcas (unpackVF g v1 f))
  | 0x30 => some (.mlogic (unpackVF g v1 f))
  | 0x31 => some (.mcnt (unpackVF g v1 f))
  | 0x32 => some (.mfirst (unpackVF g v1 f))
  | 0x40 => some (.wcmp (unpackVF g v1 f))
  | 0x41 => some (.wand (unpackVF g v1 f))
  | 0x42 => some (.wor (unpackVF g v1 f))
  | 0x43 => some (.wnot (unpackVF g v1 f))
  | 0x44 => some (.wblend (unpackVF g v1 f))
  | 0x45 => some (.wcoll (unpackVF g v1 f))
  | 0x46 => some (let x := unpackVF g v1 f; if vsub x = 0 then .wgradCmp x else if vsub x = 1 then .wgradBlend x else .wgradColl x)
  | 0x47 => some (.wset (unpackVF g v1 f))
  | 0x48 => some (.wget (unpackVF g v1 f))
  | 0x49 => some (.wlin (unpackVF g v1 f))
  | 0x50 => if v1 then some (.vexp2 (unpackVF g v1 f)) else none
  | 0x51 => if v1 then some (.vlog2 (unpackVF g v1 f)) else none
  | 0x52 => if v1 then some (.vrcp (unpackVF g v1 f)) else none
  | 0x53 => if v1 then some (.vrsq (unpackVF g v1 f)) else none
  | 0x54 => if v1 then some (.vtanh (unpackVF g v1 f)) else none
  | 0x58 => some (let x := unpackVF g v1 f; if vsub x = 0 then .vstatNorm x else .vstatLse x)
  | 0x59 => some (.vnear (unpackVF g v1 f))
  | _ => none

/-- The instruction that an opcode names in the X slot (R184). -/
def exchangeOf (g : Guard) (f : BitVec 47) : Nat → Option Instr
  | 0x00 => some (.xperm (unpackXF g f))
  | 0x01 => some (.xrot (unpackXF g f))
  | 0x02 => some (.xshift (unpackXF g f))
  | 0x03 => some (.xbcast (unpackXF g f))
  | 0x04 => some (.xsec (unpackXF g f))
  | 0x05 => some (.xzip (unpackXF g f))
  | 0x06 => some (.xunzip (unpackXF g f))
  | 0x07 => some (.xrev (unpackXF g f))
  | _ => none

/-- The instruction that an opcode names in the M slot (R184). -/
def matrixOf (g : Guard) (f : BitVec 47) : Nat → Option Instr
  | 0x00 => some (.mzero (unpackMF g f))
  | 0x01 => some (.mop (unpackMF g f))
  | 0x02 => some (.mpart (unpackMF g f))
  | 0x03 => some (.mlut (unpackMF g f))
  | 0x04 => some (.mlut2 (unpackMF g f))
  | 0x05 => some (.mscl (unpackMF g f))
  | 0x06 => some (.mrd (unpackMF g f))
  | 0x07 => some (.mwr (unpackMF g f))
  | 0x08 => some (let x := unpackMF g f; if x.sub = 0 then .mpeak x else .mpeakSettle x)
  | 0x09 => some (.mopt (unpackMF g f))
  | 0x0A => some (.mxfer (unpackMF g f))
  | 0x0B => some (.mwait (unpackMF g f))
  | _ => none

/-- The instruction that an opcode names in the LD slot (R184). -/
def loadOf (g : Guard) (f : BitVec 47) : Nat → Option Instr
  | 0x00 => some (.lds (unpackLS g f))
  | 0x01 => some (.ldv (unpackLS g f))
  | 0x02 => some (.ldvx (unpackLS g f))
  | 0x03 => some (let x := unpackLS g f; if !x.rf then .ldt x else .ldtRing x)
  | 0x04 => some (.ldq (unpackLS g f))
  | 0x05 => some (.ldc (unpackLS g f))
  | 0x06 => some (.ldw (unpackLS g f))
  | 0x07 => some (.ldm (unpackLS g f))
  | 0x08 => some (.ldstat (unpackLS g f))
  | 0x09 => some (let x := unpackLS g f; if !x.sub.getLsbD 0 then .probe x else .probeFill x)
  | _ => none

/-- The instruction that an opcode names in the ST slot (R184). -/
def storeOf (g : Guard) (f : BitVec 47) : Nat → Option Instr
  | 0x00 => some (.sts (unpackLS g f))
  | 0x01 => some (.stv (unpackLS g f))
  | 0x02 => some (.stvx (unpackLS g f))
  | 0x03 => some (.stt (unpackLS g f))
  | 0x04 => some (.stq (unpackLS g f))
  | 0x05 => some (.stc (unpackLS g f))
  | 0x06 => some (.stw (unpackLS g f))
  | 0x07 => some (.stm (unpackLS g f))
  | 0x08 => some (.atom (unpackLS g f))
  | 0x09 => some (.tagw (unpackLS g f))
  | _ => none

/-- The instruction that an opcode names in the E slot (R184). -/
def engineOf (g : Guard) (f : BitVec 47) : Nat → Option Instr
  | 0x00 => some (.cpy (unpackEF g f))
  | 0x01 => some (.cpya (unpackEF g f))
  | 0x02 => some (.cpyw (unpackEF g f))
  | 0x08 => some (.enc (unpackEF g f))
  | 0x09 => some (let x := unpackEF g f; if x.sub = 0 then .cbindPin x else .cbindFloat x)
  | 0x0A => some (.cbrev (unpackEF g f))
  | 0x0B => some (.cbret (unpackEF g f))
  | 0x10 => some (let x := unpackEF g f; if x.sub = 0 then .splice x else .spliceTrap x)
  | 0x11 => some (.pin (unpackEF g f))
  | 0x12 => some (.unpin (unpackEF g f))
  | 0x13 => some (.share (unpackEF g f))
  | 0x18 => some (.pgalloc (unpackEF g f))
  | 0x19 => some (.pgfree (unpackEF g f))
  | 0x1A => some (.xlat (unpackEF g f))
  | 0x1B => some (.hrel (unpackEF g f))
  | 0x20 => some (let x := unpackEF g f; if x.sub = 0 then .advProd x else .advCons x)
  | 0x21 => some (.ringset (unpackEF g f))
  | 0x22 => some (.msg (unpackEF g f))
  | 0x23 => some (.task (unpackEF g f))
  | 0x28 => some (.evsig (unpackEF g f))
  | 0x29 => some (.evwait (unpackEF g f))
  | 0x30 => some (.bar (unpackEF g f))
  | 0x31 => some (.sync (unpackEF g f))
  | 0x32 => some (.fence (unpackEF g f))
  | 0x33 => some (.drain (unpackEF g f))
  | 0x34 => some (.step (unpackEF g f))
  | 0x35 => some (.twait (unpackEF g f))
  | 0x38 => some (.flapp (unpackEF g f))
  | 0x39 => some (.rmw (unpackEF g f))
  | _ => none

/-- The instruction that a tag, opcode, guard and operand field name, before its fields are judged. DESIGN CHOICE: a SUB that selects no listed form is read in the layout of one of its opcode's forms, which decides the bits reserved in it: SEL 2 to 31 as SEL 1, VBCAST 3 and up as .hi, WGRAD 3 and up as its last form, MWAIT 2 and up as the form of an accumulator (R343; log entry 20). -/
def ofOpcode (t : BitVec 3) (c : BitVec 8) (g : Guard) (f : BitVec 47) : Option Instr :=
  match t.toNat with
  | 0 => scalarOf g f c.toNat
  | 1 => vectorOf g false f c.toNat
  | 2 => vectorOf g true f c.toNat
  | 3 => exchangeOf g f c.toNat
  | 4 => matrixOf g f c.toNat
  | 5 => loadOf g f c.toNat
  | 6 => storeOf g f c.toNat
  | _ => engineOf g f c.toNat

end Sys2Proof.Machine.Encoding
end

