-- ==== Sys2Proof/WellFormed.lean ====
section
/-! DEFINITION. Which terms of `Instr` are instructions of the part: the static checks of R341 to R345. -/

namespace Sys2Proof

open Machine.Encoding

/-- No reserved field of the operand field is set (R343). -/
def reservedClear (i : Instr) : Bool := field i &&& ~~~used i == 0

/-- An event is a step of the part, never a syllable (95_what_each_step_holds). -/
def isEvent (i : Instr) : Bool := (tag i).isNone

/-- The term is a syllable of the part: it has a slot, its guard index exists, its reserved fields are zero and every field is within its limits (R341 to R345, R355). -/
def WellFormed (i : Instr) : Bool := !isEvent i && guardOk i && reservedClear i && (limits i).isEmpty

end Sys2Proof
end

