-- ==== Sys2Proof/Decode.lean ====
section
/-! DEFINITION. Decoding: a syllable to an instruction or the cause of its fault, the syllables of a bundle to its template, and the encoder. -/

namespace Sys2Proof

open Machine.Encoding

/-- What a syllable decodes to: an instruction, or CODE and INFO of CLASS 0x01 (Table 21-1). -/
inductive Decoded where
  | ok (i : Instr)
  | bad (code info : Nat)
deriving DecidableEq, Repr

/-- STOP of a syllable (R157). -/
def stopOf (w : Word) : Bool := w.getLsbD 63

/-- TAG of a syllable (R157). -/
def tagOf (w : Word) : BitVec 3 := w.extractLsb' 60 3

/-- OPC of a syllable (R157). -/
def opcOf (w : Word) : BitVec 8 := w.extractLsb' 52 8

/-- The guard of a syllable (R157, R162). -/
def guardBits (w : Word) : Guard := ⟨w.getLsbD 51, w.extractLsb' 47 4⟩

/-- The operand field of a syllable (R157). -/
def fieldBits (w : Word) : BitVec 47 := w.extractLsb' 0 47

/-- The mask of reserved bits found set, folded to 32 bits (CODE 0x0002 of Table 21-1). -/
def foldMask (m : BitVec 47) : Nat := (m.extractLsb' 0 32 ||| (m.extractLsb' 32 15).setWidth 32).toNat

/-- The raw instruction of a syllable: it keeps the reserved bits out, so they are judged on the syllable itself. -/
def rawOf (w : Word) : Option Instr := ofOpcode (tagOf w) (opcOf w) (guardBits w) (fieldBits w)

/-- Decode one syllable: a hint (R185, R347), an unassigned opcode (R342), or an assigned opcode whose guard, reserved fields and limits are judged in the order of R339. -/
def decodeSyll (w : Word) : Decoded :=
  if 0xF0 ≤ (opcOf w).toNat then .ok (.hint ⟨tagOf w, (opcOf w).extractLsb' 0 4, w.extractLsb' 0 52⟩)
  else match rawOf w with
    | none => .bad 1 0
    | some i =>
      if !guardOk i then .bad 3 0
      else if fieldBits w &&& ~~~used i ≠ 0 then .bad 2 (foldMask (fieldBits w &&& ~~~used i))
      else match limits i with
        | [] => .ok i
        | (c, v) :: _ => .bad c v

/-- The syllable of a well-formed instruction, its STOP bit given (R157). -/
def encodeWith (stop : Bool) (i : Instr) : Word :=
  BitVec.ofBool stop ++ (tag i).getD 0 ++ opc i ++ BitVec.ofBool (guardOf i).neg ++ (guardOf i).idx ++ field i

/-- The syllable of a well-formed instruction as it stands in the canonical bundle, STOP cleared (R159). -/
def encode (i : Instr) : Word := encodeWith false i

/-- How reading a bundle's syllables in address order ended (R346). -/
inductive Template where
  /-- A legal bundle: its syllables in tag order. -/
  | whole (l : List Word)
  /-- A broken template: the syllable that broke it and its position. -/
  | broken (w : Word) (pos : Nat)
  /-- The syllable at this position is not there to be read. -/
  | missing (pos : Nat)
deriving DecidableEq, Repr

/-- Read syllables from position `pos` while tags rise; `acc` holds those read, latest first (R346). -/
def readTemplate (fetch : Nat → Option Word) : Nat → Nat → Option (BitVec 3) → List Word → Template
  | 0, pos, _, _ => .missing pos
  | fuel + 1, pos, prev, acc =>
    match fetch pos with
    | none => .missing pos
    | some w =>
      if (match prev with | none => false | some t => (tagOf w).toNat ≤ t.toNat) then .broken w pos
      else if stopOf w then .whole (w :: acc).reverse
      else if tagOf w = 7 then .broken w pos
      else readTemplate fetch fuel (pos + 1) (some (tagOf w)) (w :: acc)

/-- Read the bundle whose syllable at position j is `fetch j` (R158, R346). -/
def readBundle (fetch : Nat → Option Word) : Template := readTemplate fetch 9 0 none []

/-- The syllable whose little-endian bytes begin the list, and the rest (R160). -/
def takeSyll : List Byte → Option (Word × List Byte)
  | b0 :: b1 :: b2 :: b3 :: b4 :: b5 :: b6 :: b7 :: t => some (b7 ++ b6 ++ b5 ++ b4 ++ b3 ++ b2 ++ b1 ++ b0, t)
  | _ => none

/-- The syllables of a byte string, least address first (R160). -/
def sylls : Nat → List Byte → List Word
  | 0, _ => []
  | n + 1, bs => match takeSyll bs with
    | none => []
    | some (w, t) => w :: sylls n t

/-- Decode the first syllable of a byte string; none where it is no instruction or the bytes are too few. -/
def decodeBytes (bs : List Byte) : Option Instr :=
  match takeSyll bs with
  | none => none
  | some (w, _) => match decodeSyll w with
    | .ok i => some i
    | .bad _ _ => none

/-- The bytes of a word of `n` bytes, least significant first (R160). -/
def bytesOf (w : Nat) : Nat → List Byte
  | 0 => []
  | n + 1 => BitVec.ofNat 8 w :: bytesOf (w / 256) n

/-- The instruction that the decoder reads from an instruction whose bits are `w`; bits from `nbits` up are 0, and a syllable has eight bytes. -/
def decodeTableWord (nbits w : Nat) : Option Instr := decodeBytes (bytesOf (w % 2 ^ nbits) 8)

end Sys2Proof
end

