-- ==== Sys2Proof/Config.lean ====
section
/-! DEFINITION. What the architecture leaves open: each constant is a free value without a body, so nothing can be proved of the value it takes. -/

namespace Sys2Proof.Config

/-- Which eligible page of the free list an allocation takes (R83): an index, read modulo the number of eligible pages. Free value, log entry 5. -/
opaque pagePick : Nat → Nat

/-- Which entry of a full translation cache a walk replaces (R79). Free value, log entry 5. -/
opaque tlbVictim : Nat → Nat

/-- Which line of a full instruction cache a fill replaces (R161 gives no rule). Free value, log entry 5. -/
opaque icacheVictim : Nat → Nat

/-- The virtual address at which CBREV maps the header and array it allocates (R54 gives none), in 64 KiB pages. Free value, log entry 6. -/
opaque codebookPage : Nat → BitVec 36

/-- Which prefix of the drains a plain MPEAK returns (R144, R290), read modulo the number of prefixes it may return. Free value, log entry 7. -/
opaque peakPick : Nat → Nat

/-- The signature that the security processor makes with its key and counter over a message (R323): the keys are not in the source. Free value, log entry 8. -/
opaque signature : Nat → List Byte → List Byte

/-- Measurements of firmware and supervisor code in an attestation report (R323). Free value, log entry 8. -/
opaque measurement : Nat → BitVec 256

/-- The bytes of a save area whose layout Table 6-9 does not give. Free value, log entry 9. -/
opaque saveByte : Nat → Byte

/-- The value of a special function where the enclosures of the last precision still straddle a rounding boundary (R236). Free value, log entry 10. -/
opaque unresolved : Nat → Nat → Nat

/-- Bytes a failed write leaves undefined (R375, R391). Free value, log entry 11. -/
opaque lostByte : Nat → Byte

/-- ADDR of a fault record of CLASS 0x06 whose code the manual gives no ADDR for (Table 22-3). Free value, log entry 14. -/
opaque openAddr : Nat → BitVec 64

/-- SYN of the stud-book record of an end-to-end retry, for which the manual names no syndrome (R333). Free value, log entry 14. -/
opaque openSyndrome : Nat → BitVec 64

/-- How far a core cycle moves the tick on, about ten nineteenths of one (R215 fixes neither the phase nor the number of cycles in a tick), read modulo 3. Free value, log entry 4. -/
opaque tickDrift : Nat → Nat

/-- What another package answers to a record sent to it (R271, R389), read modulo 3: 0 it is accepted; 1 it is refused, by its queue or because the package lies outside the domain; 2 it is negatively acknowledged. Free value, log entry 50. -/
opaque peerAnswer : Nat → Nat

/-- Does the remote-ring entry on another package that an entry of this one names name it back, valid and with the other role (R318)? Free value, log entry 35. -/
opaque farPaired : Nat → Nat → Bool

/-- Which of the fabric ports that are up a slot return from another package arrives at (R392), read modulo their number. Free value, log entry 35. -/
opaque returnPort : Nat → Nat

/-- What the bits of a result word hold that the spec gives no value for (R263, R267, R274). Free value, log entry 86. -/
opaque openResult : Nat → BitVec 64

end Sys2Proof.Config
end

