-- ==== Sys2Proof/Machine/State.lean ====
section
/-! DEFINITION. Everything the specification gives the machine, as plain data, and the machine right after reset. -/

namespace Sys2Proof.Machine

/-! ## Results in flight and causes -/

/-- The register that a result lands in; `sec` is the section of a per-section register (R172). -/
inductive Dest where
  | g (r : Nat) | p (r : Nat) | v (r sec : Nat) | m (r sec : Nat) | w (r sec : Nat) | xp (r : Nat) | h (r : Nat)
  | es (r : Nat) | shape (t : Nat) | spec (n : Nat)
deriving DecidableEq, Repr

/-- A result in flight: a snapshot register with its remaining bundle count (R104, R180). Only the bits of `mask` land. -/
structure Flight where
  dest : Dest
  val : BitVec 512
  mask : BitVec 512
  /-- Bundles of the context still to commit before it lands. -/
  cnt : Nat
  /-- The pending window access that delivers the value (R69); 0 for none. -/
  wait : Nat := 0
  /-- The binding through which the codewords were read: of a result of LDC and VNEAR; 0 for none (R53). -/
  via : BitVec 64 := 0
deriving DecidableEq, Repr

/-- What a fault record says of a failed check (Table 20-1). -/
structure Cause where
  cls : Nat
  code : Nat
  slots : Nat := 0
  addr : BitVec 64 := 0
  info : BitVec 32 := 0
deriving DecidableEq, Repr

/-- Why the next bundle of a context does not issue (R105). -/
inductive Block where
  /-- A consumer (or, for STQ, producer) operand of ring `q` with slot index `k` (R75, R254). -/
  | ring (q k : Nat) (producer : Bool)
  /-- A full queue of engine `e` (R255). -/
  | engine (e : Nat)
  /-- A full matrix queue (R277). -/
  | matrix
  /-- A bundle that enters two into one queue, of engine `e` or, where none is named, of the matrix engine, without room for both (R255, R277). -/
  | pair (e : Option Nat)
  /-- EVWAIT on a counter (R272). -/
  | event (i : Nat) (thr : BitVec 16)
  /-- TWAIT (R129). -/
  | tick (t : BitVec 64)
  /-- BAR at a level (R114). -/
  | bar (level : Nat)
  /-- STEP at a level (R115). -/
  | step (level : Nat)
  /-- SYNC (R113). -/
  | sync
  /-- XLAT that missed; the virtual address (R79). -/
  | xlat (va : Nat)
  /-- A syllable of the bundle at this address is not in the instruction cache (R161). -/
  | icache (va : Nat)
  /-- MWAIT of an accumulator or a tile (R279). -/
  | mwait (acc : Bool) (r : Nat)
  /-- MPEAK.settle of an accumulator (R290). -/
  | settle (a : Nat)
  /-- YIELD with another context ready (R213). -/
  | yield
  /-- A team member whose team is frozen by another member (R108). -/
  | team
  /-- Thawed after a fault: the bundle issues once the context has rejoined the order (R105, R326). -/
  | thawed
deriving DecidableEq, Repr

/-- Life of a hardware context (R105, R121). -/
inductive Life where
  | idle | running | retired
deriving DecidableEq, Repr

/-- How far the release of the barrier that a context holds at has come (R113, R114, R115). -/
inductive Release where
  /-- Not decided. -/
  | no
  /-- All participants have arrived; the release is on its way to the core, with the bindings of a STEP that have moved to another version (R52). -/
  | decided (l : List Nat)
  /-- A STEP whose floating bindings of these indices still reload (R52). -/
  | reloading (l : List Nat)
  /-- The release has reached a member of a team, and not yet all of them (R108). -/
  | reached
  /-- The release has reached the core, or the whole team. -/
  | here
deriving DecidableEq, Repr

/-- A fence in force: commands of the later classes wait for these accesses (R138). -/
structure Fence where
  later : BitVec 4
  ids : List Nat
deriving DecidableEq, Repr

/-- A pin held on a stitched tensor: physical address of the head, and version. An UNPIN issued for it marks it as leaving until the drop (R99). -/
structure Pin where
  head : Nat
  ver : Nat
  leaving : Bool := false
  /-- The PIN that took it: an UNPIN may name the pin once that command has completed. -/
  cmd : Nat := 0
deriving DecidableEq, Repr

/-- A command discarded on a ring: the count at which the ring stands for ever, and the command (R380). -/
structure Dropped where
  ring : Nat
  top : Nat
  pc : BitVec 64
  eng : Nat
  id : Nat
deriving DecidableEq, Repr

/-- A record in a replay window (R143, R389). -/
structure Replayed where
  queue : Nat
  lr : BitVec 512
  cmd : Nat
  /-- Tick of its negative acknowledgement. -/
  nackAt : Nat
  refused : Nat
deriving DecidableEq, Repr

/-- The paths on which an engine command or a matrix operation writes (Table 7-2). -/
inductive Path where
  | cp | en | mf | fb
deriving DecidableEq, Repr

/-- The slot of count `count` of a ring has been written on a path by a command or operation of its context (R140). -/
structure RingFill where
  ring : Nat
  count : Nat
  path : Path
deriving DecidableEq, Repr

/-- Slots of a ring of a context, from count `first` on, that an ADV has moved past before the accesses of these identities have performed (R140). -/
structure RingHold where
  ring : Nat
  first : Nat
  ids : List Nat
deriving DecidableEq, Repr

/-! ## Contexts -/

/-- One hardware context (R103). -/
structure Context where
  pc : BitVec 64 := 0
  life : Life := .idle
  block : Option Block := none
  frozen : Option Cause := none
  release : Release := .no
  /-- Cycle at which the context reached the barrier it holds at (R113). -/
  arrivedAt : Nat := 0
  yielded : Bool := false
  func : BitVec 5 := 0
  supv : Bool := false
  task : Nat := 0
  /-- Delay position of the next bundle, 0 outside delay bundles (R348). -/
  delay : Nat := 0
  /-- Target of the taken branch whose delay bundles issue (R181). -/
  target : Option (BitVec 64) := none
  lc0 : BitVec 32 := 0
  lc1 : BitVec 32 := 0
  ls0 : BitVec 64 := 0
  ls1 : BitVec 64 := 0
  le0 : BitVec 64 := 0
  le1 : BitVec 64 := 0
  act0 : Bool := false
  act1 : Bool := false
  /-- EXIT takes effect when its bundle commits (R183). -/
  exiting : Bool := false
  /-- Where the bundle in issue sends control, other than to the next in sequence: a LOOP with count 0 (R182). -/
  jump : Option (BitVec 64) := none
  /-- Length in bytes of the bundle in issue and of its two delay bundles where it links (R181). -/
  len : Nat := 8
  delayLen : Nat := 16
  g : Tab (BitVec 64) := []
  p : BitVec 16 := 1
  v : Tab (BitVec 512) := []
  m : Tab (BitVec 64) := []
  w : Tab (BitVec 264) := []
  q : Tab (BitVec 128) := []
  h : Tab (BitVec 64) := []
  b : Tab (BitVec 64) := []
  es : Tab (BitVec 64) := []
  xp : Tab (BitVec 64) := []
  status : BitVec 8 := 0
  tmpr : BitVec 32 := 0x7F800000
  rseed : BitVec 64 := 0
  rcnt : BitVec 32 := 0
  backoff : BitVec 32 := 256
  domain : BitVec 64 := 0
  savecfg : BitVec 64 := 0
  teampos : BitVec 4 := 0
  stepno : BitVec 64 := 0
  flights : List Flight := []
  /-- Statistics updates of the bundle in issue, performed at its end: entry and new value (R237). -/
  vstat : List (Nat × (Bool × BitVec 512)) := []
  /-- Scale latch that the bundle in issue sets at its end (R285). -/
  newLatch : Option (Nat × Nat) := none
  /-- Unwaited bits of T0 to T15 and A0 to A11 (R278). -/
  tileUnwaited : BitVec 16 := 0
  accUnwaited : BitVec 12 := 0
  /-- Scale latch of a tile: the naming tile plus one, 0 clear (R285). -/
  latch : Tab Nat := []
  pins : List Pin := []
  /-- The last issued bundle used the section network (R240). -/
  xlast : Bool := false
  xnow : Bool := false
  /-- Bundles issued (R338). -/
  issued : Nat := 0
  /-- Prefix of the drains of an accumulator last read by MPEAK (R144). -/
  peakSeen : Tab Nat := []
  replay : List Replayed := []
  fences : List Fence := []
  /-- Commands issued before the last DRAIN, which later remote and engine accesses wait for (R139). -/
  drainRemote : List Nat := []
  drainAll : List Nat := []
  npre : BitVec 32 := 0
  /-- Cycle since which the context has been ready and not running (R106). -/
  readySince : Nat := 0
  /-- Rings on which a command was discarded (R380). -/
  dropped : List Dropped := []
  /-- Slots that an ADV.prod has produced and no consumer may see before the context's earlier writes of the paths that filled them have performed, oldest first (R140). -/
  hidden : List RingHold := []
  /-- Slots not produced yet that the context's commands and matrix operations have written, with the path of each write (R140). -/
  filled : List RingFill := []
  /-- Slots that an ADV.cons has released and no producer may fill before the ring's earlier reads have completed, oldest first (R140, R269). -/
  held : List RingHold := []
  /-- Resumed after a fault, and the bundle that faulted has not issued yet (R384). -/
  retrying : Bool := false
  /-- Taken as a victim at a bundle boundary: it issues no more, and is saved once its window accesses and matrix operations have performed (R130). -/
  saving : Bool := false
  /-- Bundles of the team stream issued by this member (R107). -/
  teamIdx : Nat := 0
  /-- In a member behind the lead, the lead's S-slot guard for the bundle in issue (R210, R212). -/
  leadGuard : Option Bool := none
deriving DecidableEq, Repr

/-! ## Engines and the matrix queue -/

/-- The engine commands (Table 12-2), the fill of PROBE.fill, the records of EVSIG and DRAIN, the ring advance of a landed matrix operation (R291, R292), and a slot return on its way (R133). -/
inductive Op where
  | cpy | cpya | cpyw | probeFill | flapp | cbind
  | enc | cbrev | splice | pin | unpin | share | pgalloc | pgfree | msg | task | rmw | evsig | drain | matrix | slotReturn
deriving DecidableEq, Repr

/-- How far an engine command has come (R255, R327). -/
inductive Phase where
  | queued
  | started
  /-- A CPYW to a remote ring whose data is on its way (R261), or a record sent and not yet accepted (R271). -/
  | sent
  /-- Its writes have performed; the ring advance may still be held (R255, R379). -/
  | done
  /-- Suspended by a fault (R327). -/
  | suspended (c : Cause)
deriving DecidableEq, Repr

/-- An engine command with everything it captured at issue (R255). -/
structure Cmd where
  id : Nat
  op : Op
  eng : Nat
  /-- Context that issued it, within the core, four times its task more while it is saved; and its task. -/
  ctx : Nat
  task : Nat := 0
  func : Nat
  pc : BitVec 64
  /-- Completion ring, if the command names one. -/
  ring : Option Nat
  /-- Tick of the timed form (R129), and of the next try of a record that another package has negatively acknowledged (R389). -/
  at_ : Option (BitVec 64) := none
  /-- Accesses outside path FB that must have performed before it starts (R98, R138, R271, R272). -/
  holds : List Nat := []
  /-- Accesses of every path that must have performed before it starts: of a remote access those before the last DRAIN, of a DRAIN every earlier one (R139). -/
  allHolds : List Nat := []
  /-- Commands whose remote accesses must have completed before it starts (R139). -/
  remoteHolds : List Nat := []
  /-- Commands that must have completed, ring advance included, before it starts: the earlier copies of an UNPIN's context (R99). -/
  ends : List Nat := []
  /-- In an indirect CPYA, the accesses that must have performed before a remote run of it performs (R139). -/
  farHolds : List Nat := []
  remote : Bool := false
  epoch : Nat
  step : BitVec 64
  /-- Cycle of issue. -/
  cycle : Nat
  sub : Nat := 0
  h : BitVec 64 := 0
  h2 : BitVec 64 := 0
  es : List (BitVec 64) := []
  ga : BitVec 64 := 0
  gb : BitVec 64 := 0
  b1 : BitVec 64 := 0
  b2 : BitVec 64 := 0
  /-- Binding register of CBIND, home die of TASK, slot taken by CPYW; 1 once a SPLICE holds its head; cycle of a CPYA's last entry read. -/
  aux : Nat := 0
  /-- Slot and pages that a CBREV has reserved and taken (R54), or the page of a PGALLOC; the table entries that a CPYA has read (R260). -/
  claim : List Nat := []
  /-- Runs of a CPYA that have performed (R260). -/
  runs : Nat := 0
  phase : Phase := .queued
  /-- A discarded command counts as finished for retirement and never advances its ring (R380). -/
  dropped : Bool := false
  retries : Nat := 0
  /-- Negative acknowledgements in a row of a record sent to another package (R389). -/
  refused : Nat := 0
  /-- BACKOFF of its context as its bundle read it, of a record (R143, R214). -/
  backoff : BitVec 32 := 0
  /-- Such a record that another package dropped behind an earlier one, which must come again first (R143, R389). -/
  behind : Bool := false
  /-- Place of a SPLICE in the order of arrival at its head; 0 while it has not come there (R97). -/
  began : Nat := 0
deriving DecidableEq, Repr

/-- The operations of the matrix queue (R277). -/
inductive MOp where
  | mzero | mop | mpart | mlut | mlut2 | mwr | mxfer | mopt | ldt
deriving DecidableEq, Repr

/-- Results that a matrix operation lands (R277). -/
structure MRes where
  /-- Tile bytes by key tile × 65536 + offset. -/
  tile : List (Nat × BitVec 8) := []
  /-- Accumulator elements by key (acc × 256 + row) × 256 + column. -/
  acc : List (Nat × BitVec 32) := []
  /-- Window bytes of MXFER. -/
  win : List (Nat × BitVec 8) := []
  /-- Private-scratchpad or window bytes of MOPT's output slot, and the space. -/
  ring : List (Nat × BitVec 8) := []
  ringWin : Bool := false
  peak : BitVec 32 := 0
  poisoned : Bool := false
deriving DecidableEq, Repr

/-- An entry of the matrix queue with what it captured at issue (R277). -/
structure MEntry where
  id : Nat
  op : MOp
  ctx : Nat
  task : Nat := 0
  pc : BitVec 64
  ta : Nat := 0
  tb : Nat := 0
  tc : Nat := 0
  acc : Nat := 0
  k : Nat := 0
  /-- Shape words of TA, TB and the third tile. -/
  sa : BitVec 64 := 0
  sb : BitVec 64 := 0
  sc : BitVec 64 := 0
  /-- Scale tiles of the two operands, plus one; 0 none. -/
  la : Nat := 0
  lb : Nat := 0
  b1 : BitVec 64 := 0
  b2 : BitVec 64 := 0
  /-- Input ring of the ring forms: handle, ring index, absolute slot index and byte offset. -/
  qin : Option (BitVec 128 × Nat × Nat × Nat) := none
  /-- Output or completion ring index, and the handle of MOPT's output ring as its bundle read it. -/
  qout : Option Nat := none
  qh : BitVec 128 := 0
  aux : Nat := 0
  val : List (BitVec 512) := []
  /-- Image bytes of an LDT; `none` until sampled (R250). -/
  data : Option (List (BitVec 8)) := none
  /-- A poisoned word stood among the window bytes when an LDT sampled them (R373). -/
  bad : Bool := false
  holds : List Nat := []
  /-- Commands whose remote accesses must have completed before it starts (R139). -/
  remoteHolds : List Nat := []
  /-- Cycle of its issue, and of its start once it has started. -/
  cycle : Nat := 0
  start : Nat := 0
  res : Option MRes := none
deriving DecidableEq, Repr

/-- A window access that performs on the sixth cycle after its issue (R69). -/
structure WinAcc where
  id : Nat
  ctx : Nat
  /-- Cycle on which it performs. -/
  cycle : Nat
  /-- Reads: window bytes sampled, in order. -/
  read : List Nat := []
  /-- Writes: window bytes and their values. -/
  write : List (Nat × BitVec 8) := []
  /-- ATOM: operation, address, bytes, operand and compare value (R252). -/
  atom : Option (Nat × Nat × Nat × BitVec 64 × BitVec 64) := none
  /-- Decoding of sampled bytes into the waiting flights (R245 to R251). -/
  shape : Nat := 0
  /-- The binding of an LDC or STC (R53, R251). -/
  arg : BitVec 64 := 0
  arg2 : List (BitVec 8) := []
  /-- Matrix-queue entry that the sample is for (R250). -/
  entry : Nat := 0
  /-- Ring read by the access and the absolute index of the slot (R140). -/
  ring : Option (Nat × Nat) := none
deriving DecidableEq, Repr

/-- A peak register with the prefixes of its drains (R290). -/
structure Peak where
  now : BitVec 32 := 0
  /-- Values after each contribution, oldest first. -/
  hist : List (BitVec 32) := []
  /-- Drains issued and not yet contributed: identity and, once read, the largest magnitude. -/
  pend : List (Nat × Option (BitVec 32)) := []
deriving DecidableEq, Repr

/-- An entry of the translation cache (R79). -/
structure TlbEnt where
  func : Nat
  page : Nat
  handle : BitVec 64
deriving DecidableEq, Repr

/-- The release of a binding's reference, waiting for accesses through it to land (R53). -/
structure RefDrop where
  ctx : Nat
  func : Nat
  cbid : Nat
  ver : Nat
  /-- Queued operations and window accesses through the binding, still to land. -/
  ids : List Nat
  /-- Bundles the context must have issued for its results read through the binding to have landed. -/
  after : Nat
deriving DecidableEq, Repr

/-- One core with its per-core storage, queues and engines (R10, R14, R103). -/
structure Core where
  /-- Contexts of the core other than the one in `State.ctx`. -/
  parked : Tab Context := []
  /-- Context that the core runs when the core is parked. -/
  running : Nat := 0
  scratch : Memory := []
  /-- The 2 MiB shared part (R68). -/
  shared : Memory := []
  tags : Tab (BitVec 64) := []
  cachecfg : BitVec 64 := 0
  tshare : BitVec 64 := 0
  stats : Tab (BitVec 128) := []
  tile : Tab (BitVec 8) := []
  shapes : Tab (BitVec 64) := []
  acc : Tab (BitVec 32) := []
  peaks : Tab Peak := []
  tilePoison : BitVec 16 := 0
  accPoison : BitVec 12 := 0
  mqueue : List MEntry := []
  /-- Cycle from which the matrix engine may start the next operation (R277). -/
  matrixFree : Nat := 0
  cmds : List Cmd := []
  tlb : List TlbEnt := []
  /-- Instruction-cache lines: function, line address divided by 64, the 64 bytes (R161). -/
  icache : List (Nat × Nat × BitVec 512) := []
  window : List WinAcc := []
  /-- Poisoned 16-byte words of the private scratchpad and of the shared part (R373). -/
  scratchPoison : List Nat := []
  sharedPoison : List Nat := []
  /-- Cycle from which the core may issue again: one bundle per cycle and the bubble of R105. -/
  freeAt : Nat := 0
  /-- Cycle on which the running context last blocked (R105). -/
  blockAt : Nat := 0
  /-- The running context was taken for its age and has not issued a bundle since (R106). -/
  agedIn : Bool := false
  refDrops : List RefDrop := []
deriving DecidableEq, Repr

/-! ## The package -/

/-- A record in a hardware queue (R123). -/
structure QRec where
  lr : BitVec 512
  seq : BitVec 32
  /-- Home die of a TASK (R125). -/
  home : Option Nat := none
  /-- Graph and node that launched it (R128). -/
  graph : Option (Nat × Nat) := none
deriving DecidableEq, Repr

/-- A sender of records (R143). -/
inductive Sender where
  | host (q : Nat)
  | ctx (c k task : Nat)
  | graph (g : Nat)
deriving DecidableEq, Repr

/-- A record that the host has written to a queue window and no queue has accepted; `nacked` once its fabric response has said so (R315). -/
structure HostRec where
  queue : Nat
  lr : BitVec 512
  nacked : Bool := false
deriving DecidableEq, Repr

/-- A record on its way to a queue. -/
structure Inbound where
  sender : Sender
  queue : Nat
  lr : BitVec 512
  cmd : Nat := 0
  home : Option Nat := none
  graph : Option (Nat × Nat) := none
  refused : Nat := 0
deriving DecidableEq, Repr

/-- A hardware queue (R123). -/
structure Queue where
  /-- Configuration word without SEQ (Table 6-6). -/
  conf : BitVec 32 := 0
  seq : BitVec 32 := 0
  recs : List QRec := []
  /-- Senders whose records are dropped until the first dropped one comes again (R143). -/
  dropping : List Inbound := []
  /-- SEQ of the next record whose completion record may be written (R121). -/
  nextDone : BitVec 32 := 1
deriving DecidableEq, Repr

/-- Where the lead of a team stands after a bundle: what every member's control follows (R107, R211, R212). -/
structure Ctl where
  at_ : BitVec 64
  /-- The broadcast bundle. -/
  sylls : List (BitVec 64)
  len : Nat
  delayLen : Nat
  guard : Bool
  pc : BitVec 64
  delay : Nat
  target : Option (BitVec 64)
  lc : BitVec 32 × BitVec 32
  ls : BitVec 64 × BitVec 64
  le : BitVec 64 × BitVec 64
  act : Bool × Bool
  exits : Bool
deriving DecidableEq, Repr

/-- A task placed on contexts, or a task graph in execution (R118 to R128). -/
structure TaskSt where
  id : Nat
  func : Nat
  queue : Nat
  seq : BitVec 32
  lr : BitVec 512
  prio : Nat
  /-- Core and context of each placement index. -/
  places : List (Nat × Nat) := []
  team : Bool := false
  /-- Order of start, for pre-emption (R130). -/
  order : Nat := 0
  tstart : BitVec 64 := 0
  started : Bool := false
  npre : BitVec 32 := 0
  /-- Step counters of the task by level × 256 + domain (R110). -/
  steps : Tab (BitVec 64) := []
  /-- SYNC line held on a die, plus one (R113). -/
  lines : Tab Nat := []
  /-- STAT once the task has ended, and the tick of its end (R383). -/
  ended : Option (Nat × BitVec 64) := none
  /-- All its contexts have retired and all their writes have performed (R121). -/
  finished : Bool := false
  graph : Option (Nat × Nat) := none
  /-- Team stream: the lead's bundles, the first of them number `streamBase` (R107). -/
  stream : List Ctl := []
  streamBase : Nat := 0
  /-- A pre-emption of the team waits for its STEP (R130). -/
  preempt : Bool := false
deriving DecidableEq, Repr

/-- A task graph in execution (R127, R128). -/
structure Graph where
  id : Nat
  func : Nat
  queue : Nat
  task : Nat
  array : BitVec 64
  /-- Nodes ready and not yet acted. -/
  ready : List Nat := []
  /-- Launch nodes whose task has not completed. -/
  live : List Nat := []
  /-- STAT 0x03 once stopped (R383). -/
  stopped : Bool := false
deriving DecidableEq, Repr

/-- A saved context or team member (R130, R131, Table 6-9). -/
structure Saved where
  core : Nat
  ctxId : Nat
  ctx : Context
  faulted : Bool
  /-- Owned tiles and accumulators, and the statistics entries that SAVECFG names. -/
  tile : Tab (BitVec 8) := []
  shapes : Tab (BitVec 64) := []
  acc : Tab (BitVec 32) := []
  peaks : Tab Peak := []
  tilePoison : BitVec 16 := 0
  accPoison : BitVec 12 := 0
  stats : Tab (BitVec 128) := []
  /-- TSHARE of the core as it was saved: which tiles and accumulators the save area holds. -/
  tshare : BitVec 64 := 0
deriving DecidableEq, Repr

/-- What a core's scratchpads hold (R131). -/
structure CoreStore where
  scratch : Memory := []
  shared : Memory := []
  tags : Tab (BitVec 64) := []
  scratchPoison : List Nat := []
  sharedPoison : List Nat := []
deriving DecidableEq, Repr

/-- The cluster save area of a function: the scratchpads of the cluster's four cores (R131). -/
structure ClusterSave where
  cluster : Nat
  func : Nat
  cores : List CoreStore
deriving DecidableEq, Repr

/-- A call to the supervisor not yet answered (R216). -/
structure Call where
  lr : BitVec 512
  core : Nat
  ctxId : Nat
  ring : Nat
  /-- Task of the caller: a reply reaches only the task that called. -/
  task : Nat
  /-- Window accesses that perform before the record is posted. -/
  after : List Nat
  /-- The record is posted: its SLOT stands. -/
  posted : Bool
deriving DecidableEq, Repr

/-- The fault queue of one die's supervisor (R328, R329): the last `size` records in order. -/
structure FaultQueue where
  seq : Nat := 0
  recs : List (BitVec 512) := []
  /-- Records that the queue holds; firmware sizes it (R329; log entry 55). -/
  size : Nat := 1024
deriving DecidableEq, Repr

/-- The stud book (R333 to R335). -/
structure StudBook where
  /-- Buffered records, oldest first; at most 1,024. -/
  buffer : List (BitVec 256) := []
  /-- The ring in the device memory of the system function, on the way to the log (R334). -/
  ring : List (BitVec 256) := []
  /-- Records not buffered, by source number. -/
  missed : Tab Nat := []
  /-- Records of the open page. -/
  page : List (BitVec 256) := []
  /-- Closed pages: 127 records and the chain word. -/
  closed : List (List (BitVec 256) × BitVec 256) := []
  chain : BitVec 256 := 0
  /-- Signed chain heads (R335). -/
  signed : List (BitVec 256 × List (BitVec 8)) := []
  /-- One-time-key counter on flash (R323). -/
  lms : Nat := 0
  /-- The next write of that counter to flash fails (R323). -/
  keyBad : Bool := false
deriving DecidableEq, Repr

/-- A flash log (R86): first page's physical address, size in pages, write pointer, which counts good pages, and the pages marked bad (R374). -/
structure FlashLog where
  base : Nat := 0
  pages : Nat := 0
  ptr : Nat := 0
  bad : List Nat := []
deriving DecidableEq, Repr

/-- Data, accept or slot return of a remote ring on its way within the package (R77, R261). -/
inductive RingMsg where
  /-- A slot sent from a producer end to the consumer end (f, link): its bytes, the sending core, context and command. -/
  | data (f link : Nat) (bytes : List (BitVec 8)) (c k cmd : Nat)
  /-- The consumer accepted a send of the producer end (f, link). -/
  | accept (f link : Nat)
  /-- A slot return to the producer end (f, link), from command `cmd` of a consumer core and context; it leaves once the reads of the slot with this absolute index of ring `q` have completed (R140). -/
  | ret (f link : Nat) (c k q idx cmd : Nat)
deriving DecidableEq, Repr

/-- A remote-ring entry (function × 65536 + entry) bound to a ring of a context of a task (R318). -/
structure Bound where
  key : Nat
  core : Nat
  ctxId : Nat
  task : Nat
  ring : Nat
deriving DecidableEq, Repr

/-- A pending revocation (R80). -/
structure Revoke where
  func : Nat
  tag : Nat
deriving DecidableEq, Repr

/-- A program of the program store: its function, the virtual address at which it is pinned, and its range list: the ranges that it touches, in the order of its uses, each by first virtual page and pages (R88, R119). -/
structure Staged where
  f : Nat
  va : Nat
  ranges : List (Nat × Nat) := []
deriving DecidableEq, Repr

/-- A page freed by the whole, and what its scrub frees in turn: codebook slot or stitched version slot (R55, R100). -/
structure Linked where
  pages : List Nat
  /-- Physical address of a directory or version slot and its length, zeroed when the pages have joined the free list. -/
  slot : Nat
  len : Nat
deriving DecidableEq, Repr

/-- The hub die and everything shared by the package. -/
structure Hub where
  /-- Address-range table (R81). -/
  ranges : Tab (BitVec 256) := []
  /-- Page descriptors by page frame number (R83). -/
  pages : Tab (BitVec 64) := []
  free : List Nat := []
  /-- Lines pending scrub (R371). -/
  scrubLines : List Nat := []
  /-- Pages of a function reset that join the free list when quiescence passes the epoch (R336). -/
  resetPages : List (Nat × Nat) := []
  withdrawn : List Nat := []
  /-- Pages that have held a poisoned line (R373). -/
  oncePoisoned : List Nat := []
  linked : List Linked := []
  /-- SHARE references not yet taken by a SPLICE, by the page that holds the piece, in the reserve zone too (R88, R101). -/
  prepared : Tab Nat := []
  epoch : Nat := 0
  /-- Poisoned 64-byte lines of device memory, and lines with an uncorrectable error that no read has met yet (R373). -/
  poison : List Nat := []
  badLines : List Nat := []
  /-- Physical addresses of the stitched heads that have had a publication (R97). -/
  heads : List Nat := []
  /-- The page that holds the second copy of a step-window page, plus one, by page frame; and stamps and masks of both copies by line of the first (R116). -/
  copies : Tab Nat := []
  stamp0 : Tab (BitVec 24) := []
  stamp1 : Tab (BitVec 24) := []
  /-- Function configuration blocks (Table 19-1). -/
  funcs : Tab (BitVec 1024) := []
  counters : Tab (BitVec 16) := []
  /-- SEQ of each function's fault queue (R329). -/
  fqSeq : Tab Nat := []
  /-- By function, the records of the last TICK of its fault queue, newest first: later records of that tick take their place among them (R330). The mark says that the record is lost, and the supervisor has the one in its place (R398). -/
  fqRecent : Tab (List (BitVec 512 × Bool)) := []
  /-- Step counters of barrier groups, by (function × 64 + group) × 8 + level (R110). -/
  bgSteps : Tab (BitVec 64) := []
  /-- Tasks of a barrier group that have completed (R109), and broken groups (R387), by function × 64 + group. -/
  bgDone : Tab Nat := []
  /-- Arrivals of other packages' tasks at the level-5 barriers of a group (R111, R321), by function × 64 + group. -/
  bgPeers : Tab Nat := []
  bgBroken : List Nat := []
  queues : Tab Queue := []
  inbox : List Inbound := []
  /-- Replay windows of the host's queue windows (R315). -/
  hostRecs : List HostRec := []
  tasks : List TaskSt := []
  graphs : List Graph := []
  /-- Deficits of DISPATCH by function × 4 + priority, and the last served function and queue (R124). -/
  deficit : Tab Nat := []
  lastFunc : Tab Nat := []
  lastQueue : Tab Nat := []
  saved : List Saved := []
  clusterSaves : List ClusterSave := []
  calls : List Call := []
  supFaults : Tab FaultQueue := []
  studBook : StudBook := {}
  logs : Tab FlashLog := []
  /-- Remote-ring entries bound to contexts (R318). -/
  bound : List Bound := []
  ringMsgs : List RingMsg := []
  revokes : List Revoke := []
  /-- Pages in the reserve zone, by function and virtual page; their bytes stand in memory beyond every page frame (R88, log entry 56). -/
  reserve : List (Nat × Nat) := []
  /-- Tick alignment (R320, R390). -/
  package : BitVec 12 := 0
  aligned : Bool := false
  lastFlit : BitVec 64 := 0
  inRange : Nat := 0
  lastSent : BitVec 64 := 0
  /-- Tick of the last correction, plus one (R320). -/
  steerAt : Nat := 0
  /-- Flits sent: port, package, tick and level-5 step counters by function × 64 + group (R320). -/
  flits : List (Nat × BitVec 12 × BitVec 64 × List (Nat × BitVec 64)) := []
  /-- The groups, by function × 64 + group, whose level-5 step counter has differed from another package's and has not been rewritten since (R320, R390). -/
  step5Bad : List Nat := []
  /-- The next tick is withheld, to steer toward a root that is behind (R320). -/
  slow : Bool := false
  /-- Rows throttled: bank, row and tick of the throttle (R372). -/
  rows : List (Nat × Nat × BitVec 64) := []
  portsDown : List Nat := []
  cxlDown : Bool := false
  /-- Mapping tags, by function, that have been revoked since that link went down (R375). -/
  cxlRevoked : List (Nat × Nat) := []
  /-- Status word of the management window (R337). -/
  status : BitVec 64 := 0
  /-- The steps of bring-up that are complete (Table 19-3). -/
  bringUp : Nat := 0
  /-- The step of bring-up that will fail in its place, with the cause of its report; what fails is not the model's to say, so a package reset names it (R324). -/
  bringFail : Option (Nat × Nat) := none
  reports : List (List (BitVec 8)) := []
  /-- Staged programs (R88, R119). -/
  staged : List Staged := []
  nextTask : Nat := 1
deriving DecidableEq, Repr

/-- What timing and the outside world bring next (log entry 1). -/
inductive Move where
  /-- The core issues the next bundle of its running context. -/
  | run (c : Nat)
  /-- A step of the part. -/
  | event (i : Instr)
  /-- One core cycle passes. -/
  | clock
  /-- A corrected error (R332): source, kind, location and syndrome. -/
  | correct (src : BitVec 16) (kind : BitVec 8) (loc syn : BitVec 64)
  /-- An uncorrected error in a line of device memory (R373). -/
  | poisonLine (line : Nat)
  /-- An uncorrected error in a 16-byte word of a core's private scratchpad or shared part (R373). -/
  | poisonWord (c : Nat) (shared : Bool) (word : Nat)
  /-- An uncorrected error in a tile or accumulator (R376). -/
  | poisonTile (c : Nat) (acc : Bool) (r : Nat)
  /-- The next write of the one-time-key counter to flash fails (R323). -/
  | keyWriteFail
  /-- A page of a flash log, by function × 16 + log and its number within the log, is bad: it fails when it is appended (R374). -/
  | flashBad (key page : Nat)
  /-- A task of another package arrives at the level-5 barrier of a group, by function × 64 + group (R321). -/
  | peerArrive (key : Nat)
  /-- The check of an on-chip or die-to-die flit of the access of a command fails uncorrected (R331, R373). -/
  | flitError (c id : Nat)
  /-- The home agent on another package refuses the access of an RMW (R365). -/
  | homeRefuses (c id : Nat)
  /-- Request `n` of the page walk or instruction fetch that a context waits for fails: its flits (CODE 0x0005 of CLASS 0x09, R331), or, where `cxl` holds, for want of an answer of a CXL device (CODE 0x0004, R375). -/
  | fetchFails (c k n : Nat) (cxl : Bool)
  /-- The consumer end on another package that a send names is not valid, not bound or not paired (R392). -/
  | farRefuses (c id : Nat)
deriving DecidableEq, Repr

/-- The whole package. The running context of the core in focus stands in `ctx` and that core in `core`; the others are parked. -/
structure State where
  coreId : Nat
  ctxId : Nat
  ctx : Context
  core : Core
  cores : Tab Core
  cycle : Nat
  /-- Nineteenths of a tick since the last one; a cycle adds about ten (R8, R215; log entry 4). -/
  phase : Nat
  tick : BitVec 64
  /-- Moves that timing and the outside world bring next; the model's own field (log entry 1). -/
  agenda : List Move
  /-- Counter for identities and free values; the model's own field (log entry 5). -/
  fresh : Nat
  /-- Device, CXL, flash and host memory by physical address (R78, R81). -/
  mem : Memory
  hub : Hub
deriving DecidableEq, Repr

/-! ## Stops -/

/-- Why a step stops without a next state. -/
inductive Fault where
  /-- Raised by a step named for a core, context, queue or task number that the package does not have (R9, R123): no such agent can take the step. Safe. -/
  | absentAgent
deriving DecidableEq, Repr

/-- Why a step has no meaning. -/
inductive Refusal where
  /-- Raised by an arm of `exec` whose instruction has no meaning yet. Safe. -/
  | notModelled (mnemonic : String)
deriving DecidableEq, Repr

/-- What a step answers. -/
abbrev Result := Host.Outcome State Fault Refusal

/-! ## Reset -/

/-- A context after package reset: Tables 8-6 and 8-7 give the special registers; the rest as log entry 2 says. A supervisor core runs at supervisor level (R10). -/
def resetContext (c : Nat) : Context := { supv := decide (0x100 ≤ c) }

/-- A core after package reset. -/
def resetCore (_c : Nat) : Core := {}

/-- The hub after package reset, before bring-up has loaded any table (R337). -/
def resetHub : Hub := {}

/-- The machine right after package reset (R337): nothing is dispatched, no table is loaded, and the focus stands on context 0 of core 0. -/
def State.reset : State :=
  { coreId := 0, ctxId := 0, ctx := resetContext 0, core := resetCore 0, cores := [], cycle := 0, phase := 0, tick := 0,
    agenda := [], fresh := 0, mem := [], hub := resetHub }

end Sys2Proof.Machine
end

