-- ==== Sys2Proof/Machine/Ops.lean ====
section
/-! DEFINITION. The named operations over registers, cores, memory and translation, and the shared operation that takes a fault. -/

namespace Sys2Proof.Machine

/-! ## Tables that keep every entry -/

/-- Put `v` at key `k` of a table of structures; no entry is dropped. -/
def tput {α : Type} : Tab α → Nat → α → Tab α
  | [], k, v => [(k, v)]
  | (j, w) :: t, k, v =>
    if k < j then (k, v) :: (j, w) :: t else if k = j then (k, v) :: t else (j, w) :: tput t k v

/-! ## Registers (R172, R173) -/

namespace Context

/-- G[i]; G0 reads zero. -/
def G (c : Context) (i : Nat) : BitVec 64 := if i = 0 then 0 else tget 0 c.g i
/-- P[i]; P0 reads true. -/
def P (c : Context) (i : Nat) : Bool := i == 0 || c.p.getLsbD i
/-- V[r] of a section. -/
def V (c : Context) (r sec : Nat) : BitVec 512 := tget 0 c.v (r * 8 + sec)
/-- M[r] of a section; M0 reads all ones. -/
def M (c : Context) (r sec : Nat) : BitVec 64 := if r = 0 then BitVec.allOnes 64 else tget 0 c.m (r * 8 + sec)
/-- W[r] of a section: lanes in bits 255:0, lineage in bits 263:256. -/
def W (c : Context) (r sec : Nat) : BitVec 264 := tget 0 c.w (r * 8 + sec)
/-- Q[i] (Table 4-3). -/
def Q (c : Context) (i : Nat) : BitVec 128 := tget 0 c.q i
/-- H[i] (Table 4-5). -/
def H (c : Context) (i : Nat) : BitVec 64 := tget 0 c.h i
/-- B[i] (Table 3-3). -/
def B (c : Context) (i : Nat) : BitVec 64 := tget 0 c.b i
/-- ES[i]. -/
def ES (c : Context) (i : Nat) : BitVec 64 := tget 0 c.es i
/-- XP[i]. -/
def XP (c : Context) (i : Nat) : BitVec 64 := tget 0 c.xp i
/-- Write Q[i]. -/
def setQ (c : Context) (i : Nat) (v : BitVec 128) : Context := { c with q := tset 0 c.q i v }
/-- Write B[i]. -/
def setB (c : Context) (i : Nat) (v : BitVec 64) : Context := { c with b := tset 0 c.b i v }

end Context

/-- Does the scalar guard hold (R162)? -/
def sguard (g : Guard) (c : Context) : Bool := xor (c.P g.idx.toNat) g.neg

/-- The elements of a section that the mask guard enables (R162). -/
def vguard (g : Guard) (c : Context) (sec : Nat) : BitVec 64 :=
  if g.neg then ~~~c.M g.idx.toNat sec else c.M g.idx.toNat sec

/-! ## Elements of a register (R171) -/

/-- Element `e` of width `w`. -/
def elt (x : BitVec 512) (w e : Nat) : Nat := (x.toNat >>> (w * e)) % 2 ^ w

/-- The number whose `n` elements of width `w` are `f 0 … f (n − 1)`. -/
def packE (w : Nat) (f : Nat → Nat) : Nat → Nat
  | 0 => 0
  | n + 1 => packE w f n + ((f n % 2 ^ w) <<< (w * n))

/-- All bits of the elements that `en` selects among the first `n`. -/
def maskE (w : Nat) (en : Nat → Bool) (n : Nat) : Nat := packE w (fun e => if en e then 2 ^ w - 1 else 0) n

/-! ## Results (R104, R349) -/

/-- The result `v` for G[r], landing after `l` bundles; G0 takes none (R173). -/
def putG (r : Nat) (v : BitVec 64) (l : Nat) : List Flight :=
  if r = 0 then [] else [{ dest := .g r, val := v.setWidth 512, mask := (BitVec.allOnes 64).setWidth 512, cnt := l }]

/-- The result for P[r]; P0 takes none. -/
def putP (r : Nat) (b : Bool) (l : Nat) : List Flight :=
  if r = 0 then [] else [{ dest := .p r, val := (BitVec.ofBool b).setWidth 512, mask := 1, cnt := l }]

/-- A result for one section's register that writes the bits of `mask`; none where it writes no bit (R349). -/
def putSec (d : Dest) (val mask : Nat) (l : Nat) : List Flight :=
  if BitVec.ofNat 512 mask = 0 then [] else [{ dest := d, val := BitVec.ofNat 512 val, mask := BitVec.ofNat 512 mask, cnt := l }]

/-- A result for a whole 64-bit register of the context or core. -/
def putReg (d : Dest) (v : BitVec 64) (l : Nat) : List Flight :=
  [{ dest := d, val := v.setWidth 512, mask := (BitVec.allOnes 64).setWidth 512, cnt := l }]

/-- The eight sections (R171). -/
def sections : List Nat := [0, 1, 2, 3, 4, 5, 6, 7]

/-- Do two results land in one register between the same two bundles (R349)? Only G, P, V, M, W, XP and H collide. -/
def clash (l : Nat) (f g : Flight) : Bool :=
  f.dest == g.dest && f.cnt == l && (match g.dest with
    | .g _ | .p _ | .v .. | .m .. | .w .. | .xp _ | .h _ => true
    | _ => false)

/-- The register word of a destination (R339). -/
def Dest.word : Dest → BitVec 64
  | .g r => .ofNat 64 r
  | .p r => .ofNat 64 (r + 0x100)
  | .v r s => .ofNat 64 (r + 0x200 + s * 0x1000)
  | .m r s => .ofNat 64 (r + 0x300 + s * 0x1000)
  | .w r s => .ofNat 64 (r + 0x400 + s * 0x1000)
  | .xp r => .ofNat 64 (r + 0x500)
  | .h r => .ofNat 64 (r + 0x600)
  | .es r => .ofNat 64 r
  | .shape t => .ofNat 64 (t + 0x700)
  | .spec n => .ofNat 64 n

/-- The register word of a tile (false) or accumulator (true). -/
def matWord (acc : Bool) (r : Nat) : BitVec 64 := .ofNat 64 (r + if acc then 0x800 else 0x700)

/-- The first collision of new results with results in flight (CODE 0x0001 of CLASS 0x02). -/
def collision (old new : List Flight) : Option Cause :=
  (new.find? fun g => old.any fun f => clash g.cnt f g).map fun g =>
    { cls := 2, code := 1, addr := g.dest.word, info := .ofNat 32 g.cnt }

/-- Put results in flight. -/
def Context.fly (c : Context) (fs : List Flight) : Context := { c with flights := c.flights ++ fs }

/-- The old bits where the mask is clear, the new bits where it is set. -/
def merge {w : Nat} (old : BitVec w) (f : Flight) : BitVec w :=
  (old &&& ~~~f.mask.setWidth w) ||| (f.val.setWidth w &&& f.mask.setWidth w)

/-- A result lands in a register of its context (R104). Writes to G0, P0 and M0 are discarded (R173). -/
def Context.land (c : Context) (f : Flight) : Context :=
  match f.dest with
  | .g r => if r = 0 then c else { c with g := tset 0 c.g r (merge (c.G r) f) }
  | .p r => if r = 0 then c else { c with p := if f.val.getLsbD 0 then c.p ||| ((1 : BitVec 16) <<< r) else c.p &&& ~~~((1 : BitVec 16) <<< r) }
  | .v r s => { c with v := tset 0 c.v (r * 8 + s) (merge (c.V r s) f) }
  | .m r s => if r = 0 then c else { c with m := tset 0 c.m (r * 8 + s) (merge (c.M r s) f) }
  | .w r s => { c with w := tset 0 c.w (r * 8 + s) (merge (c.W r s) f) }
  | .xp r => { c with xp := tset 0 c.xp r (merge (c.XP r) f) }
  | .h r => { c with h := tset 0 c.h r (merge (c.H r) f) }
  | .es r => { c with es := tset 0 c.es r (merge (c.ES r) f) }
  | .shape _ => c
  | .spec n =>
    if n = 1 then { c with tmpr := f.val.setWidth 32 }
    else if n = 2 then { c with rseed := f.val.setWidth 64 }
    else if n = 3 then { c with rcnt := f.val.setWidth 32 }
    else if n = 9 then { c with domain := f.val.setWidth 64 }
    else if n = 0xC then { c with backoff := f.val.setWidth 32 }
    else if n = 0xF then { c with savecfg := f.val.setWidth 64 }
    else c

/-- A result lands in a register of its core: a tile's shape word, TSHARE or CACHECFG (R174, R177). -/
def Core.land (k : Core) (f : Flight) : Core :=
  match f.dest with
  | .shape t => { k with shapes := tset 0 k.shapes t (f.val.setWidth 64) }
  | .spec n =>
    if n = 0xD then { k with tshare := f.val.setWidth 64 }
    else if n = 0xE then { k with cachecfg := f.val.setWidth 64 }
    else k
  | _ => k

/-- Results whose bundles have all issued (R104). -/
def Context.due (c : Context) : List Flight := c.flights.filter fun f => f.cnt == 0

/-- Every due result lands, in the order of issue. -/
def Context.landDue (c : Context) : Context :=
  c.due.foldl Context.land { c with flights := c.flights.filter fun f => f.cnt != 0 }

/-- Every due result of the running context lands: the pre-bundle state of its next bundle (R104, R134). -/
def landDue (s : State) : State :=
  { s with ctx := s.ctx.landDue, core := s.ctx.due.foldl Core.land s.core }

/-! ## Cores and contexts (R9) -/

/-- The core numbers of the package (R9). -/
def isCore (c : Nat) : Bool := c < 192 || (0x100 ≤ c && c < 0x108)

/-- Is it a supervisor core (R10)? -/
def isSupCore (c : Nat) : Bool := 0x100 ≤ c

/-- The die of a core (R9). -/
def dieOf (c : Nat) : Nat := if isSupCore c then (c - 0x100) / 2 else c / 48

/-- The cluster of a core (R9). -/
def clusterOf (c : Nat) : Nat := if isSupCore c then 0xFF else c / 4

/-- The source number of a context (R15). -/
def srcCtx (c k : Nat) : Nat := if isSupCore c then 0x2000 + (c - 0x100) * 4 + k else c * 4 + k

/-- The source number of an engine of a core (R15, R16). -/
def srcEngine (c e : Nat) : Nat := 0x1000 + c * 8 + e

/-- A core. -/
def getCore (s : State) (c : Nat) : Core := if c = s.coreId then s.core else tget (resetCore c) s.cores c

/-- A hardware context. -/
def getCtx (s : State) (c k : Nat) : Context :=
  if c = s.coreId ∧ k = s.ctxId then s.ctx else tget (resetContext c) (getCore s c).parked k

/-- Change a core. -/
def modCore (c : Nat) (f : Core → Core) (s : State) : State :=
  if c = s.coreId then { s with core := f s.core } else { s with cores := tput s.cores c (f (getCore s c)) }

/-- Change a hardware context. -/
def modCtx (c k : Nat) (f : Context → Context) (s : State) : State :=
  if c = s.coreId ∧ k = s.ctxId then { s with ctx := f s.ctx }
  else modCore c (fun co => { co with parked := tput co.parked k (f (tget (resetContext c) co.parked k)) }) s

/-- A place whose context has left it, saved or abandoned: it runs nothing and has nothing open, its handles, bindings, ring handles and pins are gone with the context (R130, R336), and every other register keeps its value, since nothing names a change of it (R5; log entry 46). -/
def Context.vacated (c : Nat) (x : Context) : Context :=
  { resetContext c with
    pc := x.pc, func := x.func, g := x.g, p := x.p, v := x.v, m := x.m, w := x.w, es := x.es, xp := x.xp,
    status := x.status, tmpr := x.tmpr, rseed := x.rseed, rcnt := x.rcnt, backoff := x.backoff, domain := x.domain, savecfg := x.savecfg,
    teampos := x.teampos, stepno := x.stepno, lc0 := x.lc0, lc1 := x.lc1, ls0 := x.ls0, ls1 := x.ls1, le0 := x.le0, le1 := x.le1 }

/-- The bubble behind a block or a fault stands when the running context that met it leaves the core inside it (R105). -/
def keepBubble (c k : Nat) (s : State) : State :=
  let now := if c = s.coreId then s.ctxId else (getCore s c).running
  if now = k ∧ ((getCtx s c k).block.isSome ∨ (getCtx s c k).frozen.isSome) then modCore c (fun co => { co with freeAt := max co.freeAt (co.blockAt + 2) }) s
  else s

/-- Change the hub. -/
def modHub (f : Hub → Hub) (s : State) : State := { s with hub := f s.hub }

/-- The core in focus with its running context put back among the others. -/
def packedCore (s : State) : Core := { s.core with parked := tput s.core.parked s.ctxId s.ctx, running := s.ctxId }

/-- Bring core `c` into focus, on its running context. -/
def focusCore (c : Nat) (s : State) : State :=
  if c = s.coreId then s
  else
    let cores := tput s.cores s.coreId (packedCore s)
    let co := tget (resetCore c) cores c
    { s with coreId := c, ctxId := co.running, core := co, ctx := tget (resetContext c) co.parked co.running, cores := cores }

/-- Make context `k` of the core in focus its running context. -/
def switchTo (k : Nat) (s : State) : State :=
  if k = s.ctxId then s
  else
    let co := packedCore s
    { s with ctxId := k, core := { co with running := k }, ctx := tget (resetContext s.coreId) co.parked k }

/-- Bring context `k` of core `c` into focus. -/
def focus (c k : Nat) (s : State) : State := switchTo k (focusCore c s)

/-- Apply `f` to every context of the package. -/
def mapCtxs (f : Nat → Nat → Context → Context) (s : State) : State :=
  { s with
    ctx := f s.coreId s.ctxId s.ctx
    core := { s.core with parked := s.core.parked.map fun p => (p.1, f s.coreId p.1 p.2) }
    cores := s.cores.map fun c => (c.1, { c.2 with parked := c.2.parked.map fun p => (p.1, f c.1 p.1 p.2) }) }

/-- Apply `f` to every core of the package. -/
def mapCores (f : Nat → Core → Core) (s : State) : State :=
  { s with core := f s.coreId s.core, cores := s.cores.map fun c => (c.1, f c.1 c.2) }

/-- The cores of the package whose state differs from reset or may: the one in focus and the parked ones. -/
def coreIds (s : State) : List Nat := s.coreId :: (s.cores.map (·.1)).filter (· ≠ s.coreId)

/-- Core and context numbers of all contexts that the state holds. -/
def ctxIds (s : State) : List (Nat × Nat) :=
  (coreIds s).flatMap fun c => [0, 1, 2, 3].map fun k => (c, k)

/-- A fresh identity. -/
def State.newId (s : State) : Nat := s.fresh + 1

/-- Use up one fresh identity. -/
def State.bump (s : State) : State := { s with fresh := s.fresh + 1 }

/-! ## Functions (Table 19-1) -/

/-- A field of a function's configuration block. -/
def fblk (s : State) (f hi lo : Nat) : Nat := bits (tget 0 s.hub.funcs f).toNat hi lo

/-- EN. -/
def fEnabled (s : State) (f : Nat) : Bool := fblk s f 0 0 == 1
/-- SCLIM. -/
def fSclim (s : State) (f : Nat) : Nat := fblk s f 2 1
/-- FPOL. -/
def fFpol (s : State) (f : Nat) : Bool := fblk s f 3 3 == 1
/-- QUOTA. -/
def fQuota (s : State) (f : Nat) : Nat := fblk s f 47 16

/-! ## Address ranges (R81) -/

/-- The end of the range of an entry. -/
def rangeEnd (e : Nat) : Nat := (bits e 51 16 + bits e 115 80) <<< 16

/-- The address-range entry that holds a physical address (R81). DESIGN CHOICE: of entries that overlap the lowest-numbered decides; R81 says that they must not and gives no outcome (log entry 67). -/
def rangeOf (s : State) (pa : Nat) : Option Nat :=
  (s.hub.ranges.map fun e => e.2.toNat).find? fun e =>
    bits e 0 0 == 1 && bits e 51 16 <<< 16 ≤ pa && pa < rangeEnd e

/-- The tier of a physical address by its range; HBM where none holds it. -/
def lineTier (s : State) (pa : Nat) : Nat := ((rangeOf s pa).map fun e => bits e 133 132).getD 0

/-! ## Reads of device memory (R371, R373, R375) -/

/-- The code of an uncorrectable error first met in a line of a tier, and of one met again (Table 22-6). -/
def errorCode (tier : Nat) (again : Bool) : Nat := if tier = 1 then 3 else if tier = 2 then 4 else if again then 6 else 1

/-- The code of the error that an access of a tier meets at a physical address: a CXL link that is down, or an uncorrected error of the line (Table 22-6). -/
def lineCode (s : State) (tier a : Nat) : Option Nat :=
  if tier = 2 ∧ s.hub.cxlDown then some 4
  else if a / 64 ∈ s.hub.scrubLines then none
  else if a / 64 ∈ s.hub.badLines then some (errorCode tier false)
  else if a / 64 ∈ s.hub.poison then some (errorCode tier true)
  else none

/-- The byte at a physical address; a line pending scrub reads zero (R371). -/
def devByte (s : State) (a : Nat) : Byte := if (a / 64) ∈ s.hub.scrubLines then 0 else Memory.byte s.mem a

/-- `n` bytes from a physical address. -/
def devRead (s : State) (a n : Nat) : List Byte := (List.range n).map fun i => devByte s (a + i)

/-- The number whose `n` bytes stand at a physical address. -/
def devNat (s : State) (a n : Nat) : Nat := ofLeBytes (devRead s a n)

/-- The code of the error that a read of the line of a physical address meets, by the range that holds it. -/
def lineBad (s : State) (a : Nat) : Option Nat := lineCode s (lineTier s a) a

/-- The page-table entry of a table page for index `i`. -/
def pteAt (s : State) (table i : Nat) : Nat := devNat s (table + 8 * i) 8

/-! ## Translation (R78 to R81, R361) -/

/-- A leaf of a page-table walk: page base, its size code, and the entry. -/
structure Leaf where
  base : Nat
  psz : Nat
  pte : Nat
deriving DecidableEq, Repr

/-- The outcome of a walk: a leaf, the code of Table 22-1 for a data access, or an uncorrected error in the table (R332): the code of Table 22-6 and the physical address. -/
inductive Walk where
  | ok (l : Leaf)
  | bad (code : Nat)
  | lost (code pa : Nat)
deriving DecidableEq, Repr

/-- The cause of a walk that failed for virtual address `va`; a fetch has codes of its own for the unmapped page and the reserve zone (Table 22-1). -/
def Walk.cause (fetch : Bool) (va : Nat) : Walk → Option Cause
  | .ok _ => none
  | .bad c => some { cls := 4, code := if fetch && decide (c ≤ 2) then c + 2 else c, addr := .ofNat 64 va }
  | .lost c pa => some { cls := 9, code := c, addr := .ofNat 64 pa }

/-- The cause of a walk that met an uncorrected error in the table (R332). -/
def Walk.lostCause : Walk → Option Cause
  | .lost c pa => some { cls := 9, code := c, addr := .ofNat 64 pa }
  | _ => none

/-- Valid entries whose OWNER names function `f` hold every address from `a` up to `z`; `fuel` bounds the entries met. -/
def rangeCovers (s : State) (f z : Nat) : Nat → Nat → Bool
  | 0, _ => false
  | fuel + 1, a => match rangeOf s a with
    | none => false
    | some e => (bits e 208 192).testBit f && (decide (z ≤ rangeEnd e) || rangeCovers s f z fuel (rangeEnd e))

/-- May function `f` be mapped at the `n` bytes from this physical address (CODE 0x0006 of Table 22-1)? -/
def rangeOk (s : State) (f pa : Nat) (n : Nat := 65536) : Bool := rangeCovers s f (pa + n) 16 pa

/-! ## Physical placement (R11, R82) -/

/-- The numbers of the bits of a listing that are set, ascending. -/
def listed (x w : Nat) : List Nat := (List.range w).filter x.testBit

/-- Where an HBM range places an address: stack, channel, and offset in that channel's share of the range. -/
structure HbmPlace where
  stack : Nat
  chan : Nat
  off : Nat
deriving DecidableEq, Repr

/-- The place of offset `o` of an HBM range by its entry (R82). -/
def placeIn (e o : Nat) : Option HbmPlace :=
  let g := bits e 131 128 + 8
  let ss := listed (bits e 159 144) 16
  let cs := listed (bits e 191 160) 32
  let u := o >>> g
  match ss[u % ss.length]?, cs[u / ss.length % cs.length]? with
  | some st, some ch => some ⟨st, ch, (u / (ss.length * cs.length)) <<< g + o % 2 ^ g⟩
  | _, _ => none

/-- The place of a physical address, where a valid HBM range holds it (R82). -/
def hbmPlace (s : State) (pa : Nat) : Option HbmPlace := match rangeOf s pa with
  | none => none
  | some e => if bits e 133 132 = 0 then placeIn e (pa - bits e 51 16 <<< 16) else none

/-- The compute die that an HBM stack stands on (R11). -/
def dieOfStack (stack : Nat) : Nat := stack / 4

/-- The source number of the controller of an HBM stack (R15, R16). -/
def srcHbm (stack : Nat) : Nat := 0x3000 + 16 * dieOfStack stack + 1 + stack % 4

/-- The channels of an HBM entry, as stack × 32 + channel. -/
def entryChans (e : Nat) : List Nat := (listed (bits e 159 144) 16).flatMap fun st => (listed (bits e 191 160) 32).map fun ch => st * 32 + ch

/-- Does a function have private channels: a range of its own whose channels no other valid range lists (R82)? -/
def privateChannels (s : State) (f : Nat) : Bool :=
  let es := (s.hub.ranges.map fun e => e.2.toNat).filter fun e => bits e 0 0 == 1 && bits e 133 132 == 0
  es.any fun e => bits e 208 192 == 2 ^ f && es.all fun d => d == e || (entryChans d).all fun x => !(entryChans e).contains x

/-- Page size in bytes of a size code (Table 4-5). -/
def pageBytes (psz : Nat) : Nat := if psz = 0 then 2 ^ 16 else if psz = 1 then 2 ^ 28 else 2 ^ 40

/-- Judge the entry at which a walk stands at level `l`; `none` when it points to a next table. -/
def judgePte (s : State) (f l e : Nat) : Option Walk :=
  let leaf := l == 3 || bits e 1 1 == 1
  let low := if l = 1 then bits e 39 16 else if l = 2 then bits e 27 16 else 0
  if bits e 0 0 = 0 then some (.bad (if leaf && bits e 6 6 == 1 then 2 else 1))
  else if bits e 15 7 ≠ 0 ∨ (l = 3 ∧ bits e 1 1 = 0) ∨ (leaf ∧ low ≠ 0) then some (.bad 5)
  else if leaf then
    let base := bits e 51 16 <<< 16
    if rangeOk s f base (pageBytes (3 - l)) then some (.ok ⟨base, if l = 3 then 0 else if l = 2 then 1 else 2, e⟩) else some (.bad 6)
  else none

/-- The entry of a table page for index `i`, as the walk judges it; an uncorrected error in its line ends the walk (R332). -/
def pteStep (s : State) (f l table i : Nat) : Nat × Option Walk :=
  match lineBad s (table + 8 * i) with
  | some c => (0, some (.lost c (table + 8 * i)))
  | none => (pteAt s table i, judgePte s f l (pteAt s table i))

/-- Walk the page table of function `f` for a virtual address of 52 bits (R78); a wider one is mapped nowhere (log entry 25). -/
def walk (s : State) (f va : Nat) : Walk :=
  if 2 ^ 52 ≤ va then .bad 1
  else match pteStep s f 1 (fblk s f 127 64) (bits va 51 40) with
  | (_, some r) => r
  | (e1, none) => match pteStep s f 2 (bits e1 51 16 <<< 16) (bits va 39 28) with
    | (_, some r) => r
    | (e2, none) => (pteStep s f 3 (bits e2 51 16 <<< 16) (bits va 27 16)).2.getD (.bad 5)

/-- The translated handle of a leaf (Table 4-5). -/
def handleOf (f : Nat) (l : Leaf) : BitVec 64 :=
  .ofNat 64 (1 + place (bits l.pte 2 2) 1 1 + place (bits l.pte 3 3) 2 1 + place l.psz 3 2 + place (bits l.pte 5 4) 5 2
    + place f 7 5 + place (l.base >>> 16) 16 36 + place (bits l.pte 63 52) 52 12)

/-- The physical address of a virtual address of function `f`, and whether its page allows writes. -/
def vphys (s : State) (f va : Nat) : Option (Nat × Bool) :=
  match walk s f va with
  | .ok l => some (l.base + va % pageBytes l.psz, bits l.pte 2 2 == 1)
  | _ => none

/-! ## Handles (Table 4-5) -/

/-- VALID of a handle. -/
def hValid (h : BitVec 64) : Bool := h.getLsbD 0
/-- W of a handle. -/
def hW (h : BitVec 64) : Bool := h.getLsbD 1
/-- RAT of a handle. -/
def hRat (h : BitVec 64) : Bool := h.getLsbD 2
/-- PSZ of a handle. -/
def hPsz (h : BitVec 64) : Nat := bits h.toNat 4 3
/-- TIER of a handle. -/
def hTier (h : BitVec 64) : Nat := bits h.toNat 6 5
/-- The bits of a handle that hold fields (R5, Table 4-5). -/
def hMask : BitVec 64 := ~~~0xF000
/-- Page base of a handle. -/
def hBase (h : BitVec 64) : Nat := bits h.toNat 51 16 <<< 16
/-- Page size of a handle. -/
def hBytes (h : BitVec 64) : Nat := pageBytes (hPsz h)

/-! ## Writes of device memory (R371) -/

/-- Zero the rest of a line pending scrub and clear its mark, before a write with fresh ECC merges onto it (R371). -/
def scrubFirst (line : Nat) (s : State) : State :=
  if line ∈ s.hub.scrubLines then
    { s with mem := Memory.zero s.mem (line * 64) 64,
             hub := { s.hub with scrubLines := s.hub.scrubLines.filter (· ≠ line), badLines := s.hub.badLines.filter (· ≠ line),
                                 poison := s.hub.poison.filter (· ≠ line) } }
  else s

/-- The byte that a write to a device whose link is down leaves at an address: undefined (R375, log entry 11). -/
def lostByte (s : State) (a : Nat) : Byte := Config.lostByte (s.fresh * 2 ^ 52 + a)

/-- A device keeps the byte that is written at a physical address: it is no flash, which FLAPP alone writes (R86), and no CXL memory whose link is down (R375). -/
def keepsByte (s : State) (a : Nat) : Bool := lineTier s a != 1 && !(lineTier s a == 2 && s.hub.cxlDown)

/-- Store one byte at a physical address. FLAPP alone writes flash (R86), and a CXL device whose link is down keeps an undefined byte (R375). -/
def devByteWrite (s : State) (a : Nat) (b : Byte) : State :=
  if lineTier s a = 1 then s
  else
    let b := if lineTier s a = 2 ∧ s.hub.cxlDown then lostByte s a else b
    let s := scrubFirst (a / 64) s
    { s with mem := Memory.setByte s.mem a b }

/-- Store cells in order. -/
def devStore (s : State) (l : List (Nat × Byte)) : State := l.foldl (fun s p => devByteWrite s p.1 p.2) s

/-- A write of the `n` bytes from a physical address covers a line whole, and its unit takes writes. -/
def covers (s : State) (a n line : Nat) : Bool := a ≤ 64 * line && 64 * line + 64 ≤ a + n && lineTier s (64 * line) != 1

/-- The lines that a write of `n` bytes covers whole lose their errors (R373). -/
def clearWhole (a n : Nat) (s : State) : State :=
  if (s.hub.badLines ++ s.hub.poison).any (covers s a n) then
    { s with hub := { s.hub with badLines := s.hub.badLines.filter fun l => !covers s a n l, poison := s.hub.poison.filter fun l => !covers s a n l } }
  else s

/-- Store bytes from a physical address. -/
def devWrite (s : State) (a : Nat) (bs : List Byte) : State := devStore (clearWhole a bs.length s) (Memory.cellsOf a bs)

/-- Store the low `n` bytes of a number. -/
def devPut (s : State) (a v n : Nat) : State := devWrite s a (leBytes v n)

/-- Cut `n` bytes at address `a` at the multiples of `u`; `fuel` exceeds the number of pieces. -/
def chunks (u : Nat) : Nat → Nat → Nat → List (Nat × Nat)
  | 0, _, _ => []
  | fuel + 1, a, n => if n = 0 then [] else let k := min n (u - a % u); (a, k) :: chunks u fuel (a + k) (n - k)

/-- The pieces of a run within lines of `u` bytes. -/
def lineChunks (u a n : Nat) : List (Nat × Nat) := chunks u (n / u + 2) a n

/-- Store pieces of lines, each with its bytes: a part of a line with an error is not stored, and the line stays as it is (R373). -/
def devPieces : List (Nat × Nat) → List Byte → State → State
  | [], _, s => s
  | (a, n) :: t, bs, s => devPieces t (bs.drop n) (if n = 64 ∨ (lineBad s a).isNone then devWrite s a (bs.take n) else s)

/-- Store bytes from a physical address, line by line. -/
def devMerge (a : Nat) (bs : List Byte) (s : State) : State := devPieces (lineChunks 64 a bs.length) bs s

/-- A line with an uncorrected error among the `n` bytes from a physical address. -/
def anyBad (s : State) (a n : Nat) : Bool := (List.range ((a + n - 1) / 64 + 1 - a / 64)).any fun i => (lineBad s (a + 64 * i)).isSome

/-- `n` bytes at a virtual address of function `f`, within one page; none where the page is not mapped or a line has an uncorrected error (R332; log entry 72). -/
def vread (s : State) (f va n : Nat) : Option Nat := match vphys s f va with
  | some p => if anyBad s p.1 n then none else some (devNat s p.1 n)
  | none => none

/-! ## Fault records (R325 to R330, R398) -/

/-- The 64-byte fault record of Table 20-1 without its SEQ. -/
def faultRecord (s : State) (src f : Nat) (pc : BitVec 64) (c : Cause) : Nat :=
  s.tick.toNat + place src 64 16 + place f 80 5 + place c.cls 88 8 + place c.code 96 16 + place pc.toNat 128 64
    + place c.slots 192 8 + place c.addr.toNat 256 64 + place c.info.toNat 352 32

/-- Does record `p` come after record `r`: the same TICK and a higher SRC (R330)? -/
def recAfter (p r : Nat) : Bool := bits p 63 0 == bits r 63 0 && bits r 79 64 < bits p 79 64

/-- A record with another SEQ. -/
def withSeq (r n : Nat) : Nat := bits r 319 0 + place n 320 32 + (r >>> 352) <<< 352

/-- Put a record into a queue, newest first, in the order of (TICK, SRC), numbering it `n` (R329, R330). -/
def recInsert (r : Nat) : Nat → List (BitVec 512) → List (BitVec 512)
  | n, p :: t => if recAfter p.toNat r then .ofNat 512 (withSeq p.toNat n) :: recInsert r (n - 1) t else .ofNat 512 (withSeq r n) :: p :: t
  | n, [] => [.ofNat 512 (withSeq r n)]

/-- Append a record to the fault queue of a die's supervisor, which numbers it and keeps the last `size` of them (R328 to R330). -/
def toSupervisor (die : Nat) (r : Nat) (s : State) : State :=
  let q := tget {} s.hub.supFaults die
  let q' : FaultQueue := { q with seq := q.seq + 1, recs := ((recInsert r q.seq q.recs.reverse).take q.size).reverse }
  { s with hub := { s.hub with supFaults := tput s.hub.supFaults die q' } }

/-- The die of a source: its own, and die 0 for a unit of the hub (R15, R328). -/
def dieOfSrc (src : Nat) : Nat :=
  let i := src % 4096
  match src / 4096 with
  | 0 => dieOf (i / 4)
  | 1 => dieOf (i / 8)
  | 2 => i / 8
  | 3 => i / 16
  | _ => 0

/-- The record that stands for one that could not be written (R398). DESIGN CHOICE: PC and SLOTS are 0, whatever source the lost one had; R398 gives neither (log entry 54). -/
def lostRecord (s : State) (src f : Nat) (w : Walk) (va what : Nat) : Nat :=
  let c := (w.cause false va).getD { cls := 5, code := 5 }
  faultRecord s src f 0 { c with addr := .ofNat 64 va, info := .ofNat 32 what }

/-- The page that a walk came to takes a record: W is set (R398). DEDUCED: a page of flash takes none, whatever its W (R86; log entry 74). -/
def takesRecord (s : State) (w : Walk) : Bool := match w with
  | .ok l => bits l.pte 2 2 == 1 && lineTier s l.base != 1
  | _ => false

/-- Write a record of 64 bytes through a function's page table; where that fails, the supervisor of `die` gets one in its place (R398). -/
def writeThrough (s : State) (f va r src die what : Nat) : State :=
  match walk s f va with
  | .ok l =>
    if takesRecord s (.ok l) then devPut s (l.base + va % pageBytes l.psz) r 64
    else toSupervisor die (lostRecord s src f (.ok l) va what) s
  | w => toSupervisor die (lostRecord s src f w va what) s

/-- The virtual address of record `n` of a function's fault queue (R329). -/
def fqAddr (s : State) (f n : Nat) : Nat := fblk s f 639 576 + 64 * (n % fblk s f 655 640)

/-- The records of a function's fault queue with the TICK of record `r`, newest first, each with the mark of a lost one (R330, R398). -/
def fqRecent (s : State) (f r : Nat) : List (Nat × Bool) :=
  ((tget [] s.hub.fqRecent f).map fun p => (p.1.toNat, p.2)).filter fun p => bits p.1 63 0 == bits r 63 0

/-- Those of them that must stand behind record `r`: with a higher SRC (R330). -/
def fqBehind (s : State) (f r : Nat) : List (Nat × Bool) := (fqRecent s f r).takeWhile fun p => recAfter p.1 r

/-- Write record `p` at number `n` of a function's fault queue, as a record of its own source (R329, R398). -/
def fqWrite (f n p : Nat) (s : State) : State :=
  writeThrough s f (fqAddr s f n) (withSeq p n) (bits p 79 64) (dieOfSrc (bits p 79 64)) 2

/-- Record `r` of a supervisor's queue stands for a record of source `src` of this tick that function `f`'s fault queue did not take at an address (R398). -/
def standsFor (s : State) (src f va : Nat) (r : Nat) : Bool :=
  bits r 63 0 == s.tick.toNat && bits r 79 64 == src && bits r 84 80 == f && bits r 319 256 == va % 2 ^ 64 && bits r 383 352 == 2

/-- Remove the first record that a test selects, and give those behind it the numbers before theirs. -/
def dropNumbered (test : Nat → Bool) : List (BitVec 512) → List (BitVec 512)
  | [] => []
  | r :: t => if test r.toNat then t.map fun x => .ofNat 512 (withSeq x.toNat (bits x.toNat 351 320 - 1)) else r :: dropNumbered test t

/-- The record that stands for a lost one goes, as the lost one has come to its place after all. -/
def dropStandIn (die : Nat) (test : Nat → Bool) (s : State) : State :=
  let q := tget {} s.hub.supFaults die
  if q.recs.any fun r => test r.toNat then
    { s with hub := { s.hub with supFaults := tput s.hub.supFaults die { q with seq := q.seq - 1, recs := dropNumbered test q.recs } } }
  else s

/-- The record that stands for a lost one names the address and the cause of its new place. -/
def moveStandIn (die : Nat) (test : Nat → Bool) (r : Nat) (s : State) : State :=
  let q := tget {} s.hub.supFaults die
  let q' : FaultQueue := { q with recs := q.recs.map fun x => if test x.toNat then .ofNat 512 (withSeq r (bits x.toNat 351 320)) else x }
  { s with hub := { s.hub with supFaults := tput s.hub.supFaults die q' } }

/-- A record takes number `n`, its mark after it. One that was lost at the number before is written where this place takes it, and the record that stands for it goes; else that one names this place (R398; log entry 54). -/
def fqMove (f n : Nat) (p : Nat × Bool) (s : State) : State × (Nat × Bool) :=
  let src := bits p.1 79 64
  let va := fqAddr s f n
  let w := walk s f va
  let stands := standsFor s src f (fqAddr s f (n - 1))
  if !p.2 then (fqWrite f n p.1 s, (p.1, !takesRecord s w))
  else if takesRecord s w then (fqWrite f n p.1 (dropStandIn (dieOfSrc src) stands s), (p.1, false))
  else (moveStandIn (dieOfSrc src) stands (lostRecord s src f w va 2) s, p)

/-- The records take the numbers from `n` down. -/
def fqMoveDown (f : Nat) : Nat → List (Nat × Bool) → State → State × List (Nat × Bool)
  | _, [], s => (s, [])
  | n, p :: t, s =>
    let a := fqMove f n p s
    let b := fqMoveDown f (n - 1) t a.1
    (b.1, a.2 :: b.2)

/-- Put record `r`, the one with number `n`, into a function's fault queue in the order of (TICK, SRC) (R330): the state, and the records from `r` on with their marks, newest first. Where as many records as the queue holds must stand behind it, they have overwritten it (R329). -/
def fqPut (f n r : Nat) (s : State) : State × List (Nat × Bool) :=
  let l := fqBehind s f r
  let m := fqMoveDown f n (l.take (fblk s f 655 640)) s
  let a := if l.length < fblk s f 655 640 ∨ l = [] then fqMove f (n - l.length) (r, false) m.1 else (m.1, (r, false))
  (a.1, m.2 ++ l.drop (fblk s f 655 640) ++ [a.2])

/-- Write a record to the function's fault queue (R328 to R330), counted in SEQ either way (R398). -/
def toFunction (f : Nat) (r : Nat) (s : State) : State :=
  let n := tget 0 s.hub.fqSeq f
  let x := fqPut f n r s
  let l := x.2 ++ (fqRecent s f r).drop (fqBehind s f r).length
  { x.1 with hub := { x.1.hub with fqSeq := tput x.1.hub.fqSeq f (n + 1), fqRecent := tput x.1.hub.fqRecent f (l.map fun p => (.ofNat 512 p.1, p.2)) } }

/-- Report a fault of source `src` of function `f`: one record to the function's queue, one to the supervisor's queue of the die (R328). -/
def report (src f die : Nat) (pc : BitVec 64) (c : Cause) (s : State) : State :=
  let r := faultRecord s src f pc c
  toSupervisor die r (toFunction f r s)

/-- A fault of any context, in focus or not (R325, R328). -/
def faultAt (c k : Nat) (e : Cause) (s : State) : State :=
  let x := getCtx s c k
  modCtx c k (fun x => { x with frozen := some e, block := none }) (report (srcCtx c k) x.func.toNat (dieOf c) x.pc e s)

/-- TAKE A FAULT (R325, R328): the running context freezes with the cause, its results in flight stay, and the records are written; nothing of the bundle commits. -/
def takeFault (c : Cause) (s : State) : State :=
  let s' := report (srcCtx s.coreId s.ctxId) s.ctx.func.toNat (dieOf s.coreId) s.ctx.pc c s
  { s' with ctx := { s'.ctx with frozen := some c, block := none } }

/-- RETURN FROM A FAULT (R326): the context thaws and rejoins the order of its core (R105), and its faulting bundle issues again from its first syllable, before which no pre-emption takes it (R384). -/
def resumeCtx (c : Context) : Context := { c with frozen := none, block := some .thawed, retrying := true }

/-- The bundle does not issue, for the reason given (R105); a YIELD blocks once (R213), and a barrier notes the cycle of its arrival (R113). -/
def blockOn (b : Block) (s : State) : State :=
  { s with ctx := { s.ctx with
      block := some b
      yielded := s.ctx.yielded || b == .yield
      arrivedAt := (match b with
        | .bar _ | .step _ | .sync => if s.ctx.block = some b then s.ctx.arrivedAt else s.cycle
        | _ => s.ctx.arrivedAt) } }

/-! ## Issuing an operation -/

/-- The place of a class in the order of R339. -/
def classRank (c : Nat) : Nat := if c = 4 then 0 else if c = 1 then 1 else if c = 3 then 2 else if c = 2 then 10 else c

/-- The place of a cause among those of one slot (R339). -/
def codeRank (c : Cause) : Nat :=
  if c.cls = 1 then
    (if c.code = 7 then 0 else if c.code = 1 then 1 else if c.code = 3 then 2 else if c.code = 2 then 3
      else if c.code = 8 then 0x20 else if c.code = 9 then 0x21 else c.code)
  else c.code

/-- Does cause `a` come before cause `b` in one slot (R339)? -/
def Cause.before (a b : Cause) : Bool :=
  classRank a.cls < classRank b.cls || (classRank a.cls == classRank b.cls && codeRank a < codeRank b)

/-- The first cause in the order of R339. DESIGN CHOICE: of two of one CODE in one slot, which R339 does not order, the first of the instruction's own list (log entry 24). -/
def bestCause : List Cause → Option Cause
  | [] => none
  | c :: t => match bestCause t with
    | none => some c
    | some d => if d.before c then some d else some c

/-- A check: no cause where it holds. -/
def chk (ok : Bool) (cls code : Nat) (addr : BitVec 64) (info : Nat := 0) : List Cause :=
  if ok then [] else [{ cls := cls, code := code, addr := addr, info := .ofNat 32 info }]

/-- A wait that stands until the condition holds (R105). -/
def await (ok : Bool) (b : Block) : List Block := if ok then [] else [b]

/-- The collisions of new results with results in flight (R349). -/
def clashes (c : Context) (fs : List Flight) : List Cause := (collision c.flights fs).toList

/-- Issue an operation of a slot: a guard that does not hold gives no effect (R162), a wait blocks the bundle (R105), a failed check faults it with the slot's bit in SLOTS (R325, R339), else the effect. -/
def issueOp (slot : Nat) (guard : Bool) (waits : List Block) (causes : List Cause) (effect : State → State) (s : State) : Result :=
  if guard then
    match waits with
    | b :: _ => .next (blockOn b s)
    | [] => match bestCause causes with
      | some c => .next (takeFault { c with slots := 1 <<< slot } s)
      | none => .next (effect s)
  else .next s

/-- Issue an operation that changes only the running context. -/
def issueCtx (slot : Nat) (guard : Bool) (waits : List Block) (causes : List Cause) (effect : Context → Context) (s : State) : Result :=
  issueOp slot guard waits causes (fun s => { s with ctx := effect s.ctx }) s

/-- Issue an operation that changes only the running context and its core. -/
def issueLocal (slot : Nat) (guard : Bool) (waits : List Block) (causes : List Cause)
    (effect : Context × Core → Context × Core) (s : State) : Result :=
  issueOp slot guard waits causes
    (fun s => { s with ctx := (effect (s.ctx, s.core)).1, core := (effect (s.ctx, s.core)).2 }) s

/-- Issue an operation that waits for nothing and whose only effect is results in flight: they must not collide (R349). -/
def issueFlights (slot : Nat) (guard : Bool) (causes : List Cause) (fs : List Flight) (s : State) : Result :=
  issueCtx slot guard [] (causes ++ clashes s.ctx fs) (fun c => c.fly fs) s

/-- A step of the part whose condition does not hold does not happen. -/
def when (cond : Bool) (effect : State → State) (s : State) : Result := .next (if cond then effect s else s)

/-- A step named for a core and context (R9). -/
def atCtx (c k : Nat) (f : State → Result) (s : State) : Result := if isCore c && k < 4 then f s else .fault .absentAgent

/-- A step named for a core. -/
def atCore (c : Nat) (f : State → Result) (s : State) : Result := if isCore c then f s else .fault .absentAgent

end Sys2Proof.Machine
end

