-- ==== Sys2Proof/Machine/Flags.lean ====
section
/-! DEFINITION. The sticky flags of STATUS (Table 8-6, R38) and the draw counter. -/

namespace Sys2Proof.Machine

/-- Flag numbers of STATUS (Table 8-6). -/
def fSATUR : Nat := 0
/-- UNENC. -/
def fUNENC : Nat := 1
/-- PDEP. -/
def fPDEP : Nat := 2
/-- PFRNG. -/
def fPFRNG : Nat := 3
/-- FDOWN. -/
def fFDOWN : Nat := 4
/-- DIVZ. -/
def fDIVZ : Nat := 5
/-- NACK. -/
def fNACK : Nat := 6
/-- RWRAP. -/
def fRWRAP : Nat := 7

/-- Set flag `i` where `b` holds; a flag never falls by itself (R38). -/
def Context.flag (c : Context) (i : Nat) (b : Bool) : Context :=
  if b then { c with status := c.status ||| (1 <<< i) } else c

/-- Write STATUS: each 1 clears its flag (W1C of Table 0-2, R174). -/
def Context.clearFlags (c : Context) (v : BitVec 64) : Context := { c with status := c.status &&& ~~~v.setWidth 8 }

/-- An SWR of RCNT stands in flight for the end of this bundle, so advances are discarded (R174). -/
def Context.rcntWritten (c : Context) : Bool := c.flights.any fun f => f.dest == .spec 3 && f.cnt == 1

/-- RCNT advances by one, and RWRAP is set where it wraps (R232). -/
def Context.advanceRcnt (c : Context) : Context :=
  ({ c with rcnt := c.rcnt + 1 } : Context).flag fRWRAP (c.rcnt == 0xFFFFFFFF && !c.rcntWritten)

/-- The word of the counter-based generator (R232): section `sec`, lane `l`, count `n`. -/
def drawWord (seed : BitVec 64) (n : BitVec 32) (core sec l : Nat) : BitVec 64 :=
  let z := seed ^^^ ((n.setWidth 64 <<< 32) ||| (BitVec.ofNat 64 core <<< 8) ||| (BitVec.ofNat 64 sec <<< 4) ||| BitVec.ofNat 64 l)
  let z := (z ^^^ (z >>> 30)) * 0xBF58476D1CE4E5B9
  let z := (z ^^^ (z >>> 27)) * 0x94D049BB133111EB
  z ^^^ (z >>> 31)

/-- The draw u of a lane (R232). -/
def draw (seed : BitVec 64) (n : BitVec 32) (core sec l : Nat) : Nat := ((drawWord seed n core sec l) >>> 49).toNat

/-- The second draw of a lane, for elements 16 and up of VCVT.sr (R223). -/
def draw2 (seed : BitVec 64) (n : BitVec 32) (core sec l : Nat) : Nat := ((drawWord seed n core sec l) >>> 34).toNat % 32768

end Sys2Proof.Machine
end

