-- ==== Sys2Proof/Machine/Operands.lean ====
section
/-! DEFINITION. Operand forms: rings, addresses, shape words, bindings, ownership, and the conditions that operands wait for. -/

namespace Sys2Proof.Machine

/-! ## Ring handles (Table 4-3) -/

/-- The bits of a ring handle that hold fields (R5, Table 4-3). -/
def qMask : BitVec 128 := ~~~((BitVec.allOnes 15).setWidth 128 <<< 48)

/-- VALID. -/
def qValid (q : BitVec 128) : Bool := q.getLsbD 63
/-- Byte offset of slot 0. -/
def qBase (q : BitVec 128) : Nat := bits q.toNat 16 0 * 64
/-- SPACE: true for the cluster window. -/
def qWin (q : BitVec 128) : Bool := q.getLsbD 17
/-- Slot size in bytes. -/
def qSize (q : BitVec 128) : Nat := 2 ^ (bits q.toNat 21 18 + 6)
/-- NSLOT. -/
def qN (q : BitVec 128) : Nat := bits q.toNat 29 22 + 1
/-- REMOTE. -/
def qRemote (q : BitVec 128) : Bool := q.getLsbD 30
/-- ROLE: true for a producer end. -/
def qProducer (q : BitVec 128) : Bool := q.getLsbD 31
/-- LINK. -/
def qLink (q : BitVec 128) : Nat := bits q.toNat 47 32
/-- PROD. -/
def qProd (q : BitVec 128) : Nat := bits q.toNat 95 64
/-- CONS. -/
def qCons (q : BitVec 128) : Nat := bits q.toNat 127 96
/-- AVAIL (R75). -/
def qAvail (q : BitVec 128) : Nat := (qProd q + 2 ^ 32 - qCons q) % 2 ^ 32
/-- FREE (R75). AVAIL lies below 0 where the slot return of a send has come before its accept: a difference of counts is taken modulo 2^32 (R309). -/
def qFree (q : BitVec 128) : Nat := if qAvail q < 2 ^ 31 then qN q - qAvail q else qN q + (2 ^ 32 - qAvail q)
/-- Byte offset of the slot that count `n` names: slot `n` mod NSLOT, exactly (R6, R75). -/
def qSlot (q : BitVec 128) (n : Nat) : Nat := qBase q + n % qN q * qSize q
/-- The handle with PROD advanced by `n`, modulo 2^32. -/
def qAdvProd (q : BitVec 128) (n : Nat) : BitVec 128 :=
  BitVec.ofNat 32 (qCons q) ++ BitVec.ofNat 32 (qProd q + n) ++ q.extractLsb' 0 64
/-- The handle with CONS advanced by `n`, modulo 2^32. -/
def qAdvCons (q : BitVec 128) (n : Nat) : BitVec 128 :=
  BitVec.ofNat 32 (qCons q + n) ++ BitVec.ofNat 32 (qProd q) ++ q.extractLsb' 0 64
/-- A valid local ring. -/
def qLocal (q : BitVec 128) : Bool := qValid q && !qRemote q
/-- A ring that a consumer operand may name: local, or a consumer end. -/
def qConsumer (q : BitVec 128) : Bool := qValid q && !(qRemote q && qProducer q)

/-! ## Spaces (R65, R68) -/

/-- Bytes of a space: the private scratchpad, or the cluster window, which a supervisor core lacks (R10). -/
def spaceBytes (c : Nat) (win : Bool) : Nat := if win then (if isSupCore c then 0 else 0x800000) else 0x400000

/-- The member core of the cluster that holds a window offset (R68). -/
def winCore (c x : Nat) : Nat := 4 * (c / 4) + (x >>> 7) % 4

/-- The shared-part offset of a window offset (R68). -/
def winOff (x : Nat) : Nat := ((x >>> 9) <<< 7) ||| (x % 128)

/-- The byte at a window offset, as core `c` sees it. -/
def winByte (s : State) (c x : Nat) : Byte := Memory.byte (getCore s (winCore c x)).shared (winOff x)

/-- Store a byte at a window offset of core `c`'s cluster. -/
def winSet (c x : Nat) (b : Byte) (s : State) : State :=
  modCore (winCore c x) (fun co => { co with shared := Memory.setByte co.shared (winOff x) b }) s

/-- The byte at an offset of a space of core `c`. -/
def localByte (s : State) (c : Nat) (win : Bool) (x : Nat) : Byte :=
  if win then winByte s c x else Memory.byte (getCore s c).scratch x

/-- Bytes at consecutive offsets of a space of core `c`. -/
def localRead (s : State) (c : Nat) (win : Bool) (x n : Nat) : List Byte := (List.range n).map fun i => localByte s c win (x + i)

/-- A number of `n` bytes in the private scratchpad of core `c`. -/
def privNat (s : State) (c x n : Nat) : Nat := ofLeBytes (localRead s c false x n)

/-- Store cells in a space of core `c`. -/
def localStore (c : Nat) (win : Bool) (l : List (Nat × Byte)) (s : State) : State :=
  if win then l.foldl (fun s p => winSet c p.1 p.2 s) s
  else modCore c (fun co => { co with scratch := Memory.store co.scratch l }) s

/-- The effective address of an LD or ST operation (R243). -/
def effAddr (o : LS) (c : Context) : Nat := (c.G o.gb.toNat + o.off.signExtend 64).toNat

/-- Is the space the cluster window (R169)? -/
def lsWin (o : LS) : Bool := o.space == 1

/-- The bank of an offset, private or window (R66, R69). -/
def bankOf (x : Nat) : Nat := (x >>> 4) % 32

/-- The first offset of a list of byte runs that lies outside a space: each run is an offset and a length. -/
def firstOutside (limit : Nat) (runs : List (Nat × Nat)) : Option Nat :=
  (runs.find? fun r => limit < r.1 + r.2).map fun r => max r.1 limit

/-- Every run lies in the space (CODE 0x0001 of CLASS 0x05). -/
def inSpace (limit : Nat) (runs : List (Nat × Nat)) : List Cause :=
  match firstOutside limit runs with
  | none => []
  | some a => [{ cls := 5, code := 1, addr := .ofNat 64 a }]

/-- Scan words in order: the first whose bank already holds another word of the operation (R350). `l` holds the position and offset of each word. -/
def bankScan : List (Nat × Nat) → List (Nat × Nat) → Option (Nat × Nat)
  | _, [] => none
  | seen, (j, x) :: t =>
    match seen.find? fun p => p.1 == bankOf x with
    | some p => if p.2 = x >>> 4 then bankScan seen t else some (j, x)
    | none => bankScan ((bankOf x, x >>> 4) :: seen) t

/-- The words of one operation lie in distinct banks (R66, CODE 0x0002 of CLASS 0x02). -/
def banks (l : List (Nat × Nat)) : List Cause :=
  match bankScan [] l with
  | none => []
  | some (j, x) => [{ cls := 2, code := 2, addr := .ofNat 64 (x / 16 * 16), info := .ofNat 32 (bankOf x + 256 * j) }]

/-! ## Shape words (Table 8-8) -/

/-- ROWS. -/
def shRows (w : BitVec 64) : Nat := bits w.toNat 8 0 + 1
/-- COLS. -/
def shCols (w : BitVec 64) : Nat := bits w.toNat 17 9 + 1
/-- FMT. -/
def shFmt (w : BitVec 64) : Nat := bits w.toNat 21 18
/-- TR. -/
def shTr (w : BitVec 64) : Bool := w.getLsbD 22
/-- Element size in bytes. -/
def shZ (w : BitVec 64) : Nat := Encoding.fmtWidth (shFmt w) / 8
/-- Bytes of the tile's image. -/
def shBytes (w : BitVec 64) : Nat := shRows w * shCols w * shZ w

/-- The shape word of a tile of the core. -/
def Core.shape (k : Core) (t : Nat) : BitVec 64 := tget 0 k.shapes t

/-! ## Bindings (Table 3-3) -/

/-- VALID of a binding. -/
def bValid (b : BitVec 64) : Bool := b.getLsbD 49
/-- w. -/
def bW (b : BitVec 64) : Nat := 2 * (bits b.toNat 33 32 + 1)
/-- d. -/
def bD (b : BitVec 64) : Nat := 2 ^ bits b.toNat 35 34
/-- K. -/
def bK (b : BitVec 64) : Nat := 2 ^ bW b
/-- EFMT. -/
def bFmt (b : BitVec 64) : Nat := bits b.toNat 39 36
/-- SCALE. -/
def bScale (b : BitVec 64) : Nat := bits b.toNat 47 40
/-- Private offset of the codeword array. -/
def bBase (b : BitVec 64) : Nat := bits b.toNat 63 50 * 256
/-- CBID. -/
def bId (b : BitVec 64) : Nat := bits b.toNat 15 0
/-- VER. -/
def bVer (b : BitVec 64) : Nat := bits b.toNat 31 16
/-- FLOAT. -/
def bFloat (b : BitVec 64) : Bool := b.getLsbD 48
/-- Element size in bytes of a codebook format. -/
def cbZ (fmt : Nat) : Nat := if fmt = 9 ∨ fmt = 10 then 2 else 1
/-- Bytes of a binding's codeword array (R42). -/
def bBytes (b : BitVec 64) : Nat := bK b * bD b * cbZ (bFmt b)

/-! ## Ownership (Table 6-1, R354) -/

/-- The context that owns a tile. -/
def tileOwner (k : Core) (t : Nat) : Nat := bits k.tshare.toNat (2 * t + 1) (2 * t)
/-- The context that owns an accumulator. -/
def accOwner (k : Core) (a : Nat) : Nat := bits k.tshare.toNat (33 + 2 * a) (32 + 2 * a)

/-- The running context owns the tile. -/
def ownsTile (s : State) (t : Nat) : List Cause :=
  chk (tileOwner s.core t == s.ctxId) 3 4 (matWord false t) (bits s.core.tshare.toNat 31 0)
/-- The running context owns the accumulator. -/
def ownsAcc (s : State) (a : Nat) : List Cause :=
  chk (accOwner s.core a == s.ctxId) 3 4 (matWord true a) (bits s.core.tshare.toNat 31 0)

/-- The number by which records name the engine of a command (R15, R16): a slot return is the copy engine's, as a record about one names it (R392). -/
def Cmd.unit (m : Cmd) : Nat := if m.op = .slotReturn then 0 else m.eng

/-! ## The matrix queue's registers (R278, R281) -/

/-- The accumulators of a result of M rows and N columns at base `a` (R281). -/
def quad (a m n : Nat) : List Nat := if 256 < m ∨ 256 < n then [a, a + 1, a + 2, a + 3] else [a]

/-- Rows of the result of an entry. -/
def MEntry.m (e : MEntry) : Nat := match e.op with
  | .mlut => shRows e.sb
  | _ => shRows e.sa
/-- Columns of the result of an entry. -/
def MEntry.n (e : MEntry) : Nat := match e.op with
  | .mop => shCols e.sb
  | .mlut => shCols e.sa
  | .mlut2 => shRows e.sb
  | _ => shCols e.sa

/-- Tiles that a queued operation writes (R278). -/
def MEntry.tilesW (e : MEntry) : List Nat := match e.op with
  | .ldt | .mpart | .mopt => [e.ta]
  | _ => []
/-- Accumulators that a queued operation writes (R278). -/
def MEntry.accsW (e : MEntry) : List Nat := match e.op with
  | .mzero | .mwr => [e.acc]
  | .mop | .mlut => quad e.acc e.m e.n
  | .mlut2 => e.aux :: quad e.acc e.m e.n
  | _ => []

/-- Does the operation make an MF transfer (Table 7-2)? -/
def MEntry.mf (e : MEntry) : Bool := match e.op with
  | .mopt | .mxfer => true
  | .ldt => e.qin.isSome
  | _ => false

/-! ## Engine queues (R255) -/

/-- Capacity of an engine queue and of the matrix queue (R255, R277). -/
def queueCap : Nat := 16

/-- Commands that stand in the queue of engine `e`. -/
def queuedCmds (co : Core) (e : Nat) : Nat := co.cmds.countP fun m => m.eng == e && m.phase == .queued

/-- Commands on ring `q` of context `k` that have not advanced it. -/
def ringCmds (co : Core) (k q : Nat) : List Cmd := co.cmds.filter fun m => m.ctx == k && m.ring == some q && !m.dropped

/-! ## Deferred engine faults (R379) -/

/-- The cause of a suspended command. -/
def Cmd.cause (m : Cmd) : Option Cause := match m.phase with
  | .suspended c => some c
  | _ => none

/-- Completions of ring `q` of context `k` still to come from commands and matrix operations issued before identity `id`. -/
def comingBefore (co : Core) (k q id : Nat) : Nat :=
  (ringCmds co k q).countP (fun x => x.id < id) + co.mqueue.countP fun e => e.ctx == k && e.qout == some q && e.id < id

/-- How many completions ring `q` of context `k` can still reach, and the suspended command that stops it. -/
def ringStop (co : Core) (k q : Nat) : Option (Nat × Cmd) :=
  ((ringCmds co k q).find? fun m => m.cause.isSome).map fun m => (comingBefore co k q m.id, m)

/-- The cause that a waiting bundle of context `k` takes from a suspended command (R379). -/
def deferredCause (m : Cmd) (q : Nat) : Cause :=
  let c := (m.cause).getD { cls := 7, code := 4 }
  { cls := c.cls, code := c.code, addr := m.pc, info := .ofNat 32 (m.unit + 16 * q + 256) }

/-- The cause for a bundle that needs `n` more completions of ring `q` than have come: beyond the first command on it that was suspended or discarded (R379, R380). A suspended one behind a discarded one decides nothing: the ring stands before it. A ring that ADV.prod or a reply has taken past the discarded one's count can reach no further. -/
def ringFault (s : State) (q n : Nat) : List Cause :=
  let h := s.ctx.Q q
  let stop := ringStop s.core s.ctxId q
  match s.ctx.dropped.find? fun d => d.ring == q && stop.all fun p => decide (d.id < p.2.id) with
  | some d =>
    let left := (d.top + 2 ^ 32 - qProd h) % 2 ^ 32
    if (if left < 2 ^ 31 then left else 0) < n then [{ cls := 7, code := 4, addr := d.pc, info := .ofNat 32 (d.eng + 16 * q + 256) }] else []
  | none => match stop with
    | some (b, m) => if b < n then [deferredCause m q] else []
    | none => []

/-! ## What a ring shows to either side (R140, R269) -/

/-- Has the access of this identity performed? -/
def performed (co : Core) (id : Nat) : Bool :=
  (co.cmds.all fun m => m.id != id || m.phase == .done) && (co.mqueue.all fun e => e.id != id) && (co.window.all fun a => a.id != id)

/-- Has the access of this identity performed, its accesses of path FB aside: a send on its way has nothing else left (R133, R138)? -/
def nearDone (co : Core) (id : Nat) : Bool :=
  (co.cmds.all fun m => m.id != id || m.phase == .done || m.phase == .sent) && (co.mqueue.all fun e => e.id != id) && (co.window.all fun a => a.id != id)

/-- Has a command still to read its sources? -/
def Cmd.reading (m : Cmd) : Bool := m.phase != .done && m.phase != .sent

/-- Has a matrix operation still to read its operands from a scratchpad? -/
def MEntry.reading (e : MEntry) : Bool := if e.op = .ldt then e.data.isNone else e.res.isNone

/-- Has the read of this identity completed, outside the LD and ST slots? -/
def feedDone (co : Core) (id : Nat) : Bool := (co.cmds.all fun m => m.id != id || !m.reading) && co.mqueue.all fun e => e.id != id || !e.reading

/-- Has the read of this identity completed? -/
def readDone (co : Core) (id : Nat) : Bool := feedDone co id && co.window.all fun a => a.id != id

/-- The count of ring `q` from which on a list of holds still keeps slots back, `done` telling which accesses no longer do. -/
def heldFrom (l : List RingHold) (done : Nat → Bool) (q : Nat) : Option Nat := (l.find? fun h => h.ring == q && !h.ids.all done).map (·.first)

/-- AVAIL of ring `q` as a consumer sees it: no slot behind an ADV.prod whose earlier writes, of the paths that filled it, have not all performed (R140). -/
def seenAvail (co : Core) (x : Context) (q : Nat) : Nat := match heldFrom x.hidden (performed co) q with
  | some n => let d := (n + 2 ^ 32 - qCons (x.Q q)) % 2 ^ 32; if d < 2 ^ 31 then d else 0
  | none => qAvail (x.Q q)

/-- Slots of ring `q` that an ADV.cons has released and whose reads, of those that `done` tells, have not all completed (R140). -/
def unreleased (x : Context) (done : Nat → Bool) (q : Nat) : Nat := match heldFrom x.held done q with
  | some n => (qCons (x.Q q) + 2 ^ 32 - n) % 2 ^ 32
  | none => 0

/-- FREE of ring `q` as an engine, the supervisor or a slot return counts it (R140, R269). -/
def producerFree (co : Core) (x : Context) (q : Nat) : Nat := qFree (x.Q q) - unreleased x (readDone co) q

/-- FREE of ring `q` as STQ counts it: LD-slot reads come before it in the order of the slots (R136, R269), feeds and commands do not (R140). -/
def storeFree (co : Core) (x : Context) (q : Nat) : Nat := qFree (x.Q q) - unreleased x (feedDone co) q

/-- The wait of a consumer operand with slot index `k` (R75, R140), and the fault that stands in its place (R379). -/
def consumerWait (s : State) (q k : Nat) : List Block × List Cause :=
  let a := qAvail (s.ctx.Q q)
  if k + 1 ≤ seenAvail s.core s.ctx q then ([], [])
  else if k + 1 ≤ a then ([.ring q k false], [])
  else match ringFault s q (k + 1 - a) with
    | [] => ([.ring q k false], [])
    | l => ([], l)

/-! ## Events and readiness (R105, R120) -/

/-- Is a wait on a counter met (R120)? -/
def eventMet (cnt thr : BitVec 16) : Bool := (cnt - thr).toNat < 2 ^ 15

/-- Counter `i` of function `f`. -/
def counter (s : State) (f i : Nat) : BitVec 16 := tget 0 s.hub.counters (f * 4096 + i)

/-- The translation cache holds the page of a virtual address (R79): a 64 KiB, 256 MiB or 1 TiB page. -/
def tlbFind (co : Core) (f va : Nat) : Option TlbEnt :=
  co.tlb.find? fun e => e.func == f && e.page * 65536 ≤ va && va < e.page * 65536 + hBytes e.handle

/-- A syllable present in the instruction cache (R161). -/
def icSyll (co : Core) (f va : Nat) : Option Word :=
  (co.icache.find? fun l => l.1 == f && l.2.1 == va / 64).map fun l => l.2.2.extractLsb' (va % 64 * 8) 64

/-- The bundle at a virtual address as the instruction cache of the core holds it (R160, R346). -/
def bundleAt (co : Core) (f : Nat) (pc : BitVec 64) : Template := readBundle fun j => icSyll co f (pc + 8 * BitVec.ofNat 64 j).toNat

/-- The length in bytes of the bundle at an address, once all of it is in the instruction cache. -/
def bundleLen (co : Core) (f : Nat) (pc : BitVec 64) : Option Nat := match bundleAt co f pc with
  | .whole l => some (8 * l.length)
  | .broken _ p => some (8 * (p + 1))
  | .missing _ => none

/-- The first syllable of the bundle at an address that the instruction cache does not hold. -/
def bundleMiss (co : Core) (f : Nat) (pc : BitVec 64) : Nat := match bundleAt co f pc with
  | .missing p => (pc + 8 * BitVec.ofNat 64 p).toNat
  | _ => pc.toNat

/-- The barrier group of a context, as a key of the function's groups; 0 none. -/
def groupOf (x : Context) : Nat := bits x.domain.toNat 17 12

/-- Is the barrier group of a context broken (R387)? -/
def groupBroken (s : State) (x : Context) : Bool := groupOf x != 0 && s.hub.bgBroken.contains (x.func.toNat * 64 + groupOf x)

/-- A suspended command of context `k`, which nothing of the context can pass (R379). -/
def suspendedOf (co : Core) (k : Nat) : Option Cmd := co.cmds.find? fun m => m.ctx == k && m.cause.isSome

/-- Does the condition that blocks context `k` of core `c` still stand (R105)? -/
def blockHolds (s : State) (c k : Nat) (b : Block) : Bool :=
  let x := getCtx s c k
  let co := getCore s c
  match b with
  | .ring q i pr =>
    if pr then storeFree co x q ≤ i
    else seenAvail co x q ≤ i && (decide (i < qAvail (x.Q q)) || ((ringStop co k q).isNone && x.dropped.all fun d => d.ring != q))
  | .engine e => queueCap ≤ queuedCmds co e
  | .matrix => queueCap ≤ co.mqueue.length
  | .pair (some e) => queueCap < queuedCmds co e + 2
  | .pair none => queueCap < co.mqueue.length + 2
  | .event i t => !eventMet (counter s x.func.toNat i) t
  | .tick t => s.tick < t
  | .bar l | .step l => x.release != .here && !(decide (4 ≤ l) && groupBroken s x) && (suspendedOf co k).isNone
  | .sync => x.release != .here && (suspendedOf co k).isNone
  | .xlat va => (tlbFind co x.func.toNat va).isNone
  | .icache va => (icSyll co x.func.toNat va).isNone
  | .mwait acc r => co.mqueue.any fun e => e.ctx == k && (if acc then e.accsW else e.tilesW).contains r
  | .settle a => !(tget {} co.peaks a).pend.isEmpty
  | .yield => false
  | .team => true
  | .thawed => false

/-- Ready (R105): dispatched, not retired, not frozen, not blocked; one that is being saved has been taken (R130). -/
def ready (s : State) (c k : Nat) : Bool :=
  let x := getCtx s c k
  x.life == .running && x.frozen.isNone && !x.saving && (match x.block with
    | none => true
    | some b => !blockHolds s c k b)

/-- The order in which a core looks for a ready context after the running one (R105). -/
def switchOrder (k : Nat) : List Nat := [(k + 1) % 4, (k + 2) % 4, (k + 3) % 4]

/-- Another context of the core in focus is ready. -/
def otherReady (s : State) : Bool := (switchOrder s.ctxId).any fun k => ready s s.coreId k

/-- The task of a number. -/
def taskOf (s : State) (t : Nat) : Option TaskSt := s.hub.tasks.find? fun x => x.id == t

/-- Is the running context a member of a team (R107)? -/
def inTeam (s : State) : Bool := match taskOf s s.ctx.task with
  | some t => t.team
  | none => false

/-! ## Ids of outstanding accesses (R138, R139, R271) -/

/-- The class bit of the commands of an engine (Table 7-2): 1 CP, 2 EN; message and barrier commands have none. -/
def engineClass (e : Nat) : Option Nat := match e with
  | 0 | 2 | 3 => some 1
  | 1 => some 2
  | _ => none

/-- The class bit of an engine command. -/
def Cmd.cls (m : Cmd) : Option Nat := engineClass m.eng

/-- Identities of the accesses of context `k` in the classes `a` that have not performed (R138): of LS those of the cluster window, which perform on a later cycle (R69); the others perform as they issue (R135). A CPYW whose data is on its way has only its access of path FB left, which is of no class (R133). -/
def outstanding (co : Core) (k : Nat) (a : BitVec 4) : List Nat :=
  (co.cmds.filterMap fun m => match m.cls with
    | some i => if m.ctx = k ∧ a.getLsbD i ∧ m.phase ≠ .done ∧ m.phase ≠ .sent then some m.id else none
    | none => none)
  ++ (co.mqueue.filterMap fun e => if e.ctx = k ∧ a.getLsbD 3 ∧ e.mf then some e.id else none)
  ++ (co.window.filterMap fun w => if w.ctx = k ∧ a.getLsbD 0 then some w.id else none)

/-- Identities of every access of context `k` on the paths of Table 7-2 that has not performed. -/
def outstandingAll (co : Core) (k : Nat) : List Nat :=
  outstanding co k 0xF ++ co.cmds.filterMap fun m => if m.ctx = k ∧ (m.cls.isNone ∨ m.phase = .sent) ∧ m.remote ∧ m.phase ≠ .done then some m.id else none

/-- The copies of a context that have not completed, whose ring advances may still be held (R99, R255). -/
def copiesOf (k : Core) (ctxId : Nat) : List Nat := k.cmds.filterMap fun m => if m.ctx = ctxId ∧ m.eng = 0 then some m.id else none

/-- IND of the control word of a CPYA (Table 12-5). -/
def cpyaInd (es : List (BitVec 64)) : Bool := (es.getD 7 0).getLsbD 0
/-- DIM. -/
def cpyaDim (es : List (BitVec 64)) : Nat := bits (es.getD 7 0).toNat 2 1
/-- The counts of a CPYA, innermost first. -/
def cpyaCounts (es : List (BitVec 64)) : Nat × Nat × Nat :=
  let w := (es.getD 3 0).toNat
  (bits w 15 0 + 1, bits w 31 16 + 1, bits w 47 32 + 1)
/-- Component `k` (1 to 3) of an index vector. -/
def ixAt (i : Nat × Nat × Nat) (k : Nat) : Nat := if k = 1 then i.1 else if k = 2 then i.2.1 else i.2.2

/-- Entries of the table of an indirect CPYA. -/
def cpyaEntries (es : List (BitVec 64)) : Nat := ixAt (cpyaCounts es) (cpyaDim es)

/-- Some access of the command is remote, or may still turn out to be: an indirect CPYA knows when it has read its table (R133; log entry 62). -/
def Cmd.far (m : Cmd) : Bool := m.remote || (m.op == .cpya && cpyaInd m.es && m.claim.length < cpyaEntries m.es)

/-- Identities of the remote accesses of context `k` that have not completed (R139). -/
def outstandingRemote (co : Core) (k : Nat) : List Nat :=
  co.cmds.filterMap fun m => if m.ctx = k ∧ m.far ∧ m.phase ≠ .done then some m.id else none

/-- Have the remote accesses of the command of this identity completed? -/
def farDone (co : Core) (id : Nat) : Bool := co.cmds.all fun m => m.id != id || m.phase == .done || !m.far

/-- What a command of class `cl` that context `c` issues now must wait for behind its FENCEs (R138). -/
def holdsFor (c : Context) (cl : Option Nat) : List Nat := match cl with
  | some i => c.fences.flatMap fun f => if f.later.getLsbD i then f.ids else []
  | none => []

/-- The commands whose remote accesses it must wait for (R139). -/
def remoteHoldsFor (c : Context) (cl : Option Nat) (remote : Bool) : List Nat := if cl.isSome || remote then c.drainRemote else []

/-! ## Poison of scratchpad words (R373) -/

/-- The poisoned words of a space of core `c`: is the word of offset `x` among them? -/
def localPoisoned (s : State) (c : Nat) (win : Bool) (x : Nat) : Bool :=
  if win then (getCore s (winCore c x)).sharedPoison.contains (winOff x / 16) else (getCore s c).scratchPoison.contains (x / 16)

/-- A read of a poisoned scratchpad word (CODE 0x0002 of CLASS 0x09): ADDR its first byte read. -/
def poisonCause (s : State) (win : Bool) (offs : List Nat) : List Cause :=
  match offs.find? (localPoisoned s s.coreId win) with
  | some x => [{ cls := 9, code := 2, addr := .ofNat 64 x }]
  | none => []

/-- The check of the codeword array of a binding, as a coded access or VNEAR reads it (R56, R373). -/
def arrayCause (s : State) (b : BitVec 64) : List Cause :=
  if bValid b then poisonCause s false ((List.range (bBytes b)).map (bBase b + ·)) else []

/-! ## Calls to the supervisor (R216) -/

/-- The reply slot of a ring as a call record names it: offset, and the space in bit 24. -/
def callSlot (q : BitVec 128) : Nat := qSlot q (qProd q) + if qWin q then 2 ^ 24 else 0

/-- A call record with its SLOT (Table 10-5). -/
def withCallSlot (lr : BitVec 512) (slot : Nat) : BitVec 512 := .ofNat 512 (bits lr.toNat 191 0 + place slot 192 64)

/-- A call whose earlier accesses have performed is posted, with its slot as the ring addresses it then (R216). -/
def postCall (s : State) (x : Call) : Call :=
  if !x.posted && x.after.all (performed (getCore s x.core)) then
    { x with posted := true, lr := withCallSlot x.lr (callSlot ((getCtx s x.core x.ctxId).Q x.ring)) }
  else x

/-- Post every call that may be posted. -/
def postCalls (s : State) : State := if s.hub.calls.isEmpty then s else modHub (fun h => { h with calls := h.calls.map (postCall s) }) s

end Sys2Proof.Machine
end

