-- ==== Sys2Proof/Machine/Pages.lean ====
section
/-! DEFINITION. The page pool: descriptors, quota, allocation, quarantine and scrub (R83, R84), mapping, and the loss of handles (R80). -/

namespace Sys2Proof.Machine

/-! ## Page descriptors (Table 4-7) -/

/-- The descriptor of a page. -/
def desc (s : State) (pfn : Nat) : Nat := (tget 0 s.hub.pages pfn).toNat
/-- STATE. -/
def dState (d : Nat) : Nat := bits d 1 0
/-- OWNER. -/
def dOwner (d : Nat) : Nat := bits d 6 2
/-- SHARE. -/
def dShare (d : Nat) : Nat := bits d 21 7
/-- QSTAMP. -/
def dStamp (d : Nat) : Nat := bits d 63 22

/-- A descriptor word. -/
def mkDesc (st owner share stamp : Nat) : BitVec 64 := .ofNat 64 (st + place owner 2 5 + place share 7 15 + place stamp 22 42)

/-- Write a descriptor. -/
def setDesc (pfn : Nat) (d : BitVec 64) (s : State) : State :=
  { s with hub := { s.hub with pages := tset 0 s.hub.pages pfn d } }

/-- Pages counted against a function: every page it owns that is not free (R83). -/
def ownedPages (s : State) (f : Nat) : Nat :=
  s.hub.pages.countP fun p => dState p.2.toNat != 0 && dOwner p.2.toNat == f

/-- Would `n` more pages keep within the function's quota (R83)? -/
def withinQuota (s : State) (f n : Nat) : Bool := ownedPages s f + n ≤ fQuota s f

/-- The free pages that may go to a function (R83). -/
def eligible (s : State) (f : Nat) : List Nat := s.hub.free.filter fun p => rangeOk s f (p <<< 16)

/-- Take a page for a function: any eligible page of the free list, a free value (R83, log entry 5); none while the list has none. -/
def takePage (f : Nat) (s : State) : Option (Nat × State) :=
  let l := eligible s f
  match l[Config.pagePick s.fresh % l.length]? with
  | none => none
  | some p => some (p, setDesc p (mkDesc 1 f 0 0) (State.bump { s with hub := { s.hub with free := s.hub.free.erase p } }))

/-- Take `n` pages. -/
def takePages (f : Nat) : Nat → State → Option (List Nat × State)
  | 0, s => some ([], s)
  | n + 1, s => match takePage f s with
    | none => none
    | some (p, s') => match takePages f n s' with
      | none => none
      | some (l, s'') => some (p :: l, s'')

/-- A page zeroed with fresh check bits. -/
def scrubPage (pfn : Nat) (s : State) : State :=
  let s : State := { s with mem := Memory.zero s.mem (pfn * 65536) 65536 }
  modHub (fun h => { h with
    scrubLines := h.scrubLines.filter fun l => l / 1024 != pfn
    poison := h.poison.filter fun l => l / 1024 != pfn
    badLines := h.badLines.filter fun l => l / 1024 != pfn }) s

/-- One page enters quarantine with the current epoch (R84); the free starts a new epoch (log entry 12). No stitched tensor has its head in it from then on, and no SPLICE takes a reference to it. -/
def quarantineOne (pfn : Nat) (s : State) : State :=
  let d := desc s pfn
  let s' := setDesc pfn (mkDesc 2 (dOwner d) 0 s.hub.epoch) s
  { s' with hub := { s'.hub with
      epoch := s'.hub.epoch + 1
      heads := s'.hub.heads.filter fun a => a / 65536 != pfn
      prepared := s'.hub.prepared.filter fun p => p.1 != pfn
      copies := s'.hub.copies.filter fun p => p.1 != pfn && p.2 != pfn + 1 } }

/-- A page enters quarantine; the page of its second copy goes with one of a step window (R116, log entry 27). -/
def quarantine (pfn : Nat) (s : State) : State := match tget 0 s.hub.copies pfn with
  | 0 => quarantineOne pfn s
  | q + 1 => quarantineOne q (quarantineOne pfn s)

/-- Free a page: a share goes first, and only an unshared page enters quarantine (R84). -/
def freePage (pfn : Nat) (s : State) : State :=
  let d := desc s pfn
  if 0 < dShare d then setDesc pfn (mkDesc (dState d) (dOwner d) (dShare d - 1) (dStamp d)) s else quarantine pfn s

/-- The least epoch that has an access in flight, or the current one (R84). -/
def quiescence (s : State) : Nat :=
  (coreIds s).foldl (fun m c => (getCore s c).cmds.foldl (fun m x => if x.phase = .done then m else min m x.epoch) m) s.hub.epoch

/-- The pages whose joining of the free list clears linked slots (R55, R100). -/
def clearLinked (pfn : Nat) (s : State) : State :=
  let l := s.hub.linked.map fun x => { x with pages := x.pages.erase pfn }
  let done := l.filter fun x => x.pages.isEmpty
  let s' := done.foldl (fun s x => devMerge x.slot (List.replicate x.len 0) s) s
  { s' with hub := { s'.hub with linked := l.filter fun x => !x.pages.isEmpty } }

/-- A scrubbed page joins the free list, its stamps cleared, or leaves the pool for good where it has held a poisoned line (R84, R116, R373). -/
def joinFree (pfn : Nat) (s : State) : State :=
  let s := setDesc pfn 0 s
  let s := { s with hub := { s.hub with stamp0 := tclear s.hub.stamp0 (pfn * 1024) (pfn * 1024 + 1024), stamp1 := tclear s.hub.stamp1 (pfn * 1024) (pfn * 1024 + 1024) } }
  let s := if pfn ∈ s.hub.oncePoisoned then { s with hub := { s.hub with withdrawn := pfn :: s.hub.withdrawn } }
    else { s with hub := { s.hub with free := s.hub.free ++ [pfn] } }
  clearLinked pfn s

/-! ## Handles lost (R80, R100, R101) -/

/-- Clear VALID of every handle of a register file that the test selects. -/
def dropHandlesIn (test : BitVec 64 → Bool) (h : Tab (BitVec 64)) : Tab (BitVec 64) :=
  tsetMany 0 h ((h.filter fun p => hValid p.2 && test p.2).map fun p => (p.1, p.2 &&& ~~~1))

/-- Clear VALID of a selected handle on its way to a register. -/
def dropFlight (test : BitVec 64 → Bool) (f : Flight) : Flight := match f.dest with
  | .h _ => if hValid (f.val.setWidth 64) && test (f.val.setWidth 64) then { f with val := f.val &&& ~~~1 } else f
  | _ => f

/-- Clear VALID of the selected handles of a context, those in flight included. -/
def Context.dropHandles (test : BitVec 64 → Bool) (c : Context) : Context :=
  { c with h := dropHandlesIn test c.h, flights := c.flights.map (dropFlight test) }

/-- Store pieces of lines at virtual addresses of a function, where they are mapped. -/
def vpieces (f : Nat) : List (Nat × Nat) → List Byte → State → State
  | [], _, s => s
  | (va, n) :: t, bs, s => vpieces f t (bs.drop n) (match vphys s f va with
    | some (a, _) => devMerge a (bs.take n) s
    | none => s)

/-- Store bytes at a virtual address of a function, where it is mapped. -/
def vstore (f va : Nat) (bs : List Byte) (s : State) : State := vpieces f (lineChunks 64 va bs.length) bs s

/-- The virtual address of a context's save area (Table 6-8). -/
def saveBase (x : Context) : Nat := bits x.savecfg.toNat 35 0 <<< 16

/-- The ring words of the save area: Q0 to Q15 with counts at 0x400 (Table 6-9). -/
def saveRings (x : Context) : List Byte := (List.range 16).flatMap fun i => leBytes (x.Q i).toNat 16

/-- The handle words of the save area: H0 to H15 at 0x500. -/
def saveHandles (x : Context) : List Byte := (List.range 16).flatMap fun i => leBytes (x.H i).toNat 8

/-- The binding words of the save area: B0 to B7 at 0x580. -/
def saveBindings (x : Context) : List Byte := (List.range 8).flatMap fun i => leBytes (x.B i).toNat 8

/-- A saved context's rings, handles and bindings as its save area in memory holds them (R52, R76, R80). -/
def refreshSave (x : Context) (s : State) : State :=
  let s := vstore x.func.toNat (saveBase x + 0x400) (saveRings x) s
  let s := vstore x.func.toNat (saveBase x + 0x500) (saveHandles x) s
  vstore x.func.toNat (saveBase x + 0x580) (saveBindings x) s

/-- Change the saved contexts that a test selects, each with its save area in memory where its rings, handles or bindings change (R52, R76, R80). -/
def modSaved (test : Saved → Bool) (f : Context → Context) (s : State) : State :=
  let l := (s.hub.saved.filter test).map fun v => (v.ctx, f v.ctx)
  let s := modHub (fun h => { h with saved := h.saved.map fun v => if test v then { v with ctx := f v.ctx } else v }) s
  l.foldl (fun s p => if p.1.q = p.2.q ∧ p.1.h = p.2.h ∧ p.1.b = p.2.b then s else refreshSave p.2 s) s

/-- The context that the queues of core `c` name `n` for a task: one of the core, or the saved one (R76). -/
def ownerAt (s : State) (c n task : Nat) : Context :=
  if n < 4 then getCtx s c n
  else match s.hub.saved.find? fun v => v.core == c && v.ctx.task == task && v.ctxId == n % 4 with
    | some v => v.ctx
    | none => {}

/-- Change it, if it is still that task's context. -/
def modOwnerAt (c n task : Nat) (f : Context → Context) (s : State) : State :=
  if n < 4 then modCtx c n (fun x => if x.task = task then f x else x) s
  else modSaved (fun v => v.core == c && v.ctx.task == task && v.ctxId == n % 4) f s

/-- Clear VALID of the selected handles in every context of every core and every save area, and drop the selected entries of every translation cache (R80). -/
def dropHandles (test : BitVec 64 → Bool) (s : State) : State :=
  let s := mapCtxs (fun _ _ c => c.dropHandles test) s
  let s := mapCores (fun _ k => { k with tlb := k.tlb.filter fun e => !test e.handle }) s
  modSaved (fun _ => true) (fun x => x.dropHandles test) s

/-- Clear VALID of every handle whose page is `pfn` (R100, R101). -/
def dropPage (pfn : Nat) (s : State) : State := dropHandles (fun h => bits h.toNat 51 16 == pfn) s

/-! ## Mapping -/

/-- The table that entry `i` of a table page points to, where the entry is present, is no leaf and can be read (R332). -/
def nextTable (s : State) (table i : Nat) : Option Nat :=
  let e := pteAt s table i
  if (lineBad s (table + 8 * i)).isNone ∧ bits e 1 0 = 1 then some (bits e 51 16 <<< 16) else none

/-- The physical address of the level-3 entry of a virtual page, where the tables above it are present and no line on the way has an error. -/
def pte3Addr (s : State) (f va : Nat) : Option Nat :=
  match nextTable s (fblk s f 127 64) (bits va 51 40) with
  | none => none
  | some t2 => match nextTable s t2 (bits va 39 28) with
    | none => none
    | some t3 => let a := t3 + 8 * bits va 27 16; if (lineBad s a).isNone then some a else none

/-- A level-3 entry that maps nothing: V and RSV clear. -/
def pteFree (s : State) (f va : Nat) : Bool := match pte3Addr s f va with
  | some a => bits (devNat s a 8) 0 0 == 0 && bits (devNat s a 8) 6 6 == 0
  | none => false

/-- Map a virtual page of a function to a page of HBM with write rights; every other field of the entry is zero (R90; log entry 13). -/
def mapPage (f va pfn : Nat) (s : State) : State :=
  match pte3Addr s f va with
  | none => s
  | some a => devPut s a (7 + place pfn 16 36) 8

/-- The numbers below 4,096, from `p` around. -/
def around (p : Nat) : List Nat := (List.range 4096).map fun i => (i + p) % 4096

/-- A virtual page of a function, not page 0, whose tables are present and whose entry maps nothing; the search starts at page `p`. -/
def freeVa (s : State) (f p : Nat) : Option Nat :=
  (around (p / 2 ^ 24)).findSome? fun i => match nextTable s (fblk s f 127 64) i with
    | none => none
    | some t2 => (around (p / 4096)).findSome? fun j => match nextTable s t2 j with
      | none => none
      | some _ => (around p).findSome? fun k =>
        let v := (i * 4096 + j) * 4096 + k
        if v ≠ 0 ∧ pteFree s f (v * 65536) then some v else none

/-- Unmap a virtual page: V clears, and every handle on its page loses VALID (R100, R101). -/
def unmapPage (f va : Nat) (s : State) : State :=
  match pte3Addr s f va with
  | none => s
  | some a =>
    let e := devNat s a 8
    dropPage (bits e 51 16) (devPut s a (e - e % 2) 8)

/-- The page number under which the reserve zone keeps a virtual page of a function: beyond every page frame, so that no entry of a page table names it (R88, log entry 56). -/
def reservePfn (f page : Nat) : Nat := 2 ^ 36 * (f + 1) + page % 2 ^ 36

/-- The reserve zone holds a virtual page of a function. -/
def reserved (s : State) (f va : Nat) : Bool := s.hub.reserve.contains (f, va / 65536)

/-- The physical address of a virtual address, in the reserve zone where the page is there: for what the device itself keeps in tables (R88). -/
def vplace (s : State) (f va : Nat) : Option Nat := match vphys s f va with
  | some p => some p.1
  | none => if reserved s f va then some (reservePfn f (va / 65536) * 65536 + va % 65536) else none

/-- The frame that keeps a virtual page of a function, beyond every page frame where the reserve zone does (R88). -/
def keptFrame (s : State) (f va : Nat) : Option Nat := (vplace s f va).map (· / 65536)

/-- `n` bytes at a virtual address, within one page, wherever the page is; none where it is nowhere or a line has an error. -/
def vfind (s : State) (f va n : Nat) : Option Nat := match vplace s f va with
  | some a => if anyBad s a n then none else some (devNat s a n)
  | none => none

/-- An address that follows a page from frame `p` to frame `q`. -/
def follow (p q a : Nat) : Nat := if a / 65536 = p then q * 65536 + a % 65536 else a

/-- The bytes of a page that are not zero, by offset. -/
def pageCells (s : State) (pfn : Nat) : List (Nat × Byte) :=
  (s.mem.filter fun p => p.1 / 65536 == pfn && !s.hub.scrubLines.contains (p.1 / 64)).map fun p => (p.1 % 65536, p.2)

/-- The lines of frame `p` that hold an uncorrected error (R373); a line pending scrub reads as zero and holds none (R371). -/
def badOf (s : State) (p : Nat) : List Nat := ((s.hub.badLines ++ s.hub.poison).filter fun l => l / 1024 == p && !s.hub.scrubLines.contains l).dedup

/-- Every line of frame `p` is read and written to frame `q`: an error in one is met, and its poison goes with the line (R332, R373). -/
def carryPoison (p q : Nat) (s : State) : State :=
  let l := badOf s p
  modHub (fun h => { h with
    badLines := h.badLines.filter fun x => x / 1024 != p && x / 1024 != q
    poison := l ++ l.map (fun x => q * 1024 + x % 1024) ++ h.poison.filter fun x => x / 1024 != p && x / 1024 != q
    oncePoisoned := (if l.isEmpty then [] else [p, q]) ++ h.oncePoisoned }) s

/-- Every byte of frame `p` is written to frame `q`, and poison with each poisoned line (R373). -/
def copyFrame (p q : Nat) (s : State) : State :=
  let cells := (pageCells s p).map fun x => (q * 65536 + x.1, x.2)
  carryPoison p q { s with mem := Memory.store (Memory.zero s.mem (q * 65536) 65536) cells }

/-- A page goes from frame `p` to frame `q`, and with its bytes what the device keeps there: stitched heads, pins on them, slots to be cleared, and the references that SHARE has prepared (R88, R101, R373). -/
def movePage (p q : Nat) (s : State) : State :=
  let pins (x : Context) : Context := { x with pins := x.pins.map fun y => { y with head := follow p q y.head } }
  let s := mapCtxs (fun _ _ => pins) (copyFrame p q s)
  modHub (fun h => { h with
    heads := h.heads.map (follow p q)
    prepared := tset 0 (h.prepared.filter fun x => x.1 != p) q (tget 0 h.prepared p)
    linked := h.linked.map fun l => { l with slot := follow p q l.slot }
    saved := h.saved.map fun v => { v with ctx := pins v.ctx } }) s

/-- The reserve zone forgets a page that it holds (R88): its bytes go, and RSV clears. -/
def forgetReserve (f va : Nat) (s : State) : State :=
  if reserved s f va then
    let q := reservePfn f (va / 65536)
    let s := modHub (fun h => { h with
        reserve := h.reserve.filter (· != (f, va / 65536))
        heads := h.heads.filter (fun a => a / 65536 != q)
        prepared := h.prepared.filter fun p => p.1 != q })
      { s with mem := Memory.zero s.mem (q * 65536) 65536 }
    match pte3Addr s f va with
    | some a => let e := devNat s a 8; devPut s a (e - place (bits e 6 6) 6 1) 8
    | none => s
  else s

/-- Unmap a page of a function and free it; one that the reserve zone holds is forgotten there. -/
def releaseVa (f va : Nat) (s : State) : State :=
  match walk s f va with
  | .ok l => freePage (l.base >>> 16) (unmapPage f va s)
  | _ => forgetReserve f va s

/-- The page frame of a virtual page of a function. -/
def pfnOf (s : State) (f va : Nat) : Option Nat := (vphys s f va).map fun p => p.1 >>> 16

end Sys2Proof.Machine
end

