-- ==== Sys2Proof/Machine/Real.lean ====
section
/-! DEFINITION. Number formats and exact arithmetic (02_numbers): values of codes, exact operations, and every rounding function of R28 to R30. -/

namespace Sys2Proof.Machine

/-- The value of a floating-point code: NaN, an infinity, or the exact number (−1)^neg × m × 2^e, zero keeping its sign. -/
inductive Val where
  | nan
  | inf (neg : Bool)
  | fin (neg : Bool) (m : Nat) (e : Int)
deriving DecidableEq, Repr

/-- The floating-point formats of Table 2-1. -/
inductive FFmt where
  | f32 | f16 | bf16 | e4m3 | e5m2
deriving DecidableEq, Repr

namespace FFmt

/-- Fraction width (Table 2-1). -/
def mb : FFmt → Nat
  | f32 => 23 | f16 => 10 | bf16 => 7 | e4m3 => 3 | e5m2 => 2

/-- Exponent width (Table 2-1). -/
def eb : FFmt → Nat
  | f32 => 8 | f16 => 5 | bf16 => 8 | e4m3 => 4 | e5m2 => 5

/-- Exponent bias (Table 2-1). -/
def bias : FFmt → Nat
  | f32 => 127 | f16 => 15 | bf16 => 127 | e4m3 => 7 | e5m2 => 15

/-- Code width. -/
def width (f : FFmt) : Nat := 1 + f.eb + f.mb

/-- E4M3 has no infinity (R22). -/
def hasInf : FFmt → Bool
  | e4m3 => false
  | _ => true

/-- The canonical NaN (Table 2-3). -/
def canonNaN : FFmt → Nat
  | f32 => 0x7FC00000 | f16 => 0x7E00 | bf16 => 0x7FC0 | e4m3 => 0x7F | e5m2 => 0x7E

/-- The code of the largest finite value (Table 2-1). -/
def maxCode : FFmt → Nat
  | f32 => 0x7F7FFFFF | f16 => 0x7BFF | bf16 => 0x7F7F | e4m3 => 0x7E | e5m2 => 0x7B

/-- The code of +∞; of the largest finite value where the format has none. -/
def infCode : FFmt → Nat
  | f32 => 0x7F800000 | f16 => 0x7C00 | bf16 => 0x7F80 | e4m3 => 0x7E | e5m2 => 0x7C

/-- Weight exponent of the lowest bit of the subnormal range. -/
def minExp (f : FFmt) : Int := 1 - (f.bias : Int) - f.mb

/-- The sign bit of a code. -/
def signBit (f : FFmt) (neg : Bool) : Nat := if neg then 2 ^ (f.eb + f.mb) else 0

/-- The value of a code (R19, R22). -/
def value (f : FFmt) (code : Nat) : Val :=
  let neg := code.testBit (f.eb + f.mb)
  let e := (code >>> f.mb) % 2 ^ f.eb
  let fr := code % 2 ^ f.mb
  if f = e4m3 ∧ e = 15 ∧ fr = 7 then .nan
  else if f.hasInf ∧ e = 2 ^ f.eb - 1 then (if fr = 0 then .inf neg else .nan)
  else if e = 0 then .fin neg fr f.minExp
  else .fin neg (2 ^ f.mb + fr) ((e : Int) - f.bias - f.mb)

end FFmt

namespace Val

/-- +0. -/
def zero : Val := .fin false 0 0

/-- The exact integer `x`. -/
def ofInt (x : Int) : Val := .fin (decide (x < 0)) x.natAbs 0

/-- Is the value NaN? -/
def isNaN : Val → Bool
  | nan => true
  | _ => false

/-- Is the value finite? -/
def isFin : Val → Bool
  | fin .. => true
  | _ => false

/-- Is the value a zero of either sign? -/
def isZero : Val → Bool
  | fin _ m _ => m = 0
  | _ => false

/-- The negated value. -/
def neg : Val → Val
  | nan => nan
  | inf s => inf !s
  | fin s m e => fin (!s) m e

/-- The absolute value. -/
def abs : Val → Val
  | nan => nan
  | inf _ => inf false
  | fin _ m e => fin false m e

/-- The value times 2^k. -/
def scale (k : Int) : Val → Val
  | fin s m e => fin s m (e + k)
  | v => v

/-- The signed integer m × 2^(e − g), for g at most e. -/
def shiftTo (s : Bool) (m : Nat) (e g : Int) : Int :=
  let x : Int := (m <<< (e - g).toNat : Nat)
  if s then -x else x

/-- The exact product; 0 × ∞ is NaN. -/
def mul : Val → Val → Val
  | nan, _ => nan
  | _, nan => nan
  | inf s, inf t => inf (xor s t)
  | inf s, fin t m _ => if m = 0 then nan else inf (xor s t)
  | fin s m _, inf t => if m = 0 then nan else inf (xor s t)
  | fin s m e, fin t n f => fin (xor s t) (m * n) (e + f)

/-- The exact sum, with the signs of exact zeros of R20; ∞ − ∞ is NaN. -/
def add : Val → Val → Val
  | nan, _ => nan
  | _, nan => nan
  | inf s, inf t => if s = t then inf s else nan
  | inf s, fin .. => inf s
  | fin .., inf t => inf t
  | fin s m e, fin t n f =>
    let g := min e f
    let x := shiftTo s m e g + shiftTo t n f g
    if x = 0 then fin (s && t && m == 0 && n == 0) 0 g
    else fin (decide (x < 0)) x.natAbs g

/-- The exact difference. -/
def sub (a b : Val) : Val := a.add b.neg

/-- Numerical order of two values that are not NaN; −0 equals +0. -/
def lt : Val → Val → Bool
  | nan, _ => false
  | _, nan => false
  | inf s, inf t => s && !t
  | inf s, fin .. => s
  | fin .., inf t => !t
  | fin s m e, fin t n f =>
    let g := min e f
    decide (shiftTo s m e g < shiftTo t n f g)

/-- Numerical equality of two values that are not NaN; −0 equals +0. -/
def eqv (a b : Val) : Bool := !a.isNaN && !b.isNaN && !a.lt b && !b.lt a

/-- The sign of a value. -/
def isNeg : Val → Bool
  | nan => false
  | inf s => s
  | fin s _ _ => s

/-- The order of min and max, in which −0 lies below +0 (R31). -/
def below (a b : Val) : Bool := a.lt b || (a.isZero && b.isZero && a.isNeg && !b.isNeg)

end Val

/-- floor(log2(num / den)) for positive num and den. -/
def floorLog2 (num den : Nat) : Int :=
  let l : Int := (Nat.log2 num : Int) - (Nat.log2 den : Int)
  let ok := if 0 ≤ l then decide (den <<< l.toNat ≤ num) else decide (den ≤ num <<< (-l).toNat)
  if ok then l else l - 1

/-- The floor of (num / den) / 2^u, whether a rest is left, and the rest compared with a half (lt, eq, gt). -/
structure Cut where
  n : Nat
  exact : Bool
  half : Ordering
deriving DecidableEq, Repr

/-- Cut a positive rational at weight 2^u. -/
def cut (num den : Nat) (u : Int) : Cut :=
  let a := if 0 ≤ u then num else num <<< (-u).toNat
  let b := if 0 ≤ u then den <<< u.toNat else den
  let r := a % b
  { n := a / b, exact := r = 0, half := compare (2 * r) b }

/-- The weight of the last place of a magnitude in format `f`, its exponent range unbounded above. -/
def ulpOf (f : FFmt) (num den : Nat) : Int := max (floorLog2 num den - f.mb) f.minExp

/-- The code of n × 2^u in format `f`, for a magnitude within its range. -/
def packMag (f : FFmt) (n : Nat) (u : Int) : Nat :=
  if n < 2 ^ f.mb then n
  else
    let n' := if n = 2 ^ (f.mb + 1) then n / 2 else n
    let u' := if n = 2 ^ (f.mb + 1) then u + 1 else u
    ((u' + f.mb + f.bias).toNat <<< f.mb) + (n' - 2 ^ f.mb)

/-- n × 2^u lies beyond the largest finite value of `f`. -/
def beyond (f : FFmt) (n : Nat) (u : Int) : Bool :=
  match f.value f.maxCode with
  | .fin _ m e => (Val.fin false m e).lt (.fin false n u)
  | _ => false

/-- A code, and whether the conversion saturated. -/
structure Rounded where
  code : Nat
  satur : Bool := false
deriving DecidableEq, Repr

/-- The rounding directions of Table 2-6; `sr u` is stochastic with draw u. -/
inductive RMode where
  | rne | rz | sr (u : Nat)
deriving DecidableEq, Repr

/-- The multiple of 2^u that the direction chooses for a cut magnitude. DESIGN CHOICE: a magnitude on the grid is exact for SR even beyond the largest finite value (R30; log entry 70). -/
def RMode.choose (m : RMode) (c : Cut) (num den : Nat) (u : Int) : Nat :=
  match m with
  | .rne => match c.half with
    | .lt => c.n
    | .gt => c.n + 1
    | .eq => if c.n % 2 = 0 then c.n else c.n + 1
  | .rz => c.n
  | .sr d =>
    if c.exact then c.n
    else if d < (cut (32768 * num) den u).n - 32768 * c.n then c.n + 1 else c.n

/-- Round a positive rational to format `f` (R28, R30). -/
def roundMag (f : FFmt) (m : RMode) (neg : Bool) (num den : Nat) : Rounded :=
  let u := ulpOf f num den
  let n := m.choose (cut num den u) num den u
  let s := f.signBit neg
  if beyond f n u then
    match m, f with
    | .rne, .f32 => ⟨s + f.infCode, false⟩
    | .rne, .f16 => ⟨s + f.infCode, false⟩
    | .rne, .bf16 => ⟨s + f.infCode, false⟩
    | .rz, .f32 => ⟨s + f.maxCode, false⟩
    | .rz, .f16 => ⟨s + f.maxCode, false⟩
    | .rz, .bf16 => ⟨s + f.maxCode, false⟩
    | _, _ => ⟨s + f.maxCode, true⟩
  else ⟨s + packMag f n u, false⟩

/-- Round an exact value to format `f`: NaN, infinities and zeros as R28 gives. -/
def round (f : FFmt) (m : RMode) : Val → Rounded
  | .nan => ⟨f.canonNaN, false⟩
  | .inf neg => ⟨f.signBit neg + f.infCode, !f.hasInf⟩
  | .fin neg 0 _ => ⟨f.signBit neg, false⟩
  | .fin neg (k + 1) e =>
    if 0 ≤ e then roundMag f m neg ((k + 1) <<< e.toNat) 1 else roundMag f m neg (k + 1) (1 <<< (-e).toNat)

/-- RNE_FP32 of an exact value, as a code (R28). -/
def rne32 (v : Val) : Nat := (round .f32 .rne v).code

/-- The value of an FP32 code. -/
def val32 (code : Nat) : Val := FFmt.f32.value code

/-- RNE_FP32 of an exact value, as a value. -/
def rv32 (v : Val) : Val := val32 (rne32 v)

/-- Round the exact quotient of two values to FP32 (R20): NaN and infinities as IEEE 754 gives. -/
def div32 (a b : Val) : Nat :=
  match a, b with
  | .nan, _ => FFmt.f32.canonNaN
  | _, .nan => FFmt.f32.canonNaN
  | .inf _, .inf _ => FFmt.f32.canonNaN
  | .inf s, .fin t _ _ => FFmt.f32.signBit (xor s t) + FFmt.f32.infCode
  | .fin s _ _, .inf t => FFmt.f32.signBit (xor s t)
  | .fin s m e, .fin t n f =>
    if n = 0 then (if m = 0 then FFmt.f32.canonNaN else FFmt.f32.signBit (xor s t) + FFmt.f32.infCode)
    else if m = 0 then FFmt.f32.signBit (xor s t)
    else
      let k := e - f
      let num := if 0 ≤ k then m <<< k.toNat else m
      let den := if 0 ≤ k then n else n <<< (-k).toNat
      (roundMag .f32 .rne (xor s t) num den).code

/-- A positive dyadic with the same rounding as √(m × 2^e) in every format: the root cut to 100 bits with a sticky bit. -/
def sqrtSticky (m : Nat) (e : Int) : Val :=
  let m' := if e % 2 = 0 then m else 2 * m
  let e' := if e % 2 = 0 then e else e - 1
  let k := 100
  let x := m' <<< (2 * k)
  let s := Nat.sqrt x
  .fin false (2 * s + if s * s = x then 0 else 1) (e' / 2 - k - 1)

/-- √v before rounding: NaN for negative numbers, −0 for −0 (IEEE 754, R20). -/
def sqrtVal : Val → Val
  | .nan => .nan
  | .inf s => if s then .nan else .inf false
  | .fin s m e => if m = 0 then .fin s 0 e else if s then .nan else sqrtSticky m e

/-! ## Integers, DS8, PF16, E8M0 -/

/-- Clamp an integer to `lo` to `hi`; the flag says it changed (R25). -/
def clampI (lo hi x : Int) : Int × Bool :=
  if x < lo then (lo, true) else if hi < x then (hi, true) else (x, false)

/-- The range of an integer format: width and signedness (R25). -/
def intRange (w : Nat) (signed : Bool) : Int × Int :=
  if signed then (-(2 ^ (w - 1) : Nat), (2 ^ (w - 1) : Nat) - 1) else (0, (2 ^ w : Nat) - 1)

/-- The low `w` bits of an integer, WRAP of R25. -/
def wrapI (w : Nat) (x : Int) : Nat := (x % (2 ^ w : Nat)).toNat

/-- The value of a `w`-bit code read signed or natural. -/
def intOf (w : Nat) (signed : Bool) (c : Nat) : Int :=
  if signed ∧ 2 ^ (w - 1) ≤ c % 2 ^ w then (c % 2 ^ w : Nat) - (2 ^ w : Nat) else (c % 2 ^ w : Nat)

/-- SAT of R25. -/
def satI (w : Nat) (signed : Bool) (x : Int) : Rounded :=
  let r := clampI (intRange w signed).1 (intRange w signed).2 x
  ⟨wrapI w r.1, r.2⟩

/-- The integer nearest to a magnitude, ties to even, or its floor (R29). -/
def intMag (rz : Bool) (m : Nat) (e : Int) : Nat :=
  if 0 ≤ e then m <<< e.toNat
  else (if rz then RMode.rz else RMode.rne).choose (cut m (1 <<< (-e).toNat) 0) m (1 <<< (-e).toNat) 0

/-- RNI_F and RZI_F (R29). -/
def toInt (w : Nat) (signed rz : Bool) : Val → Rounded
  | .nan => ⟨0, true⟩
  | .inf s => ⟨wrapI w (if s then (intRange w signed).1 else (intRange w signed).2), true⟩
  | .fin s m e =>
    let x : Int := intMag rz m e
    satI w signed (if s then -x else x)

/-- The value of a DS8 code (R23). -/
def ds8Val (c : Nat) : Val :=
  let t (s : Bool) (k : Nat) : Int := if s then -((2 ^ (7 - k) : Nat) : Int) else (2 ^ (7 - k) : Nat)
  let x := t (c.testBit 7) (bits c 6 4) + t (c.testBit 3) (bits c 2 0)
  .fin (decide (x < 0)) x.natAbs (-7)

/-- The codes of DS8 in ascending order with their values in units of 2^−7 (R23). -/
def ds8Units (c : Nat) : Int :=
  match ds8Val c with
  | .fin s m _ => if s then -(m : Int) else m
  | _ => 0

/-- Distance of a DS8 code from x = n / d in units of 2^−7 / d. -/
def ds8Dist (num : Int) (den : Nat) (c : Nat) : Nat := (ds8Units c * den - num).natAbs

/-- The code that R24 chooses among `c` and `b`: nearer, then smaller in magnitude, then the lower code (`b` stands first). -/
def ds8Better (num : Int) (den : Nat) (b c : Nat) : Nat :=
  let x := ds8Dist num den c
  let y := ds8Dist num den b
  if x < y ∨ (x = y ∧ (ds8Units c).natAbs < (ds8Units b).natAbs) then c else b

/-- A conversion to DS8: the code, SATUR and UNENC (R24). -/
structure Ds8Result where
  code : Nat
  satur : Bool := false
  unenc : Bool := false
deriving DecidableEq, Repr

/-- DS8(x) (R24). -/
def toDs8 : Val → Ds8Result
  | .nan => ⟨0x08, false, true⟩
  | .inf s => ⟨if s then 0x88 else 0x00, true, false⟩
  | .fin s m e =>
    if (Val.fin false 2 0).lt (.fin false m e) then ⟨if s then 0x88 else 0x00, true, false⟩
    else
      let e' := e + 7
      let num : Int := if 0 ≤ e' then ((m <<< e'.toNat : Nat) : Int) else m
      let den := if 0 ≤ e' then 1 else 1 <<< (-e').toNat
      ⟨(List.range 256).foldl (ds8Better (if s then -num else num) den) 0, false, false⟩

/-- A PF16 code read as a number of 32,768ths, and whether it set PFRNG (R27). -/
def pfRead (c : Nat) : Nat × Bool := if 0x8000 < c % 65536 then (0x8000, true) else (c % 65536, false)

/-- PF16(num / den), for a rational that may lie outside [0, 1] (R27). -/
def pf16 (num : Int) (den : Nat) : Nat :=
  if num ≤ 0 then 0
  else if (den : Int) ≤ num then 0x8000
  else RMode.rne.choose (cut (32768 * num.toNat) den 0) (32768 * num.toNat) den 0

/-- PF16 of an exact value that is not NaN (R27). -/
def pf16Val : Val → Nat
  | .nan => 0
  | .inf s => if s then 0 else 0x8000
  | .fin s m e =>
    if s then 0
    else if 0 ≤ e then pf16 ((m <<< e.toNat : Nat) : Int) 1
    else pf16 m (1 <<< (-e).toNat)

/-! ## Min and max of R31 -/

/-- The min (or max) rule of R31 on values `a`, `b` with their codes: the first operand where they are equal, the canonical NaN `cn` where both are NaN. -/
def minmaxCode (mx : Bool) (cn : Nat) (va vb : Val) (ca cb : Nat) : Nat :=
  if va.isNaN && vb.isNaN then cn
  else if va.isNaN then cb
  else if vb.isNaN then ca
  else if mx then (if va.below vb then cb else ca) else (if vb.below va then cb else ca)

/-! ## Special functions (R236) -/

/-- A closed interval of rationals lo / 2^p to hi / 2^p. -/
structure Iv where
  lo : Nat
  hi : Nat
deriving DecidableEq, Repr

/-- ceil(a / b). -/
def cdiv (a b : Nat) : Nat := (a + b - 1) / b

namespace Iv

/-- Enclosure of a product at scale 2^p. -/
def mul (p : Nat) (a b : Iv) : Iv := ⟨(a.lo * b.lo) >>> p, cdiv (a.hi * b.hi) (2 ^ p)⟩

/-- Enclosure of a sum. -/
def add (a b : Iv) : Iv := ⟨a.lo + b.lo, a.hi + b.hi⟩

/-- Enclosure of a quotient by a positive integer. -/
def divN (a : Iv) (n : Nat) : Iv := ⟨a.lo / n, cdiv a.hi n⟩

end Iv

/-- Enclosure of Σ term, term × y / k, … over `n` terms, the last one added again on top as the bound of the rest (each ratio is below 1/2 there). -/
def expSeries (p : Nat) (y : Iv) : Nat → Nat → Iv → Iv → Iv
  | 0, _, t, acc => ⟨acc.lo, acc.hi + t.hi⟩
  | n + 1, k, t, acc =>
    let t' := (Iv.mul p t y).divN k
    expSeries p y n (k + 1) t' (acc.add t')

/-- Enclosure of e^y at scale 2^p, for 0 ≤ y < 1. -/
def expIv (p : Nat) (y : Iv) : Iv := expSeries p y p 1 ⟨2 ^ p, 2 ^ p⟩ ⟨2 ^ p, 2 ^ p⟩

/-- Enclosure of (e^y − 1) / y at scale 2^p, for 0 ≤ y < 2. -/
def expm1Iv (p : Nat) (y : Iv) : Iv := expSeries p y p 2 ⟨2 ^ p, 2 ^ p⟩ ⟨2 ^ p, 2 ^ p⟩

/-- Enclosure of Σ t^(2j+1) / (2j+1) over `n` terms: artanh of a t of at most 1/3. -/
def atanhSeries (p : Nat) (t2 : Iv) : Nat → Nat → Iv → Iv → Iv
  | 0, _, t, acc => ⟨acc.lo, acc.hi + t.hi⟩
  | n + 1, k, t, acc => atanhSeries p t2 n (k + 2) (Iv.mul p t t2) (acc.add (t.divN k))

/-- Enclosure of artanh(num / den) at scale 2^p, for 0 ≤ num / den ≤ 1/3. -/
def atanhIv (p num den : Nat) : Iv :=
  let t : Iv := ⟨(num <<< p) / den, cdiv (num <<< p) den⟩
  atanhSeries p (Iv.mul p t t) p 1 t ⟨0, 0⟩

/-- Enclosure of ln 2 = 2 artanh(1/3). -/
def ln2Iv (p : Nat) : Iv := let a := atanhIv p 1 3; a.add a

/-- A positive rational. -/
structure PosQ where
  num : Nat
  den : Nat
deriving DecidableEq, Repr

/-- A rational enclosure of a positive real. -/
abbrev Encl := PosQ × PosQ

/-- num × 2^k / den. -/
def PosQ.shift (q : PosQ) (k : Int) : PosQ :=
  if 0 ≤ k then ⟨q.num <<< k.toNat, q.den⟩ else ⟨q.num, q.den <<< (-k).toNat⟩

/-- The magnitude m × 2^e as a rational. -/
def magQ (m : Nat) (e : Int) : PosQ := PosQ.shift ⟨m, 1⟩ e

/-- Enclosure of 2^(num / den) for 0 ≤ num / den < 1, at scale 2^p. -/
def exp2Frac (p : Nat) (q : PosQ) : Iv :=
  let f : Iv := ⟨(q.num <<< p) / q.den, cdiv (q.num <<< p) q.den⟩
  expIv p (Iv.mul p f (ln2Iv p))

/-- Enclosure of 2^a, for |a| < 2^11: the integer part shifts, the rest is enclosed. -/
def exp2Encl (p : Nat) (neg : Bool) (m : Nat) (e : Int) : Encl :=
  let q := magQ m e
  let fl : Int := if neg then -((cdiv q.num q.den : Nat) : Int) else (q.num / q.den : Nat)
  let fr : PosQ := if neg then ⟨cdiv q.num q.den * q.den - q.num, q.den⟩ else ⟨q.num % q.den, q.den⟩
  let iv := exp2Frac p fr
  (PosQ.shift ⟨iv.lo, 2 ^ p⟩ fl, PosQ.shift ⟨iv.hi, 2 ^ p⟩ fl)

/-- Enclosure of |log2(m × 2^e)| with its sign, for a number that is no power of two: z in [3/4, 3/2), log2 = k ± 2 artanh(|z − 1| / (z + 1)) / ln 2. -/
def log2Encl (p : Nat) (m : Nat) (e : Int) : Bool × Encl :=
  let l := Nat.log2 m
  let big := 3 * 2 ^ l ≤ 2 * m
  let k : Int := e + l + if big then 1 else 0
  let den := if big then 2 ^ (l + 1) else 2 ^ l
  let zneg := m < den
  let diff := if zneg then den - m else m - den
  let a := atanhIv p diff (m + den)
  let l2 := ln2Iv p
  -- |log2 z| × 2^p lies between these two
  let lo := ((2 * a.lo) <<< p) / l2.hi
  let hi := cdiv ((2 * a.hi) <<< p) l2.lo
  let kk : Int := k * (2 ^ p : Nat)
  let x : Int := if zneg then kk - hi else kk + lo
  let y : Int := if zneg then kk - lo else kk + hi
  if 0 < x + y then (false, (⟨x.toNat, 2 ^ p⟩, ⟨y.toNat, 2 ^ p⟩))
  else (true, (⟨(-y).toNat, 2 ^ p⟩, ⟨(-x).toNat, 2 ^ p⟩))

/-- Enclosure of tanh(m × 2^e), for magnitudes below 64. -/
def tanhEncl (p : Nat) (m : Nat) (e : Int) : Encl :=
  let y := (magQ m (e + 1))
  if y.num < y.den then
    -- y B / (y B + 2), B = (e^y − 1) / y
    let f : Iv := ⟨(y.num <<< p) / y.den, cdiv (y.num <<< p) y.den⟩
    let b := expm1Iv p f
    let g (b : Nat) : PosQ := ⟨y.num * b, y.num * b + (2 * y.den) <<< p⟩
    (g b.lo, g b.hi)
  else
    -- 1 − 2 / (E + 1), E = e^y = 2^n × e^r
    let yv : Iv := ⟨(y.num <<< p) / y.den, cdiv (y.num <<< p) y.den⟩
    let l2 := ln2Iv p
    let n := yv.lo / l2.hi
    let r : Iv := ⟨yv.lo - n * l2.hi, yv.hi - n * l2.lo⟩
    let x := expIv p r
    let g (v : Nat) : PosQ := ⟨(v <<< n) - 2 ^ p, (v <<< n) + 2 ^ p⟩
    (g x.lo, g x.hi)

/-- Round an enclosure: where both ends round alike that is the correctly rounded value (R236). -/
def roundEncl (f : FFmt) (neg : Bool) (c : Encl) : Option Nat :=
  let a := (roundMag f .rne neg c.1.num c.1.den).code
  let b := (roundMag f .rne neg c.2.num c.2.den).code
  if c.1.num ≠ 0 ∧ a = b then some a else none

/-- The special functions of R236. -/
inductive SFun where
  | exp2 | log2 | rcp | rsq | tanh
deriving DecidableEq, Repr

/-- The number of a special function, for the free value of an unresolved input. -/
def SFun.num : SFun → Nat
  | exp2 => 0 | log2 => 1 | rcp => 2 | rsq => 3 | tanh => 4

/-- Try the enclosure at 96, 160 and 320 bits; an input that none resolves takes a free value (log entry 10). -/
def resolve (f : FFmt) (fn : SFun) (code : Nat) (enc : Nat → Bool × Encl) : Nat :=
  let tryAt (p : Nat) : Option Nat := let r := enc p; roundEncl f r.1 r.2
  ((tryAt 96).orElse fun _ => (tryAt 160).orElse fun _ => tryAt 320).getD
    (Config.unresolved (fn.num * 8 + f.width) code % 2 ^ f.width)

/-- RNE_f of the exact value of a special function at a code of format `f`, with the cases of Table 11-4. -/
def special (f : FFmt) (fn : SFun) (code : Nat) : Nat :=
  let one := (round f .rne (.fin false 1 0)).code
  match fn, f.value code with
  | _, .nan => f.canonNaN
  | .exp2, .inf s => if s then 0 else f.infCode
  | .exp2, .fin s m e =>
    if m = 0 then one
    else if (Val.fin false 1024 0).lt (.fin false m e) then (if s then 0 else f.infCode)
    else if 0 ≤ e ∨ m % 2 ^ (-e).toNat = 0 then
      let k : Int := if 0 ≤ e then (m <<< e.toNat : Nat) else (m >>> (-e).toNat : Nat)
      (round f .rne (.fin false 1 (if s then -k else k))).code
    else resolve f fn code fun p => (false, exp2Encl p s m e)
  | .log2, .inf s => if s then f.canonNaN else f.infCode
  | .log2, .fin s m e =>
    if m = 0 then f.signBit true + f.infCode
    else if s then f.canonNaN
    else if m = 2 ^ Nat.log2 m then (round f .rne (.ofInt (e + Nat.log2 m))).code
    else resolve f fn code fun p => log2Encl p m e
  | .rcp, .inf s => f.signBit s
  | .rcp, .fin s m e =>
    if m = 0 then f.signBit s + f.infCode
    else let q := magQ m e; (roundMag f .rne s q.den q.num).code
  | .rsq, .inf s => if s then f.canonNaN else 0
  | .rsq, .fin s m e =>
    if m = 0 then f.signBit s + f.infCode
    else if s then f.canonNaN
    else
      -- 1/√(m 2^e) = √(2^k / m) × 2^(−(e + k) / 2), e + k even
      let k : Nat := 400 + (if e % 2 = 0 then 0 else 1)
      let x := Nat.sqrt (2 ^ k / m)
      let st := if x * x * m = 2 ^ k then 0 else 1
      (round f .rne (.fin false (2 * x + st) (-((e + k) / 2) - 1))).code
  | .tanh, .inf s => f.signBit s + one
  | .tanh, .fin s m e =>
    if m = 0 then f.signBit s
    else if (Val.fin false 63 0).lt (.fin false m e) then f.signBit s + one
    else resolve f fn code fun p => (s, tanhEncl p m e)

end Sys2Proof.Machine
end

