-- ==== Sys2Proof/Machine/Codebook.lean ====
section
/-! DEFINITION. Codebooks (03_codebooks): codewords, felting, decoding, the directory, references and the retirement of versions. -/

namespace Sys2Proof.Machine

/-! ## Element values and codewords -/

/-- The exact value of an element code of a floating format code 6 to 11. -/
def elemVal (fmt code : Nat) : Val :=
  match fmt with
  | 6 => FFmt.e4m3.value code
  | 7 => FFmt.e5m2.value code
  | 8 => ds8Val code
  | 9 => FFmt.f16.value code
  | 10 => FFmt.bf16.value code
  | _ => FFmt.f32.value code

/-- The floating format of a code. -/
def fmtOf (c : Nat) : FFmt := if c = 6 then .e4m3 else if c = 7 then .e5m2 else if c = 9 then .f16 else if c = 10 then .bf16 else .f32

/-- The exact value of a scale code: 2^(c − 127), NaN for 0xFF (R26). -/
def scaled (c : Nat) (v : Val) : Val := if c = 0xFF then .nan else v.scale ((c : Int) - 127)

/-- A codebook as the search and the decode read it: shape, scale and the codeword array's bytes (R40, R42). -/
structure Book where
  w : Nat
  d : Nat
  fmt : Nat
  scale : Nat
  bytes : List Byte
deriving DecidableEq, Repr

/-- K. -/
def Book.k (b : Book) : Nat := 2 ^ b.w

/-- The stored code of element `i` of codeword `c` (R42). -/
def Book.code (b : Book) (c i : Nat) : Nat :=
  let z := cbZ b.fmt
  ofLeBytes ((b.bytes.drop ((c * b.d + i) * z)).take z)

/-- qx(c, i): CW(c, i) × 2^(SCALE − 127), exact (R40). -/
def Book.qx (b : Book) (c i : Nat) : Val := scaled b.scale (elemVal b.fmt (b.code c i))

/-- The codewords of a book, each element rounded to FP32, in index order (R57). -/
def Book.rounded (b : Book) : List (List Val) := (List.range b.k).map fun c => (List.range b.d).map fun i => rv32 (b.qx c i)

/-- The distance D of a group from a codeword, every step rounded by RNE_FP32 (R57). -/
def dist (v q : List Val) : Val :=
  (v.zip q).foldl (fun d p => let e := rv32 (p.1.sub p.2); rv32 (d.add (rv32 (e.mul e)))) .zero

/-- The running best of SEARCH: next index, best index and its distance. -/
def searchStep (v : List Val) (st : Nat × Nat × Val) (q : List Val) : Nat × Nat × Val :=
  let d := dist v q
  if !d.isNaN && (st.2.2.isNaN || d.lt st.2.2) then (st.1 + 1, st.1, d) else (st.1 + 1, st.2)

/-- SEARCH over rounded codewords: the index and whether it sets UNENC (R57). -/
def search (qs : List (List Val)) (v : List Val) : Nat × Bool :=
  if v.any (fun x => !x.isFin) then (0, true)
  else let r := qs.foldl (searchStep v) (0, 0, .nan); (r.2.1, r.2.2.isNaN)

/-- The book that a binding reads at its BASE in the private scratchpad of core `c` (R56). -/
def bookAt (s : State) (c : Nat) (b : BitVec 64) : Book :=
  { w := bW b, d := bD b, fmt := bFmt b, scale := bScale b, bytes := localRead s c false (bBase b) (bBytes b) }

/-- Index `n` of a row of packed indices (R46), from the row's bytes. -/
def packedIndex (w : Nat) (row : List Byte) (n : Nat) : Nat :=
  let q := 64 / w
  ofLeBytes ((row.drop (8 * (n / q))).take 8) >>> (n % q * w) % 2 ^ w

/-- The words of a row of packed indices (R46). -/
def packIndices (w : Nat) (idx : List Nat) : List Byte :=
  let q := 64 / w
  (List.range ((idx.length + q - 1) / q)).flatMap fun i => leBytes (packE w (fun j => idx.getD (i * q + j) 0) q) 8

/-! ## The directory (R43 to R45) -/

/-- The virtual address of the entry of an identifier. -/
def entryVa (s : State) (f id : Nat) : Nat := fblk s f 319 256 + 64 * id

/-- The physical address of version slot `j` of an identifier: the device keeps its directory wherever its page is (R88). -/
def slotPa (s : State) (f id j : Nat) : Option Nat := vplace s f (entryVa s f id + 16 * j)

/-- The word of a version slot (Table 3-2), zero where the directory is not mapped or its line has an error (R332). -/
def slotWord (s : State) (f id j : Nat) : Nat := match slotPa s f id j with
  | some a => if (lineBad s a).isSome then 0 else devNat s a 16
  | none => 0

/-- STATE of a slot word. -/
def svState (x : Nat) : Nat := bits x 1 0
/-- LATEST. -/
def svLatest (x : Nat) : Bool := bits x 2 2 == 1
/-- The header's virtual address. -/
def svHdr (x : Nat) : Nat := bits x 51 6 <<< 6
/-- VER. -/
def svVer (x : Nat) : Nat := bits x 79 64
/-- REFS. -/
def svRefs (x : Nat) : Nat := bits x 111 80

/-- A slot word. -/
def mkSlot (st : Nat) (latest : Bool) (hdr ver refs : Nat) : Nat :=
  st + place (if latest then 1 else 0) 2 1 + place (hdr >>> 6) 6 46 + place ver 64 16 + place refs 80 32

/-- Write a slot word. -/
def setSlot (f id j x : Nat) (s : State) : State := match slotPa s f id j with
  | some a => devMerge a (leBytes x 16) s
  | none => s

/-- The first of the four slots that the test selects. -/
def findSlot (s : State) (f id : Nat) (test : Nat → Bool) : Option Nat := [0, 1, 2, 3].find? fun j => test (slotWord s f id j)

/-- The slot of the latest version (R44). -/
def latestSlot (s : State) (f id : Nat) : Option Nat := findSlot s f id fun x => svState x == 1 && svLatest x

/-- The slot of a live version of a number. -/
def liveSlot (s : State) (f id ver : Nat) : Option Nat := findSlot s f id fun x => svState x == 1 && svVer x == ver

/-- A version whose references are zero and that is not the latest retires (R55): its slot becomes retiring, HDR is cleared, and its page is unmapped and enters quarantine; the slot clears when the page has joined the free list, or at once where the version has no page in the pool. -/
def retireVersion (f id j : Nat) (s : State) : State :=
  let x := slotWord s f id j
  match slotPa s f id j with
  | none => s
  | some a =>
    let pfn := pfnOf s f (svHdr x)
    let s := setSlot f id j (mkSlot 2 false 0 (svVer x) 0) s
    let s := releaseVa f (svHdr x) s
    match pfn with
    | some p => { s with hub := { s.hub with linked := ⟨[p], a, 16⟩ :: s.hub.linked } }
    | none => setSlot f id j 0 s

/-- Drop one reference of a version (R51), retiring it where it is the last (R55). -/
def dropRef (f id ver : Nat) (s : State) : State :=
  match findSlot s f id fun x => svState x == 1 && svVer x == ver with
  | none => s
  | some j =>
    let x := slotWord s f id j
    let s := setSlot f id j (mkSlot 1 (svLatest x) (svHdr x) (svVer x) (svRefs x - 1)) s
    if svRefs x ≤ 1 ∧ !svLatest x then retireVersion f id j s else s

/-- Add one reference of a version (R51). -/
def addRef (f id ver : Nat) (s : State) : State :=
  match liveSlot s f id ver with
  | none => s
  | some j =>
    let x := slotWord s f id j
    setSlot f id j (mkSlot 1 (svLatest x) (svHdr x) (svVer x) (svRefs x + 1)) s

/-- The next number after `n`, passing from 0xFFFF to 1 (R45). -/
def nextVer (n : Nat) : Nat := if n = 0xFFFF then 1 else n + 1

/-- The first number from `n` upward that the test does not hold to be taken; `fuel` exceeds the numbers that can be taken. -/
def freeVer (taken : Nat → Bool) : Nat → Nat → Nat
  | 0, n => n
  | fuel + 1, n => if taken n then freeVer taken fuel (nextVer n) else n

/-- The number of the next version of an identifier (R45). -/
def nextBookVer (s : State) (f id : Nat) : Nat :=
  let held (live : Bool) (n : Nat) : Bool :=
    (findSlot s f id fun x => svVer x == n && (svState x == 2 || (live && svState x == 1))).isSome
  match latestSlot s f id with
  | some j => freeVer (held true) 5 (nextVer (svVer (slotWord s f id j)))
  | none => freeVer (held false) 5 1

/-- The first uncorrected error among the lines of `n` bytes at a physical address, as a cause (R332). -/
def firstBad (s : State) (a n : Nat) : Option Cause :=
  (lineChunks 64 a n).findSome? fun p => (lineBad s p.1).map fun c => { cls := 9, code := c, addr := .ofNat 64 p.1 }

/-- Why the device cannot read `n` bytes that it keeps at a virtual address: the page is nowhere, or a line has an error. -/
def keptCause (s : State) (f va n : Nat) : Option Cause := match vplace s f va with
  | some a => firstBad s a n
  | none => (walk s f va).cause false va

/-- Why `n` bytes at a virtual address cannot be read: their page is not mapped, or held in the reserve zone until it is expanded, or a line has an error (R88, R332; log entry 57). -/
def readCause (s : State) (f va n : Nat) : Option Cause := match vphys s f va with
  | some p => firstBad s p.1 n
  | none => (walk s f va).cause false va

/-- Why the entry of an identifier cannot be read. -/
def entryCause (s : State) (f id : Nat) : Option Cause := keptCause s f (entryVa s f id) 64

/-- The header of a version (Table 3-1), by its virtual address; zero where it cannot be read, which each command checks first. -/
def header (s : State) (f hdr : Nat) : Nat := (vread s f hdr 64).getD 0

/-- The published book of a version: shape and scale from its header, the array behind it (R41, R42). -/
def bookOf (s : State) (f hdr : Nat) : Book :=
  let h := header s f hdr
  { w := 2 * (bits h 33 32 + 1), d := 2 ^ bits h 35 34, fmt := bits h 39 36, scale := bits h 47 40,
    bytes := match vphys s f (hdr + 64) with
      | some (a, _) => devRead s a (bits h 159 144)
      | none => [] }

/-- Why the published book of a version cannot be read: its header or its array. -/
def bookCause (s : State) (f hdr : Nat) : Option Cause :=
  (readCause s f hdr 64).orElse fun _ => readCause s f hdr (64 + bits (header s f hdr) 159 144)

/-- The binding register that names version `ver` of identifier `id`, whose header is `h` (Table 3-3). -/
def mkBinding (id ver h : Nat) (float : Bool) (base : Nat) : BitVec 64 :=
  .ofNat 64 (place id 0 16 + place ver 16 16 + place (bits h 47 32) 32 16 + place (if float then 1 else 0) 48 1 + place 1 49 1 + place base 50 14)

/-! ## Releasing a binding's reference (R53) -/

/-- What an access captured is a binding, the one that now reads `b`: a STEP that re-resolves a floating one changes its version, SCALE and format and neither its identifier nor its BASE (R52, R53). -/
def sameBinding (x b : BitVec 64) : Bool := bValid x && bId x == bId b && bBase x == bBase b && bFloat x == bFloat b

/-- A matrix operation reads a codeword array through the binding that now reads `b`: MPART and MLUT2 do. -/
def MEntry.through (e : MEntry) (b : BitVec 64) : Bool :=
  (e.op == .mpart && sameBinding e.b1 b) || (e.op == .mlut2 && (sameBinding e.b1 b || sameBinding e.b2 b))

/-- A reference to be dropped once the coded accesses, VNEARs, MPARTs and MLUT2s issued before through the binding have landed (R53). DESIGN CHOICE: those of the releasing bundle itself count among them (log entry 75). -/
def refDropOf (c : Context) (k : Core) (ctxId : Nat) (b : BitVec 64) : RefDrop :=
  { ctx := ctxId, func := c.func.toNat, cbid := bId b, ver := bVer b,
    ids := (k.mqueue.filterMap fun e => if e.ctx = ctxId ∧ e.through b then some e.id else none)
      ++ (k.window.filterMap fun a => if a.ctx = ctxId ∧ sameBinding a.arg b then some a.id else none)
    after := c.issued + (c.flights.filter fun f => sameBinding f.via b).foldl (fun m f => max m f.cnt) 0 }

/-- Have the accesses landed? The context of a saved one is the one that the save area holds. -/
def refDropReady (s : State) (c : Nat) (r : RefDrop) : Bool :=
  let x := ownerAt s c r.ctx (r.ctx / 4)
  r.ids.all (performed (getCore s c)) && (x.life != .running || r.after ≤ x.issued)

/-- Drop every reference of core `c` whose accesses have landed (R53). -/
def settleRefs (c : Nat) (s : State) : State :=
  let l := (getCore s c).refDrops
  let now := l.filter (refDropReady s c)
  if now.isEmpty then s
  else now.foldl (fun s r => dropRef r.func r.cbid r.ver s)
    (modCore c (fun k => { k with refDrops := l.filter fun r => !refDropReady s c r }) s)

end Sys2Proof.Machine
end

