-- ==== Sys2Proof/Machine/Commit.lean ====
section
/-! DEFINITION. The end of a bundle: statistics updates, loop end tests, the delay position, retirement at EXIT, and the commit of a bundle. -/

namespace Sys2Proof.Machine

/-! ## Statistics (R85, R237) -/

/-- The new LSE of R237, from FP32 codes. -/
def lseFold (lse y : Nat) : Nat :=
  let m := minmaxCode true FFmt.f32.canonNaN (val32 lse) (val32 y) lse y
  match val32 m with
  | .nan => FFmt.f32.canonNaN
  | .inf _ => m
  | v =>
    let e (x : Nat) : Val := val32 (special .f32 .exp2 (rne32 ((val32 x).sub v)))
    let t := rne32 ((e lse).add (e y))
    rne32 (v.add (val32 (special .f32 .log2 t)))

/-- An FP32 code as an instruction writes it where it is no copy: every NaN is the canonical one (R21). -/
def written32 (x : Nat) : Nat := if (val32 x).isNaN then FFmt.f32.canonNaN else x

/-- An entry updated by VSTAT from the elements of a section of va: `.lse` where `lse` holds, else `.norm` (R237, R21). -/
def statUpdate (lse : Bool) (a : BitVec 512) (x : BitVec 128) : BitVec 128 :=
  let old := x.toNat
  if lse then
    let cnt := bits old 127 96
    let l := if cnt = 0 then written32 (elt a 32 0) else lseFold (bits old 95 64) (elt a 32 0)
    .ofNat 128 (bits old 63 0 + place l 64 32 + place (cnt + elt a 32 2) 96 32)
  else .ofNat 128 (written32 (elt a 32 0) + place (written32 (elt a 32 1)) 32 32 + place (bits old 95 64) 64 32 + place (elt a 32 2) 96 32)

/-- The statistics updates of a bundle perform in order at its end (R237). -/
def Core.stat (k : Core) (l : List (Nat × (Bool × BitVec 512))) : Core :=
  { k with stats := l.foldl (fun t u => tset 0 t u.1 (statUpdate u.2.1 u.2.2 (tget 0 t u.1))) k.stats }

/-! ## Control at the end of a bundle (R181, R182, R348) -/

/-- The bundle holds BR, BRL or JR. -/
def isBranch : Instr → Bool
  | .br _ => true
  | .brl _ => true
  | .jr _ => true
  | _ => false

/-- The bundle's branch links, so it needs the lengths of its delay bundles (R181). -/
def isLink : Instr → Bool
  | .brl _ => true
  | .jr _ => true
  | _ => false

/-- The delay position after a bundle. -/
def nextDelay (branching : Bool) (d : Nat) : Nat := if branching then 1 else if d = 1 then 2 else 0

/-- The end test of level 0 at address `a`: whether it loops back, and the context after it (R182). -/
def Context.endTest0 (c : Context) (a : BitVec 64) : Bool × Context :=
  if c.act0 && a == c.le0 then
    if 1 < c.lc0.toNat then (true, { c with lc0 := c.lc0 - 1, pc := c.ls0 }) else (false, { c with lc0 := 0, act0 := false })
  else (false, c)

/-- The end test of level 1. -/
def Context.endTest1 (c : Context) (a : BitVec 64) : Context :=
  if c.act1 && a == c.le1 then
    if 1 < c.lc1.toNat then { c with lc1 := c.lc1 - 1, pc := c.ls1 } else { c with lc1 := 0, act1 := false }
  else c

/-- Both end tests, level 0 first; a loop back stops the testing (R182). -/
def Context.endTests (c : Context) (a : BitVec 64) : Context :=
  let r := c.endTest0 a
  if r.1 then r.2 else r.2.endTest1 a

/-- Where control goes after the bundle at the context's pc: the branch target after the second delay bundle, the jump of a LOOP of count 0, else the next bundle in sequence; then the end tests. -/
def Context.advance (c : Context) (branching : Bool) : Context :=
  let a := c.pc
  let next := c.jump.getD (a + .ofNat 64 c.len)
  let last := c.delay == 2
  let c' : Context := { c with
    pc := if last then c.target.getD next else next
    target := if last then none else c.target
    delay := nextDelay branching c.delay
    jump := none }
  c'.endTests a

/-! ## Decode checks (R338, R353) -/

/-- The cause of a syllable that fails a decode check, privilege included. -/
def decodeCause (supv : Bool) (w : Word) : Option Cause :=
  match decodeSyll w with
  | .bad c v => some { cls := 1, code := c, addr := w, info := .ofNat 32 v }
  | .ok (.pgalloc _) => if supv then none else some { cls := 3, code := 1, addr := w }
  | .ok (.pgfree _) => if supv then none else some { cls := 3, code := 1, addr := w }
  | .ok _ => none

/-- The first syllable that the next bundle at an address needs and the instruction cache lacks: one of its own, or one of the delay bundles that a link needs (R161, R181). -/
def fetchMiss (co : Core) (f : Nat) (supv : Bool) (pc : BitVec 64) : Option Nat :=
  match bundleAt co f pc with
  | .missing _ => some (bundleMiss co f pc)
  | .broken _ _ => none
  | .whole ws =>
    let links := ws.any fun w => match decodeSyll w with
      | .ok i => isLink i
      | .bad _ _ => false
    if !links || ws.any fun w => (decodeCause supv w).isSome then none
    else
      let a1 := pc + .ofNat 64 (8 * ws.length)
      match bundleLen co f a1 with
      | none => some (bundleMiss co f a1)
      | some d1 =>
        let a2 := a1 + .ofNat 64 d1
        match bundleLen co f a2 with
        | none => some (bundleMiss co f a2)
        | some _ => none

/-! ## Retirement (R183, R212, R53, R99) -/

/-- The UNPIN of every pin that a context still holds, behind its earlier copies (R99). -/
def unpinAll (s : State) (c : Context) (k : Core) (ctxId : Nat) : Cmd :=
  { id := s.newId, op := .unpin, eng := 2, ctx := ctxId, task := c.task, func := c.func.toNat, pc := c.pc, ring := none, sub := 1,
    ends := copiesOf k ctxId,
    epoch := s.hub.epoch, step := c.stepno, cycle := s.cycle }

/-- The valid bindings of a context. -/
def Context.bindings (c : Context) : List (BitVec 64) := ([0, 1, 2, 3, 4, 5, 6, 7].map c.B).filter bValid

/-- Release the pins, the bindings and the remote-ring entries of a context as at EXIT (R53, R99, R318). -/
def releaseHeld (core ctxId : Nat) (s : State) : State :=
  let c := getCtx s core ctxId
  let drops := c.bindings.map (refDropOf c (getCore s core) ctxId)
  let u := unpinAll s c (getCore s core) ctxId
  let s := if c.pins.isEmpty then s else State.bump (modCore core (fun k => { k with cmds := k.cmds ++ [u] }) s)
  let s := modCore core (fun k => { k with refDrops := k.refDrops ++ drops }) s
  let s := modCtx core ctxId (fun c => { c with b := [] }) s
  modHub (fun h => { h with bound := h.bound.filter fun e => !(e.core == core && e.ctxId == ctxId && e.task == c.task) }) s

/-- The running context retires: results in flight are discarded, and what it holds is released (R183, R212). -/
def retireCtx (s : State) : State :=
  let s := releaseHeld s.coreId s.ctxId s
  { s with ctx := { s.ctx with life := .retired, flights := [], exiting := false, delay := 0, target := none } }

/-! ## The commit of a bundle (R104, R134, R325) -/

/-- The bookkeeping of the context at the end of its bundle. -/
def Context.endBundle (c : Context) : Context :=
  { c with
    flights := c.flights.map fun f => { f with cnt := f.cnt - 1 }
    latch := (match c.newLatch with
      | some (t, n) => tset 0 c.latch t n
      | none => c.latch)
    newLatch := none
    vstat := []
    xlast := c.xnow
    xnow := false
    issued := c.issued + 1
    yielded := false
    release := .no
    retrying := false
    leadGuard := none }

/-- The first bundle of a task gives its TSTART (Table 6-5). -/
def startTask (t : Nat) (s : State) : State :=
  modHub (fun h => { h with tasks := h.tasks.map fun x =>
    if x.id = t ∧ !x.started then { x with started := true, tstart := s.tick } else x }) s

/-- Everything a bundle does at its end, after the effects of its slots. -/
def commit (branching : Bool) (s : State) : State :=
  let s : State := { s with core := { s.core.stat s.ctx.vstat with freeAt := s.cycle + 1, agedIn := false } }
  let s := startTask s.ctx.task s
  let s : State := { s with ctx := s.ctx.endBundle }
  let s := if s.ctx.exiting then retireCtx s else { s with ctx := s.ctx.advance branching }
  settleRefs s.coreId s

end Sys2Proof.Machine
end

