-- ==== Sys2Proof/Machine/Commands.lean ====
section
/-! DEFINITION. What every engine command shares: its checks at issue, what it captures, and its entry into a queue (R255, R257, R363). -/

namespace Sys2Proof.Machine

/-! ## Staging words (R257) -/

/-- Word `j` of a staging run. -/
def word (l : List (BitVec 64)) (j : Nat) : BitVec 64 := l.getD j 0

/-- Device offset of a device word. -/
def devOff (w : BitVec 64) : Nat := bits w.toNat 39 0
/-- Scratchpad offset of a local word. -/
def locOff (w : BitVec 64) : Nat := bits w.toNat 22 0
/-- Space of a local word: true for the window. -/
def locWin (w : BitVec 64) : Bool := w.getLsbD 24

/-! ## The runs of a CPYA (R259, R260) -/

/-- The index vectors of a CPYA in loop order, i3 outermost (R259, R260). -/
def cpyaRuns (es : List (BitVec 64)) : List (Nat × Nat × Nat) :=
  let c := cpyaCounts es
  (List.range c.2.2).flatMap fun i3 => (List.range c.2.1).flatMap fun i2 => (List.range c.1).map fun i1 => (i1, i2, i3)

/-- Signed stride `k` (1 to 3) of the source or the destination. -/
def cpyaStride (es : List (BitVec 64)) (dst : Bool) (k : Nat) : Int :=
  ((word es (3 + k)).extractLsb' (if dst then 32 else 0) 32).toInt

/-- The offset of a run on a side with base `base`, dimension `skip` left out (0 leaves none out). -/
def cpyaOff (es : List (BitVec 64)) (dst : Bool) (base skip : Nat) (i : Nat × Nat × Nat) : Int :=
  base + ([1, 2, 3].map fun k => if k = skip then 0 else (ixAt i k : Int) * cpyaStride es dst k).sum

/-- FILLB. -/
def cpyaFillb (es : List (BitVec 64)) : Bool := (word es 7).getLsbD 3
/-- SIDE: true for the destination. -/
def cpyaSide (es : List (BitVec 64)) : Bool := (word es 7).getLsbD 4
/-- TBL. -/
def cpyaTbl (es : List (BitVec 64)) : Nat := bits (word es 7).toNat 29 8
/-- FIRST. -/
def cpyaFirst (es : List (BitVec 64)) : Nat := bits (word es 7).toNat 47 32

/-- The side of a CPYA, `dst` or source, that is device memory under direction `d`. -/
def cpyaDev (d : Nat) (dst : Bool) : Bool := if dst then d == 1 else d == 0

/-! ## Reads of a ring still to complete (R140) -/

/-- The local bytes that a command reads, by space, first byte and length: sources, tables, records and requests (R255). -/
def Cmd.sources (m : Cmd) : List (Bool × Nat × Nat) :=
  let loc (n : Nat) : List (Bool × Nat × Nat) := [(locWin (word m.es 0), locOff (word m.es 0), n)]
  match m.op with
  | .cpy => if m.sub = 0 then [] else loc (bits (word m.es 2).toNat 31 0)
  | .cpyw => if m.sub = 0 then [] else loc (bits (word m.es 1).toNat 31 0)
  | .cpya =>
    (if cpyaInd m.es then [(false, cpyaTbl m.es + 8 * cpyaFirst m.es, 8 * ixAt (cpyaCounts m.es) (cpyaDim m.es))] else [])
    ++ (if cpyaDev m.sub false then [] else (cpyaRuns m.es).map fun i =>
      (locWin (word m.es 0), (cpyaOff m.es false (locOff (word m.es 0)) 0 i).toNat, bits (word m.es 2).toNat 31 0))
  | .flapp => loc (4096 * (bits (word m.es 1).toNat 15 8 + 1))
  | .cbrev => [(false, bBase m.ga, bBytes m.ga)]
  | .splice => [(false, m.gb.toNat, 32)]
  | .msg | .task => [(false, m.gb.toNat, 64)]
  | _ => []

/-- A run of local bytes meets the region of a ring with handle `h`. -/
def inRing (h : BitVec 128) (r : Bool × Nat × Nat) : Bool := r.1 == qWin h && r.2.1 < qBase h + qN h * qSize h && qBase h < r.2.1 + r.2.2

/-! ## Paths (R133) -/

/-- Is a handle's access remote (R133)? -/
def hRemote (h : BitVec 64) : Bool := 2 ≤ hTier h

/-- The paths on which a command writes (Table 7-2): those on which its writes may still turn out to be, of an indirect CPYA that has its table to read. -/
def Cmd.writes (m : Cmd) : List Path := match m.op with
  | .cpy => if m.sub == 1 && hRemote m.h then [.fb] else [.cp]
  | .cpya =>
    if m.sub != 1 then [.cp]
    else if cpyaInd m.es then .cp :: (if m.far then [.fb] else [])
    else if hRemote m.h then [.fb] else [.cp]
  | .cpyw => if qRemote (m.h2.setWidth 128) then [.fb] else [.cp]
  | .probeFill | .flapp | .cbind | .share | .pgalloc | .pgfree => [.cp]
  | .splice | .pin => .cp :: (if m.remote then [.fb] else [])
  | .unpin => [if m.remote then .fb else .cp]
  | .enc | .cbrev => [.en]
  | .rmw => [.fb]
  | .msg | .task | .evsig | .drain | .matrix | .slotReturn => []

/-- A matrix operation writes on path MF: an output ring, or the window (Table 7-2). -/
def MEntry.writes (e : MEntry) : Bool := e.op == .mopt || e.op == .mxfer

/-- Identities of the LS writes of context `k` that have not performed: those of the cluster window (R69, R135). -/
def lsWrites (co : Core) (k : Nat) : List Nat := co.window.filterMap fun a => if a.ctx = k ∧ a.read.isEmpty then some a.id else none

/-- Identities of the writes of context `k` on the LS, CP, EN and MF paths that have not performed (R98, R271, R272). -/
def outstandingWrites (co : Core) (k : Nat) : List Nat :=
  (co.cmds.filterMap fun m => if m.ctx = k ∧ m.phase ≠ .done ∧ m.phase ≠ .sent ∧ (m.writes.any fun p => p != .fb) then some m.id else none)
  ++ (co.mqueue.filterMap fun e => if e.ctx = k ∧ e.writes then some e.id else none)
  ++ lsWrites co k

/-- Identities of the writes of context `k` on path `p` that have not performed. -/
def pathWrites (co : Core) (k : Nat) (p : Path) : List Nat :=
  (co.cmds.filterMap fun m => if m.ctx = k ∧ m.phase ≠ .done ∧ m.writes.contains p then some m.id else none)
  ++ (co.mqueue.filterMap fun e => if e.ctx = k ∧ p = .mf ∧ e.writes then some e.id else none)

/-! ## What fills the slots of a ring (R140) -/

/-- The local bytes that a command writes, by space, first byte and length. -/
def Cmd.dests (m : Cmd) : List (Bool × Nat × Nat) :=
  let loc (n : Nat) : List (Bool × Nat × Nat) := [(locWin (word m.es 1), locOff (word m.es 1), n)]
  match m.op with
  | .cpy => if m.sub = 1 then [] else loc (bits (word m.es 2).toNat 31 0)
  | .cpya => if m.sub = 1 then [] else (cpyaRuns m.es).map fun i =>
      (locWin (word m.es 1), (cpyaOff m.es true (locOff (word m.es 1)) 0 i).toNat, bits (word m.es 2).toNat 31 0)
  | .probeFill => [(false, m.gb.toNat, 2048)]
  | .cbind => [(false, bBase m.b1, bBytes m.b1)]
  | .flapp | .cbrev | .share | .pgalloc => [(false, m.gb.toNat, 8)]
  | .splice | .pin => [(false, m.gb.toNat, 32)]
  | .rmw => [(false, bits (word m.es 2).toNat 22 0, 8)]
  | _ => []

/-- The path on which a command writes those bytes. -/
def Cmd.destPath (m : Cmd) : Path := match m.op with
  | .cbrev => .en
  | .rmw => .fb
  | _ => .cp

/-- The local bytes that a matrix operation writes outside the registers: the 256 rows of MXFER's quarter, and the output ring of MOPT. -/
def MEntry.dests (e : MEntry) : List (Bool × Nat × Nat) := match e.op with
  | .mxfer => (List.range 256).map fun m => (true, e.aux + 4 * ((256 * (e.k / 2) + m) * 512 + 256 * (e.k % 2)), 1024)
  | .mopt => [(qWin e.qh, qBase e.qh, qN e.qh * qSize e.qh)]
  | _ => []

/-- A run of local bytes meets the slot of count `n` of a ring. -/
def inSlot (h : BitVec 128) (n : Nat) (r : Bool × Nat × Nat) : Bool := r.1 == qWin h && r.2.1 < qSlot h n + qSize h && qSlot h n < r.2.1 + r.2.2

/-- The slots of the context's local rings, from PROD on, that a command or operation which has performed wrote on a path. -/
def Context.markFilled (c : Context) (p : Path) (runs : List (Bool × Nat × Nat)) : Context :=
  let marks := (List.range 16).flatMap fun r =>
    let q := c.Q r
    if qLocal q && runs.any (inRing q) then
      ((List.range (qN q)).map fun i => (⟨r, (qProd q + i) % 2 ^ 32, p⟩ : RingFill)).filter fun f => runs.any (inSlot q f.count) && !c.filled.contains f
    else []
  { c with filled := c.filled ++ marks }

/-- The paths that have filled slots of counts `first` to `first + n - 1` of ring `r`, or whose outstanding writes still do: writes of the context. DESIGN CHOICE: a slot that another context has written has no path among them (log entry 34). -/
def fillPaths (co : Core) (k : Nat) (c : Context) (r first n : Nat) : List Path :=
  let q := c.Q r
  let meets (l : List (Bool × Nat × Nat)) : Bool := (List.range n).any fun i => l.any (inSlot q ((first + i) % 2 ^ 32))
  [Path.cp, .en, .mf, .fb].filter fun p =>
    (c.filled.any fun f => f.ring == r && f.path == p && decide ((f.count + 2 ^ 32 - first) % 2 ^ 32 < n))
      || (co.cmds.any fun m => m.ctx == k && m.phase != .done && m.destPath == p && meets m.dests)
      || (p == .mf && co.mqueue.any fun e => e.ctx == k && meets e.dests)

/-- Identities of the writes that an ADV.prod of `n` slots of ring `r` waits for: those on the LS path, and those on the paths that filled the slots (R140). -/
def fillWrites (co : Core) (k : Nat) (c : Context) (r first n : Nat) : List Nat :=
  lsWrites co k ++ (fillPaths co k c r first n).flatMap (pathWrites co k)

/-! ## Checks at issue -/

/-- A cause of CLASS 0x06; its ADDR is open (log entry 14). -/
def cause6 (s : State) (ok : Bool) (code : Nat) : List Cause := chk ok 6 code (Config.openAddr s.fresh)

/-- A handle that a command reads, or writes where `write` holds (CODES 0x0003 and 0x0005 of CLASS 0x05, 0x0002 of CLASS 0x08). -/
def handleCause (s : State) (i : Nat) (write : Bool) : List Cause :=
  let h := s.ctx.H i
  if !hValid h then [{ cls := 5, code := 3, addr := .ofNat 64 i }]
  else chk (!write || (hW h && hTier h != 1)) 5 5 (.ofNat 64 i)
    ++ chk (hTier h != 3 || 2 ≤ fSclim s s.ctx.func.toNat) 8 2 (.ofNat 64 i)

/-- Device bytes within the page of a valid handle (CODE 0x0004 of CLASS 0x05): ADDR the first offset outside. -/
def inPage (h : BitVec 64) (runs : List (Nat × Nat)) : List Cause :=
  if hValid h then match firstOutside (hBytes h) runs with
    | none => []
    | some a => [{ cls := 5, code := 4, addr := .ofNat 64 a }]
  else []

/-- A flash read takes whole pages (R257, CODE 0x000B). -/
def flashRead (h : BitVec 64) (write : Bool) (off n : Nat) : List Cause :=
  if hValid h && hTier h == 1 && !write then
    chk (off % 4096 == 0) 5 0xB (.ofNat 64 off) ++ chk (n % 4096 == 0) 5 0xB (.ofNat 64 n)
  else []

/-- A completion ring: valid and local (CODE 0x0007 of CLASS 0x05). -/
def completionRing (s : State) (q : Nat) : List Cause := chk (qLocal (s.ctx.Q q)) 5 7 (.ofNat 64 q)

/-- A value that must be a multiple of `n` (CODE 0x0002 of CLASS 0x05). -/
def aligned (v n : Nat) : List Cause := chk (v % n == 0) 5 2 (.ofNat 64 v)

/-- A result word or record of `n` bytes in the private scratchpad, `al`-byte aligned. -/
def privRecord (off n al : Nat) : List Cause := aligned off al ++ inSpace 0x400000 [(off, n)]

/-- A full queue of engine `e` blocks the bundle (R105, R255). -/
def engineWait (s : State) (e : Nat) : List Block := await (decide (queuedCmds s.core e < queueCap)) (.engine e)

/-- A command of the running context as its bundle captures it. -/
def newCmd (s : State) (op : Op) (eng : Nat) (ring : Option Nat) (remote : Bool := false) : Cmd :=
  { id := s.newId, op := op, eng := eng, ctx := s.ctxId, task := s.ctx.task, func := s.ctx.func.toNat, pc := s.ctx.pc, ring := ring,
    holds := holdsFor s.ctx (engineClass eng), allHolds := if remote then s.ctx.drainAll else [], remoteHolds := remoteHoldsFor s.ctx (engineClass eng) remote, remote := remote,
    epoch := s.hub.epoch, step := s.ctx.stepno, cycle := s.cycle }

/-- Put a command at the end of its queue. -/
def enqueue (m : Cmd) (s : State) : State := State.bump { s with core := { s.core with cmds := s.core.cmds ++ [m] } }

/-- The low 32 bits of a staging or ring word outside its limits (CODE 0x000A of CLASS 0x01). -/
def wordLimit (i : Instr) (ok : Bool) (w : BitVec 64) : List Cause := chk ok 1 0xA (encode i) (w.toNat % 2 ^ 32)

end Sys2Proof.Machine
end

