-- ==== Sys2Proof/Machine/Window.lean ====
section
/-! DEFINITION. What an LD-slot access delivers, and the cluster-window accesses that perform on the sixth cycle after their issue (R69, R70, R136). -/

namespace Sys2Proof.Machine

/-! ## What the bytes of a load become -/

/-- The format of LDC and STC by SUB[1:0] (R244). -/
def codedFmt (f : Nat) : Nat := if f = 0 then 11 else if f = 1 then 9 else 10

/-- Elements of a section in LDC and STC (R251). -/
def codedN (f : Nat) : Nat := if f = 0 then 16 else 32

/-- Groups of an LDC or STC (R251). -/
def codedGroups (f : Nat) (b : BitVec 64) : Nat := 8 * codedN f / bD b

/-- Bytes of the index run of an LDC or STC (R251). -/
def codedBytes (f : Nat) (b : BitVec 64) : Nat := let q := 64 / bW b; 8 * ((codedGroups f b + q - 1) / q)

/-- The section values of an LDC: codewords decoded and rounded to the format (R58, R251). -/
def codedLoad (f : Nat) (b : BitVec 64) (array row : List Byte) : List Nat :=
  let bk : Book := { w := bW b, d := bD b, fmt := bFmt b, scale := bScale b, bytes := array }
  let n := codedN f
  let d := bD b
  sections.map fun sec => packE (512 / n) (fun e =>
    let t := sec * n + e
    (round (fmtOf (codedFmt f)) .rne (bk.qx (packedIndex bk.w row (t / d)) (t % d))).code) n

/-- The results of a load, in the order of its flights, from the bytes read: 0 a scalar, 1 a vector, 2 a W register, 3 a mask register, 4 to 6 LDC in format `shape − 4`. -/
def loadVals (shape : Nat) (arg : BitVec 64) (arg2 bytes : List Byte) : List Nat :=
  match shape with
  | 0 => [ofLeBytes bytes]
  | 1 => sections.map fun sec => ofLeBytes ((bytes.drop (64 * sec)).take 64)
  | 2 => sections.map fun sec => ofLeBytes ((bytes.drop (64 * sec)).take 33)
  | 3 => sections.map fun sec => ofLeBytes ((bytes.drop (8 * sec)).take 8)
  | f => codedLoad (f - 4) arg arg2 bytes

/-- Give each of the flights its value. -/
def fillFlights (fs : List Flight) (vals : List Nat) : List Flight :=
  fs.zipWith (fun f v => { f with val := .ofNat 512 v, wait := 0 }) vals

/-- Deliver values to the flights that wait for access `id`, in order. -/
def deliver (id : Nat) : List Nat → List Flight → List Flight
  | _, [] => []
  | vals, f :: t =>
    if f.wait = id then match vals with
      | v :: vs => { f with val := .ofNat 512 v, wait := 0 } :: deliver id vs t
      | [] => f :: deliver id [] t
    else f :: deliver id vals t

/-- Deliver to a context of a core. A context is saved only once its window accesses have performed (R130). -/
def deliverTo (c k id : Nat) (vals : List Nat) (s : State) : State :=
  modCtx c k (fun x => { x with flights := deliver id vals x.flights }) s

/-! ## Atomics (R252) -/

/-- The new word of an ATOM or RMW of `n` bytes (R252, R275). -/
def atomNew (op n old b cmp : Nat) : Nat :=
  let w := 8 * n
  let so := intOf w true old
  let sb := intOf w true b
  match op with
  | 0 => (old + b) % 2 ^ w
  | 1 => if so ≤ sb then old else b
  | 2 => if sb ≤ so then old else b
  | 3 => old &&& b
  | 4 => old ||| b
  | 5 => old ^^^ b
  | 6 => b
  | _ => if old = cmp then b else old

/-! ## Poison of scratchpad words (R373) -/

/-- The words that a list of stored cells covers whole. -/
def wholeWords (l : List Nat) : List Nat :=
  (l.filter fun x => x % 16 == 0 && (List.range 16).all fun i => l.contains (x + i)).map fun x => x / 16

/-- A whole-word store of the ST slot clears the word's poison. -/
def clearPoison (c : Nat) (win : Bool) (offs : List Nat) (s : State) : State :=
  if win then
    (if (coreIds s).all fun k => (getCore s k).sharedPoison.isEmpty then s
      else (wholeWords offs).foldl (fun s w => modCore (winCore c (16 * w))
        (fun co => { co with sharedPoison := co.sharedPoison.filter (· ≠ winOff (16 * w) / 16) }) s) s)
  else if (getCore s c).scratchPoison.isEmpty then s
  else modCore c (fun co => { co with scratchPoison := co.scratchPoison.filter fun w => !(wholeWords offs).contains w }) s

/-! ## Performing window accesses (R69, R136) -/

/-- A pending access with the core that issued it. -/
abbrev Due := Nat × WinAcc

/-- The place of an access in the order of R136: cycle, reads before writes, COREID. -/
def dueKey (d : Due) : Nat := (d.2.cycle * 2 + if d.2.read.isEmpty then 1 else 0) * 1024 + d.1

/-- Insert an access in the order of R136. -/
def insertDue (d : Due) : List Due → List Due
  | [] => [d]
  | e :: t => if dueKey d < dueKey e then d :: e :: t else e :: insertDue d t

/-- The accesses in the order of R136; those of one core keep their order of issue. -/
def sortDue (l : List Due) : List Due := l.foldl (fun m d => insertDue d m) []

/-- The offsets of the window that an access reads. -/
def WinAcc.reads (a : WinAcc) : List Nat := match a.atom with
  | some (_, x, n, _, _) => (List.range n).map (x + ·)
  | none => a.read

/-- A context has issued a read of a word that has since been poisoned: it takes the fault at its next bundle, or, where it is frozen or has left, the records alone are written (R332; log entry 33). -/
def meetPoison (c k x : Nat) (s : State) : State :=
  let e : Cause := { cls := 9, code := 2, addr := .ofNat 64 x }
  let y := getCtx s c k
  if y.life = .running ∧ y.frozen.isNone then faultAt c k e s else report (srcCtx c k) y.func.toNat (dieOf c) y.pc e s

/-- An access performs whose first poisoned byte is `x`: what it delivers of poisoned words is open, an ATOM stores nothing, and an LDT carries the poison to its tile with one record (R332, R376; log entries 11 and 33). -/
def performPoisoned (d : Due) (x : Nat) (s : State) : State :=
  let c := d.1
  let a := d.2
  let bytes := a.reads.map fun y => if localPoisoned s c true y then lostByte s y else winByte s c y
  let s := s.bump
  match (if a.entry = 0 then none else (getCore s c).mqueue.find? fun e => e.id == a.entry) with
  | some e =>
    report (srcCtx c (e.ctx % 4)) (ownerAt s c e.ctx e.task).func.toNat (dieOf c) e.pc { cls := 9, code := 2, addr := .ofNat 64 x }
      (modCore c (fun k => { k with mqueue := k.mqueue.map fun e => if e.id = a.entry then { e with data := some bytes, bad := true } else e }) s)
  | none => meetPoison c a.ctx x (deliverTo c a.ctx a.id (if a.atom.isSome then [ofLeBytes bytes] else loadVals a.shape a.arg a.arg2 bytes) s)

/-- One access performs that meets no poison. -/
def performWhole (d : Due) (s : State) : State :=
  let c := d.1
  let a := d.2
  match a.atom with
  | some (op, x, n, b, cmp) =>
    let old := ofLeBytes (localRead s c true x n)
    let s := localStore c true (Memory.cellsOf x (leBytes (atomNew op n old b.toNat cmp.toNat) n)) s
    deliverTo c a.ctx a.id [old] s
  | none =>
    if a.read.isEmpty then clearPoison c true (a.write.map (·.1)) (localStore c true a.write s)
    else
      let bytes := a.read.map (winByte s c)
      if a.entry ≠ 0 then
        modCore c (fun k => { k with mqueue := k.mqueue.map fun e => if e.id = a.entry then { e with data := some bytes } else e }) s
      else deliverTo c a.ctx a.id (loadVals a.shape a.arg a.arg2 bytes) s

/-- One access performs (R69, R136). -/
def performAcc (d : Due) (s : State) : State := match d.2.reads.find? (localPoisoned s d.1 true) with
  | some x => performPoisoned d x s
  | none => performWhole d s

/-- The accesses of the given cores that are due. -/
def dueAccs (cs : List Nat) (s : State) : List Due :=
  sortDue (cs.flatMap fun c => ((getCore s c).window.filter fun a => a.cycle ≤ s.cycle).map fun a => (c, a))

/-- Every access of the given cores that is due performs, and the calls that waited for them are posted (R216). -/
def performDue (cs : List Nat) (s : State) : State :=
  let l := dueAccs cs s
  if l.isEmpty then s
  else postCalls (cs.foldl (fun s c => modCore c (fun k => { k with window := k.window.filter fun a => s.cycle < a.cycle }) s)
    (l.foldl (fun s d => performAcc d s) s))

end Sys2Proof.Machine
end

