-- ==== Sys2Proof/Machine/LoadStore.lean ====
section
/-! DEFINITION. The meanings of the LD and ST slots (12_memory_engines, R243 to R254). -/

namespace Sys2Proof.Machine

open Encoding (sreg probePd)

/-! ## Loads -/

/-- Latency of a load: `base` bundles from the private scratchpad, seven more from the window (Table 8-9). -/
def lsLat (win : Bool) (base : Nat) : Nat := if win then base + 7 else base

/-- Offsets of the bytes of runs. -/
def runBytes (runs : List (Nat × Nat)) : List Nat := runs.flatMap fun r => (List.range r.2).map fun i => r.1 + i

/-- The checks of bytes read: within the space, and none poisoned. -/
def readCauses (s : State) (win : Bool) (runs : List (Nat × Nat)) : List Cause :=
  match inSpace (spaceBytes s.coreId win) runs with
  | [] => poisonCause s win (runBytes runs)
  | l => l

/-- A pending window access of the running context, which performs on the sixth cycle after its issue (R69). -/
def newAcc (s : State) : WinAcc := { id := s.newId, ctx := s.ctxId, cycle := s.cycle + 6 }

/-- Put a window access in wait. -/
def addAcc (a : WinAcc) (s : State) : State := State.bump { s with core := { s.core with window := s.core.window ++ [a] } }

/-- A load samples: at once from the private scratchpad (R134), on the sixth cycle from the window (R69). -/
def sample (win : Bool) (ring : Option (Nat × Nat)) (offs : List Nat) (shape : Nat) (arg : BitVec 64) (arg2 : List Byte) (fs : List Flight) (s : State) : State :=
  if win then
    let a : WinAcc := { newAcc s with read := offs, shape := shape, arg := arg, arg2 := arg2, ring := ring }
    let s := addAcc a s
    { s with ctx := s.ctx.fly (fs.map fun f => { f with wait := a.id }) }
  else
    { s with ctx := s.ctx.fly (fillFlights fs (loadVals shape arg arg2 (offs.map fun x => Memory.byte s.core.scratch x))) }

/-- Issue a load of runs of bytes into results that wait for their values. -/
def issueLoad (g : Guard) (waits : List Block) (causes : List Cause) (win : Bool) (ring : Option (Nat × Nat)) (runs : List (Nat × Nat))
    (shape : Nat) (arg : BitVec 64) (arg2 : List Byte) (fs : List Flight) (s : State) : Result :=
  issueOp 5 (sguard g s.ctx) waits (causes ++ readCauses s win runs ++ clashes s.ctx fs)
    (sample win ring (runBytes runs) shape arg arg2 fs) s

/-- Results for all eight sections of a V register, their values to come. -/
def vflights (vd l : Nat) : List Flight := sections.flatMap fun sec => putSec (.v vd sec) 0 (2 ^ 512 - 1) l

/-! ## Stores -/

/-- A store performs: at the end of the bundle in the private scratchpad (R65), on the sixth cycle in the window (R69). A coded one names its binding (R53). -/
def store (win : Bool) (cells : List (Nat × Byte)) (s : State) (via : BitVec 64 := 0) : State :=
  if win then addAcc { newAcc s with write := cells, arg := via } s
  else clearPoison s.coreId false (cells.map (·.1)) { s with core := { s.core with scratch := Memory.store s.core.scratch cells } }

/-- Issue a store of cells; `runs` are the bytes judged against the space. -/
def issueStore (g : Guard) (waits : List Block) (causes : List Cause) (win : Bool) (runs : List (Nat × Nat)) (cells : List (Nat × Byte)) (s : State) : Result :=
  issueOp 6 (sguard g s.ctx) waits (causes ++ inSpace (spaceBytes s.coreId win) runs) (store win cells) s

/-- The bytes of the sections of a V register, in order. -/
def vbytes (s : State) (r : Nat) : List Byte := sections.flatMap fun sec => leBytes (s.ctx.V r sec).toNat 64

/-- Cells of 32 words of 16 bytes (R246). -/
def wordCells (offs : List Nat) (bs : List Byte) : List (Nat × Byte) :=
  (List.range offs.length).flatMap fun j => Memory.cellsOf (offs.getD j 0) ((bs.drop (16 * j)).take 16)

/-! ## Address forms -/

/-- The stride of LDV and STV (R246). -/
def stride (o : LS) (s : State) : Nat := if o.gs = 0 then 16 else (gprNat s.ctx o.gs)
where
  /-- A scalar register as a natural number. -/
  gprNat (c : Context) (r : BitVec 6) : Nat := (c.G r.toNat).toNat

/-- Offsets of the 32 words of a strided access (R246). -/
def strided (a st : Nat) : List Nat := (List.range 32).map fun j => a + j * st

/-- Positions and offsets for the bank scan. -/
def numbered (offs : List Nat) : List (Nat × Nat) := (List.range offs.length).zip offs

/-- The checks of a strided access: alignment of the EA and the stride, and the banks (R246, R350). -/
def stridedCauses (o : LS) (s : State) : List Cause :=
  let a := effAddr o s.ctx
  let st := stride o s
  aligned a 16 ++ chk (st % 16 == 0 && st != 0) 5 2 (.ofNat 64 st) ++ banks (numbered (strided a st))

/-- The element addresses of LDVX and STVX in ascending 16s + e (R247). -/
def gathered (o : LS) (s : State) : List Nat :=
  sections.flatMap fun sec => (List.range 16).map fun e => effAddr o s.ctx + elt (s.ctx.V (o.gs.toNat % 32) sec) 32 e

/-- The checks of a gather or scatter: alignment in order, and the banks (R247, R350). -/
def gatherCauses (o : LS) (s : State) : List Cause :=
  let l := gathered o s
  aligned (effAddr o s.ctx) 4 ++ (match l.find? fun a => a % 4 != 0 with
    | some a => aligned a 4
    | none => []) ++ banks (numbered l)

/-- Runs of one length at each offset. -/
def runsOf (n : Nat) (offs : List Nat) : List (Nat × Nat) := offs.map fun a => (a, n)

/-- The slot index of a ring form (R243). -/
def slotIx (o : LS) : Nat := o.off.toNat % 256

/-- The byte offset within the slot (R243). -/
def slotOff (o : LS) (s : State) : Nat := (s.ctx.G o.gb.toNat).toNat

/-- A consumer ring operand: its waits and causes (R75, R363, R379). -/
def consumer (o : LS) (s : State) : List Block × List Cause :=
  let q := s.ctx.Q o.q.toNat
  if qConsumer q && slotIx o < qN q then consumerWait s o.q.toNat (slotIx o)
  else ([], [{ cls := 5, code := 7, addr := .ofNat 64 o.q.toNat }])

/-- Are the causes of a ring operand such that its slot exists? -/
def ringOk (r : List Block × List Cause) : Bool := r.1.isEmpty && r.2.isEmpty

/-- Offset of the consumer slot of a ring form. -/
def consumerSlot (o : LS) (s : State) : Nat := let q := s.ctx.Q o.q.toNat; qSlot q (qCons q + slotIx o)

/-! ## Tiles (R250) -/

/-- Lines of a tile image and the bytes of a line. -/
def tileLines (w : BitVec 64) : Nat × Nat :=
  if shTr w then (shCols w, shRows w * shZ w) else (shRows w, shCols w * shZ w)

/-- Runs of a tile image at address `a` and pitch `p`. -/
def tileRuns (w : BitVec 64) (a p : Nat) : List (Nat × Nat) := (List.range (tileLines w).1).map fun j => (a + j * p, (tileLines w).2)

/-- The pitch of a form that is not a ring form. -/
def pitch (o : LS) (w : BitVec 64) (s : State) : Nat := if o.gs = 0 then (tileLines w).2 else (s.ctx.G o.gs.toNat).toNat

/-- The tile of an LDT or STT. -/
def lsTile (o : LS) : Nat := o.dr.toNat % 16

/-- Put an entry at the end of the matrix queue and mark the registers it writes (R277, R278). -/
def enterMatrix (e : MEntry) (s : State) : State :=
  let mark {n : Nat} (b : BitVec n) (l : List Nat) : BitVec n := l.foldl (fun b r => b ||| ((1 : BitVec n) <<< r)) b
  State.bump { s with
    core := { s.core with mqueue := s.core.mqueue ++ [e] }
    ctx := { s.ctx with tileUnwaited := mark s.ctx.tileUnwaited e.tilesW, accUnwaited := mark s.ctx.accUnwaited e.accsW } }

/-- A new entry of the matrix queue. -/
def newEntry (s : State) (op : MOp) : MEntry := { id := s.newId, op := op, ctx := s.ctxId, task := s.ctx.task, pc := s.ctx.pc, cycle := s.cycle }

/-- A full matrix queue blocks the bundle (R277). DESIGN CHOICE: an operation counts among the 16 entries until it lands; R277 does not say whether the running one does (log entry 82). -/
def matrixWait (s : State) : List Block := await (decide (s.core.mqueue.length < queueCap)) .matrix

/-- An LDT enters the queue and samples its bytes (R250, R277). -/
def enterLdt (win : Bool) (t : Nat) (w : BitVec 64) (qin : Option (BitVec 128 × Nat × Nat × Nat)) (runs : List (Nat × Nat)) (s : State) : State :=
  let offs := runBytes runs
  let e : MEntry := { newEntry s .ldt with
    ta := t, sa := w, qin := qin, holds := if qin.isSome then holdsFor s.ctx (some 3) else []
    remoteHolds := if qin.isSome then remoteHoldsFor s.ctx (some 3) false else []
    data := if win then none else some (offs.map fun x => Memory.byte s.core.scratch x) }
  let s := enterMatrix e s
  if win then addAcc { newAcc s with read := offs, entry := e.id, ring := qin.map fun q => (q.2.1, q.2.2.1) } s else s

/-! ## Tag table (R71 to R73) -/

/-- The cache of the core is in use (CODE 0x000C of CLASS 0x01; CACHECFG has no register word). -/
def cacheOn (i : Instr) (s : State) : List Cause := chk (s.core.cachecfg.getLsbD 0) 1 0xC (encode i)
/-- NSLOT of CACHECFG. -/
def cacheN (s : State) : Nat := bits s.core.cachecfg.toNat 26 16
/-- SUPSLOT of CACHECFG. -/
def cacheSup (s : State) : Nat := bits s.core.cachecfg.toNat 42 32
/-- Offset of a slot of the cached region (R71). -/
def cacheSlot (s : State) (n : Nat) : Nat := (if s.core.cachecfg.getLsbD 1 then 0x200000 else 0) + 2048 * n
/-- BLOCK of a virtual address. -/
def blockOf (va : Nat) : Nat := bits va 51 11
/-- The entry of a slot holds the block for the function. -/
def tagHit (s : State) (va n : Nat) : Bool :=
  let t := (tget 0 s.core.tags n).toNat
  bits t 0 0 == 1 && bits t 7 3 == s.ctx.func.toNat && bits t 51 11 == blockOf va
/-- The lowest slot that hits (R73). -/
def probeHit (s : State) (va : Nat) : Option Nat := (List.range (cacheN s)).find? (tagHit s va)
/-- A slot that is supervisor-owned while a task names it (R353). -/
def supSlot (s : State) (n : Nat) : List Cause := chk (s.ctx.supv || cacheSup s ≤ n) 3 2 (.ofNat 64 n) (cacheSup s)
/-- A slot that is not below NSLOT, or is supervisor-owned (R353, R363). -/
def slotCauses (s : State) (n : Nat) : List Cause := chk (n < cacheN s) 5 0xA (.ofNat 64 n) ++ supSlot s n

/-- The results of a PROBE. -/
def probeResults (o : LS) (slot : Nat) (miss : Bool) : List Flight :=
  putG (sreg o) (.ofNat 64 slot) 3 ++ putP (probePd o) miss 3

/-! ## The meanings of the LD slot -/

/-- LDS (R245). -/
def execLds (o : LS) (s : State) : Result :=
  let n := 2 ^ o.width.toNat
  let a := effAddr o s.ctx
  issueLoad o.guard [] (aligned a n) (lsWin o) none [(a, n)] 0 0 [] (putG (sreg o) 0 (lsLat (lsWin o) 5)) s

/-- LDV (R246). -/
def execLdv (o : LS) (s : State) : Result :=
  issueLoad o.guard [] (stridedCauses o s) (lsWin o) none (runsOf 16 (strided (effAddr o s.ctx) (stride o s))) 1 0 []
    (vflights o.dr.toNat (lsLat (lsWin o) 5)) s

/-- LDVX (R247). -/
def execLdvx (o : LS) (s : State) : Result :=
  issueLoad o.guard [] (gatherCauses o s) (lsWin o) none (runsOf 4 (gathered o s)) 1 0 [] (vflights o.dr.toNat (lsLat (lsWin o) 5)) s

/-- LDT of an address (R250). -/
def execLdt (o : LS) (s : State) : Result :=
  let t := lsTile o
  let w := s.core.shape t
  let a := effAddr o s.ctx
  let p := pitch o w s
  let runs := tileRuns w a p
  issueOp 5 (sguard o.guard s.ctx) (matrixWait s)
    (ownsTile s t ++ aligned a (shZ w) ++ aligned p (shZ w) ++ readCauses s (lsWin o) runs)
    (enterLdt (lsWin o) t w none runs) s

/-- LDT of a ring slot (R250). As Table 21-5 has it of LDQ and ldt ring alike, a read past the slot's end and within the space gets the bytes as they stand; CODE 0x0001 is for bytes outside the space (R358, R363; log entry 73). -/
def execLdtRing (o : LS) (s : State) : Result :=
  let t := lsTile o
  let w := s.core.shape t
  let q := s.ctx.Q o.q.toNat
  let r := consumer o s
  let a := consumerSlot o s + slotOff o s
  let runs := tileRuns w a (tileLines w).2
  issueOp 5 (sguard o.guard s.ctx) (matrixWait s ++ r.1)
    (ownsTile s t ++ r.2 ++ (if ringOk r then
      aligned (slotOff o s) 16 ++ readCauses s (qWin q) runs else []))
    (enterLdt (qWin q) t w (some (q, o.q.toNat, (qCons q + slotIx o) % 2 ^ 32, a)) runs) s

/-- LDQ (R246). -/
def execLdq (o : LS) (s : State) : Result :=
  let q := s.ctx.Q o.q.toNat
  let r := consumer o s
  let offs := strided (consumerSlot o s + slotOff o s) 16
  let fs := vflights o.dr.toNat (lsLat (qWin q) 5)
  issueOp 5 (sguard o.guard s.ctx) r.1
    (r.2 ++ (if ringOk r then aligned (slotOff o s) 16 ++ readCauses s (qWin q) (runsOf 16 offs) else []) ++ clashes s.ctx fs)
    (sample (qWin q) (some (o.q.toNat, (qCons q + slotIx o) % 2 ^ 32)) (runBytes (runsOf 16 offs)) 1 0 [] fs) s

/-- LDC (R251). -/
def execLdc (o : LS) (s : State) : Result :=
  let f := o.sub.toNat % 4
  let b := s.ctx.B (o.q.toNat % 8)
  let a := effAddr o s.ctx
  let runs := [(a, if bValid b then codedBytes f b else 8)]
  issueLoad o.guard [] (aligned a 8 ++ cause6 s (bValid b) 1 ++ arrayCause s b) (lsWin o) none runs (4 + f) b
    (localRead s s.coreId false (bBase b) (bBytes b)) ((vflights o.dr.toNat (lsLat (lsWin o) 7)).map fun f => { f with via := b }) s

/-- LDW (R248). -/
def execLdw (o : LS) (s : State) : Result :=
  let a := effAddr o s.ctx
  issueLoad o.guard [] (aligned a 64) (lsWin o) none [(a, 512)] 2 0 []
    (sections.flatMap fun sec => putSec (.w (o.dr.toNat % 8) sec) 0 (2 ^ 264 - 1) (lsLat (lsWin o) 5)) s

/-- LDM (R248); an LDM to M0 is discarded. -/
def execLdm (o : LS) (s : State) : Result :=
  let a := effAddr o s.ctx
  let m := o.dr.toNat % 8
  issueLoad o.guard [] (aligned a 8) (lsWin o) none [(a, 64)] 3 0 []
    (if m = 0 then [] else sections.flatMap fun sec => putSec (.m m sec) 0 (2 ^ 64 - 1) (lsLat (lsWin o) 5)) s

/-- LDSTAT (R249). -/
def execLdstat (o : LS) (s : State) : Result :=
  let i := effAddr o s.ctx
  let fs := sections.flatMap fun sec =>
    putSec (.v o.dr.toNat sec) (packE 128 (fun j => (tget 0 s.core.stats ((i + 4 * sec + j) % 16384)).toNat) 4) (2 ^ 512 - 1) 5
  issueFlights 5 (sguard o.guard s.ctx) [] fs s

/-- PROBE (R73, R253). -/
def execProbe (o : LS) (s : State) : Result :=
  let hit := probeHit s (effAddr o s.ctx)
  issueFlights 5 (sguard o.guard s.ctx) (cacheOn (.probe o) s) (probeResults o (hit.getD 0xFFFF) hit.isNone) s

/-- PROBE.fill (R73, R253): on a miss it claims the victim slot and queues the fill. DEDUCED: the fill reads the 2 KiB block that EA lies in, from its own first byte: where EA is not 2 KiB aligned that is the block's address modulo the handle's page size (log entry 32). -/
def execProbeFill (o : LS) (s : State) : Result :=
  let va := effAddr o s.ctx
  let g := (s.ctx.G o.gs.toNat).toNat
  let victim := bits g 10 0
  let hi := bits g 19 16
  let h := s.ctx.H hi
  let q := o.q.toNat
  let hit := probeHit s va
  let fs := probeResults o (hit.getD victim) hit.isNone
  let cmd : Cmd := { newCmd s .probeFill 0 (some q) (hRemote h) with
    h := h, ga := .ofNat 64 (blockOf va * 2048 % hBytes h), gb := .ofNat 64 (cacheSlot s victim), aux := victim }
  let entry : BitVec 64 := .ofNat 64 (1 + 4 + place s.ctx.func.toNat 3 5 + place (blockOf va) 11 41)
  issueOp 5 (sguard o.guard s.ctx) (if hit.isNone then engineWait s 0 else [])
    (cacheOn (.probeFill o) s ++ slotCauses s victim
      ++ (if hit.isNone then handleCause s hi false ++ flashRead h false (blockOf va * 2048 % hBytes h) 2048 ++ completionRing s q else [])
      ++ clashes s.ctx fs)
    (fun s => { (if hit.isNone then
        (let t := enqueue cmd s; { t with core := { t.core with tags := tset 0 t.core.tags victim entry } }) else s)
      with ctx := s.ctx.fly fs }) s

/-! ## The meanings of the ST slot -/

/-- STS (R245). -/
def execSts (o : LS) (s : State) : Result :=
  let n := 2 ^ o.width.toNat
  let a := effAddr o s.ctx
  issueStore o.guard [] (aligned a n) (lsWin o) [(a, n)] (Memory.cellsOf a (leBytes (s.ctx.G (sreg o)).toNat n)) s

/-- STV (R246). -/
def execStv (o : LS) (s : State) : Result :=
  let offs := strided (effAddr o s.ctx) (stride o s)
  issueStore o.guard [] (stridedCauses o s) (lsWin o) (runsOf 16 offs) (wordCells offs (vbytes s o.dr.toNat)) s

/-- STVX (R247): of two elements on the same bytes the later one remains. -/
def execStvx (o : LS) (s : State) : Result :=
  let offs := gathered o s
  let bs := vbytes s o.dr.toNat
  issueStore o.guard [] (gatherCauses o s) (lsWin o) (runsOf 4 offs)
    ((List.range 128).flatMap fun i => Memory.cellsOf (offs.getD i 0) ((bs.drop (4 * i)).take 4)) s

/-- STT (R250, R352, R376). -/
def execStt (o : LS) (s : State) : Result :=
  let t := lsTile o
  let w := s.core.shape t
  let a := effAddr o s.ctx
  let p := pitch o w s
  let len := (tileLines w).2
  let cells := (List.range (tileLines w).1).flatMap fun j =>
    (List.range len).map fun i => (a + j * p + i, tget (0 : Byte) s.core.tile (t * 65536 + j * len + i))
  issueStore o.guard []
    (ownsTile s t ++ aligned a (shZ w) ++ chk (p % shZ w == 0 && len ≤ p) 5 2 (.ofNat 64 p)
      ++ chk (!s.core.tilePoison.getLsbD t) 9 7 (matWord false t) ++ chk (!s.ctx.tileUnwaited.getLsbD t) 2 3 (matWord false t))
    (lsWin o) (tileRuns w a p) cells s

/-- A producer ring operand of STQ: its waits and causes (R254, R140). -/
def producer (o : LS) (s : State) : List Block × List Cause :=
  let q := s.ctx.Q o.q.toNat
  if qLocal q && slotIx o < qN q then (await (decide (slotIx o + 1 ≤ storeFree s.core s.ctx o.q.toNat)) (.ring o.q.toNat (slotIx o) true), [])
  else ([], [{ cls := 5, code := 7, addr := .ofNat 64 o.q.toNat }])

/-- STQ (R246, R254). -/
def execStq (o : LS) (s : State) : Result :=
  let q := s.ctx.Q o.q.toNat
  let r := producer o s
  let offs := strided (qSlot q (qProd q + slotIx o) + slotOff o s) 16
  issueOp 6 (sguard o.guard s.ctx) r.1
    (r.2 ++ if ringOk r then aligned (slotOff o s) 16 ++ inSpace (spaceBytes s.coreId (qWin q)) (runsOf 16 offs) else [])
    (store (qWin q) (wordCells offs (vbytes s o.dr.toNat))) s

/-- The indices of an STC and whether a search raised UNENC (R57, R251). -/
def codedStore (o : LS) (s : State) (b : BitVec 64) : List Nat × Bool :=
  let f := o.sub.toNat % 4
  let n := codedN f
  let qs := (bookAt s s.coreId b).rounded
  let d := bD b
  let r := (List.range (codedGroups f b)).map fun g => search qs ((List.range d).map fun j =>
    let t := g * d + j
    elemVal (codedFmt f) (elt (s.ctx.V o.dr.toNat (t / n)) (512 / n) (t % n)))
  (r.map (·.1), r.any (·.2))

/-- STC (R251). -/
def execStc (o : LS) (s : State) : Result :=
  let f := o.sub.toNat % 4
  let b := s.ctx.B (o.q.toNat % 8)
  let a := effAddr o s.ctx
  issueOp 6 (sguard o.guard s.ctx) []
    (aligned a 8 ++ inSpace (spaceBytes s.coreId (lsWin o)) [(a, if bValid b then codedBytes f b else 8)] ++ cause6 s (bValid b) 1 ++ arrayCause s b)
    (fun s =>
      let r := codedStore o s b
      let t := store (lsWin o) (Memory.cellsOf a (packIndices (bW b) r.1)) s b
      { t with ctx := t.ctx.flag fUNENC r.2 }) s

/-- STW (R248). -/
def execStw (o : LS) (s : State) : Result :=
  let a := effAddr o s.ctx
  issueStore o.guard [] (aligned a 64) (lsWin o) [(a, 512)]
    (sections.flatMap fun sec => Memory.cellsOf (a + 64 * sec) (leBytes (s.ctx.W (o.dr.toNat % 8) sec).toNat 64)) s

/-- STM (R248). -/
def execStm (o : LS) (s : State) : Result :=
  let a := effAddr o s.ctx
  issueStore o.guard [] (aligned a 8) (lsWin o) [(a, 64)]
    (sections.flatMap fun sec => Memory.cellsOf (a + 8 * sec) (leBytes (s.ctx.M (o.dr.toNat % 8) sec).toNat 8)) s

/-- ATOM (R252): at the end of its bundle in the private scratchpad, on its perform cycle in the window (R70). -/
def execAtom (o : LS) (s : State) : Result :=
  let n := if o.width = 2 then 4 else 8
  let a := effAddr o s.ctx
  let win := lsWin o
  let op := o.sub.toNat
  let lo (r : Nat) : Nat := (s.ctx.G r).toNat % 2 ^ (8 * n)
  let b := if op = 7 then lo (sreg o) else lo o.gs.toNat
  let cmp := lo o.gs.toNat
  let fs := putG (sreg o) 0 (lsLat win 5)
  issueOp 6 (sguard o.guard s.ctx) [] (aligned a n ++ readCauses s win [(a, n)] ++ clashes s.ctx fs)
    (fun s =>
      if win then
        let x : WinAcc := { newAcc s with atom := some (op, a, n, .ofNat 64 b, .ofNat 64 cmp) }
        let t := addAcc x s
        { t with ctx := t.ctx.fly (fs.map fun f => { f with wait := x.id }) }
      else
        let old := privNat s s.coreId a n
        let t := store false (Memory.cellsOf a (leBytes (atomNew op n old b cmp) n)) s
        { t with ctx := t.ctx.fly (fillFlights fs [old]) }) s

/-- TAGW (R72, R253). -/
def execTagw (o : LS) (s : State) : Result :=
  let n := effAddr o s.ctx
  let v := s.ctx.G (sreg o)
  issueLocal 6 (sguard o.guard s.ctx) []
    (cacheOn (.tagw o) s ++ slotCauses s n ++ chk (bits v.toNat 10 8 == 0 && bits v.toNat 63 52 == 0) 5 0xA v)
    (fun p => (p.1, { p.2 with tags := tset 0 p.2.tags n v })) s

end Sys2Proof.Machine
end

