-- ==== Sys2Proof/Machine/Matrix.lean ====
section
/-! DEFINITION. The M slot and the matrix engine (13_matrix, R277 to R293; R32 to R35; R59 to R64). -/

namespace Sys2Proof.Machine

/-- Clear bit `r`. -/
def clrBit {n : Nat} (b : BitVec n) (r : Nat) : BitVec n := b &&& ~~~((1 : BitVec n) <<< r)

/-! ## Operands as matrices (R281, R284) -/

/-- Byte `i` of a tile's image. -/
def tileByte (k : Core) (t i : Nat) : Byte := tget 0 k.tile (t * 65536 + i)

/-- A number of `n` bytes in a tile's image. -/
def tileNat (k : Core) (t i n : Nat) : Nat := ofLeBytes ((List.range n).map fun j => tileByte k t (i + j))

/-- The stored index of X[i][j]. -/
def storedIndex (w : BitVec 64) (i j : Nat) : Nat := if shTr w then j * shRows w + i else i * shCols w + j

/-- The exact value of X[i][j] with the scale of its own block; `l` is the scale tile plus one, or 0. -/
def tileVal (k : Core) (t : Nat) (w : BitVec 64) (l i j : Nat) : Val :=
  let x := storedIndex w i j
  let v := elemVal (shFmt w) (tileNat k t (x * shZ w) (shZ w))
  if l = 0 then v else scaled (tileNat k (l - 1) (x / 32) 1) v

/-- The key of an accumulator element. -/
def accKey (a r c : Nat) : Nat := (a * 256 + r) * 256 + c

/-- The FP32 code of an accumulator element. -/
def accAt (k : Core) (key : Nat) : Nat := (tget 0 k.acc key).toNat

/-- The key of result element (m, n) of a result of `rows` rows and `cols` columns at base `a` (R281). -/
def resultKey (a rows cols m n : Nat) : Nat :=
  if 256 < rows ∨ 256 < cols then accKey (a + 2 * (m / 256) + n / 256) (m % 256) (n % 256) else accKey a m n

/-- A value for each result element of an entry. -/
def eachResult (e : MEntry) (f : Nat → Nat → Nat → Nat) : List (Nat × BitVec 32) :=
  (List.range e.m).flatMap fun m => (List.range e.n).map fun n =>
    let key := resultKey e.acc e.m e.n m n
    (key, .ofNat 32 (f m n key))

/-- The cells of 4-byte codes from a byte key. -/
def codeCells (base : Nat) (l : List Nat) : List (Nat × Byte) := Memory.cellsOf base (l.flatMap fun x => leBytes x 4)

/-! ## The segment adder (R33, R34) -/

/-- floor(log2 |p|) of a non-zero finite product. -/
def productExp : Val → Option Int
  | .fin _ m e => if m = 0 then none else some ((Nat.log2 m : Int) + e)
  | _ => none

/-- A finite product cut toward zero to a multiple of 2^g, as that multiple. -/
def truncTo (g : Int) : Val → Int
  | .fin s m e =>
    let x : Int := if g ≤ e then (m <<< (e - g).toNat : Nat) else (m >>> (g - e).toNat : Nat)
    if s then -x else x
  | _ => 0

/-- SEGMENT: the accumulator's code after the exact products `ps` of one segment, with window width `w` (R33). -/
def segment (acc : Nat) (ps : List Val) (w : Nat) : Nat :=
  let cn := FFmt.f32.canonNaN
  let infs := ps.filter fun p => !p.isNaN && !p.isFin
  if (val32 acc).isNaN ∨ ps.any Val.isNaN ∨ (infs.any Val.isNeg ∧ infs.any fun p => !p.isNeg) then cn
  else match infs with
    | p :: _ => rne32 ((val32 acc).add p)
    | [] => match ps.filterMap productExp with
      | [] => acc
      | e :: t =>
        let g := t.foldl max e - w + 1
        let s := (ps.map (truncTo g)).sum
        if s = 0 then acc else rne32 ((val32 acc).add (.fin (decide (s < 0)) s.natAbs g))

/-- The exact sum of terms, rounded once (R59, R61). -/
def sumRound : List Val → Nat
  | [] => 0
  | p :: t => rne32 (t.foldl Val.add p)

/-! ## AdamW (R292, R293) -/

/-- The exact power v^t. -/
def Val.pow : Val → Nat → Val
  | .nan, _ => .nan
  | .inf s, t => .inf (s && t % 2 == 1)
  | .fin s m e, t => .fin (s && t % 2 == 1) (m ^ t) (e * t)

/-- The hyperparameters of Table 13-3, in order LR, B1, C1, B2, C2, EPS, WD. DESIGN CHOICE: where the image of tH is shorter than 32 bytes, they are bytes 0 to 31 of the tile all the same; R292 checks no shape of tH (log entry 87). -/
def hyper (k : Core) (t i : Nat) : Val := val32 (tileNat k t (4 * i) 4)

/-- The record and the master that MOPT writes for record `r` and gradient code `g`; `h` gives the hyperparameters. -/
def adamw (h : Nat → Val) (r g : Nat) : Nat × Nat :=
  let master := val32 (bits r 31 0)
  if bits r 120 120 = 1 then (r, bits r 31 0)
  else
    let gv := val32 g
    let t := min (bits r 119 96 + 1) 0xFFFFFF
    let m := rne32 (((h 1).mul (val32 (bits r 63 32))).add ((h 2).mul gv))
    let v := rne32 (((h 3).mul (val32 (bits r 95 64))).add (((h 4).mul gv).mul gv))
    let one : Val := .fin false 1 0
    let bc1 := rv32 (one.sub ((h 1).pow t))
    let bc2 := rv32 (one.sub ((h 3).pow t))
    let mh := val32 (div32 (val32 m) bc1)
    let vh := val32 (div32 (val32 v) bc2)
    let den := rv32 ((rv32 (sqrtVal vh)).add (h 5))
    let u := val32 (div32 mh den)
    let u := if bits r 121 121 = 1 then u else rv32 (u.add ((h 6).mul master))
    let w := rne32 (master.sub ((h 0).mul u))
    (w + place m 32 32 + place v 64 32 + place t 96 24 + (r >>> 120) <<< 120, w)

/-! ## Peaks (R290, R144) -/

/-- The largest magnitude of the codes that are not NaN, as a code. -/
def maxMag (l : List Nat) : Nat := l.foldl (fun m c => let x := c % 2 ^ 31; if m < x ∧ x ≤ 0x7F800000 then x else m) 0

/-- Drains at the head of the order contribute while their magnitudes are known. -/
def Peak.flushFrom (p : Peak) : List (Nat × Option (BitVec 32)) → Peak
  | [] => { p with pend := [] }
  | (_, some x) :: t =>
    let n := if p.now.toNat < x.toNat then x else p.now
    ({ p with now := n, hist := p.hist ++ [n] } : Peak).flushFrom t
  | l => { p with pend := l }

/-- Contribute what can be contributed. -/
def Peak.flush (p : Peak) : Peak := p.flushFrom p.pend

/-- A drain of accumulator `a` is issued; an MRD knows its magnitude at once. -/
def Core.drain (k : Core) (a id : Nat) (x : Option (BitVec 32)) : Core :=
  let p := tget {} k.peaks a
  { k with peaks := tput k.peaks a ({ p with pend := p.pend ++ [(id, x)] } : Peak).flush }

/-- A queued drain has read its data. -/
def Core.drained (k : Core) (a id : Nat) (x : BitVec 32) : Core :=
  let p := tget {} k.peaks a
  { k with peaks := tput k.peaks a ({ p with pend := p.pend.map fun d => if d.1 = id then (id, some x) else d } : Peak).flush }

/-- Drains that will never be made, those of operations that have left the queue, leave the order of every peak register, and those behind them contribute (R290, R379). -/
def Core.forgetDrains (k : Core) (gone : List Nat) : Core :=
  if gone.isEmpty then k
  else { k with peaks := k.peaks.map fun p => (p.1, ({ p.2 with pend := p.2.pend.filter fun d => !gone.contains d.1 } : Peak).flush) }

/-- The operations of the matrix queue that the test selects and that have not started leave it (R382, R336). -/
def Core.dropQueued (k : Core) (test : MEntry → Bool) : Core :=
  let out (e : MEntry) : Bool := test e && e.res.isNone
  ({ k with mqueue := k.mqueue.filter fun e => !out e } : Core).forgetDrains ((k.mqueue.filter out).map (·.id))

/-- The prefixes that a plain MPEAK of a context may return, and the one it returns: a free value (R144, log entry 7). -/
def peakPrefix (s : State) (a : Nat) : Nat :=
  let n := (tget {} s.core.peaks a).hist.length
  let seen := tget 0 s.ctx.peakSeen a
  seen + Config.peakPick s.fresh % (n + 1 - seen)

/-- The value of a prefix of the drains. -/
def Peak.at_ (p : Peak) (n : Nat) : BitVec 32 := match n with
  | 0 => 0
  | n + 1 => p.hist.getD n p.now

/-! ## Checks -/

/-- A check of operand state (CODE 0x000C of CLASS 0x01): INFO the register word that fails. -/
def limit (i : Instr) (ok : Bool) (reg : BitVec 64) : List Cause := chk ok 1 0xC (encode i) reg.toNat
/-- A check of a ring or binding operand (CODE 0x000D): INFO the index. -/
def operand (i : Instr) (ok : Bool) (n : Nat) : List Cause := chk ok 1 0xD (encode i) n

/-- The scale latch of a tile: the naming tile plus one, or 0 (R285). -/
def latchOf (s : State) (t : Nat) : Nat := tget 0 s.ctx.latch t

/-- The checks of the scale tile that a latch names (R285). -/
def latchCauses (i : Instr) (s : State) (t : Nat) : List Cause :=
  let l := latchOf s t
  if l = 0 then []
  else
    let w := s.core.shape t
    limit i (decide ((shRows w * shCols w + 31) / 32 ≤ shBytes (s.core.shape (l - 1)))) (matWord false (l - 1)) ++ ownsTile s (l - 1)

/-- The quad base of a large result is 0, 4 or 8 (R281). -/
def quadOk (i : Instr) (a rows cols : Nat) : List Cause :=
  limit i (decide (rows ≤ 256 ∧ cols ≤ 256) || a == 0 || a == 4 || a == 8) (matWord true a)

/-- Is a shape an index tile for `n` indices of width `w` (R287)? -/
def indexTile (i : Instr) (s : State) (t n w : Nat) : List Cause :=
  let x := s.core.shape t
  limit i (shFmt x == 1 && !shTr x && decide (8 * ((n + 64 / w - 1) / (64 / w)) ≤ shCols x)) (matWord false t)

/-- Every accumulator is the context's own. -/
def ownsAccs (s : State) (l : List Nat) : List Cause := l.flatMap (ownsAcc s)

/-- The V register of MRD and MWR: bits 46:42 (R280). -/
def mvReg (o : MF) : Nat := o.ta.toNat * 2 + o.tb.toNat / 8
/-- The G register in K[5:0]. -/
def mgReg (o : MF) : Nat := o.k.toNat % 64

/-- The keys of the half row that G[g] addresses (R289). -/
def halfRow (o : MF) (s : State) : List Nat :=
  let g := (s.ctx.G (mgReg o)).toNat
  (List.range 128).map fun j => accKey o.acc.toNat (bits g 7 0) (128 * bits g 8 8 + j)

/-- Issue a queued operation. -/
def queueOp (o : MF) (waits : List Block) (causes : List Cause) (e : MEntry) (drain : Option Nat) (s : State) : Result :=
  issueOp 4 (sguard o.guard s.ctx) (matrixWait s ++ waits) causes
    (fun s => let s := enterMatrix e s
      match drain with
      | some a => { s with core := s.core.drain a e.id none }
      | none => s) s

/-! ## The M slot -/

/-- MZERO (R282). -/
def execMzero (o : MF) (s : State) : Result :=
  queueOp o [] (ownsAcc s o.acc.toNat) { newEntry s .mzero with acc := o.acc.toNat } none s

/-- MOP (R283, R285, R355). -/
def execMop (o : MF) (s : State) : Result :=
  let i := Instr.mop o
  let ta := o.ta.toNat
  let tb := o.tb.toNat
  let a := s.core.shape ta
  let b := s.core.shape tb
  let dense (w : BitVec 64) : Bool := 6 ≤ shFmt w && shFmt w ≤ 10
  let e : MEntry := { newEntry s .mop with
    ta := ta, tb := tb, acc := o.acc.toNat, k := o.k.toNat, sa := a, sb := b, la := latchOf s ta, lb := latchOf s tb }
  queueOp o []
    (limit i (dense a) (matWord false ta) ++ limit i (dense b) (matWord false tb)
      ++ limit i (shCols a == shRows b) (matWord false tb) ++ limit i (decide (16 * o.k.toNat < shCols a)) (matWord false ta)
      ++ quadOk i o.acc.toNat e.m e.n ++ latchCauses i s ta ++ latchCauses i s tb
      ++ ownsTile s ta ++ ownsTile s tb ++ ownsAccs s e.accsW)
    e none s

/-- MPART (R286). -/
def execMpart (o : MF) (s : State) : Result :=
  let i := Instr.mpart o
  let tt := o.ta.toNat
  let tx := o.tb.toNat
  let b := s.ctx.B (o.bind.toNat % 8)
  let t := s.core.shape tt
  let x := s.core.shape tx
  queueOp o []
    (operand i (bValid b) o.bind.toNat
      ++ limit i (6 ≤ shFmt x && shFmt x ≤ 11) (matWord false tx)
      ++ (if bValid b then
        limit i (shRows x % bD b == 0) (matWord false tx)
        ++ limit i (shFmt t == 11 && !shTr t && shRows t == bK b * (shRows x / bD b) && shCols t == shCols x) (matWord false tt) else [])
      ++ latchCauses i s tx ++ ownsTile s tt ++ ownsTile s tx)
    { newEntry s .mpart with ta := tt, tb := tx, sa := t, sb := x, lb := latchOf s tx, b1 := b } none s

/-- MLUT (R287). -/
def execMlut (o : MF) (s : State) : Result :=
  let i := Instr.mlut o
  let tt := o.ta.toNat
  let ti := o.tb.toNat
  let b := s.ctx.B (o.bind.toNat % 8)
  let t := s.core.shape tt
  let e : MEntry := { newEntry s .mlut with
    ta := tt, tb := ti, acc := o.acc.toNat, sa := t, sb := s.core.shape ti, b1 := b }
  queueOp o []
    (operand i (bValid b) o.bind.toNat
      ++ limit i (shFmt t == 11 && !shTr t) (matWord false tt)
      ++ (if bValid b then limit i (shRows t % bK b == 0) (matWord false tt) ++ indexTile i s ti (shRows t / bK b) (bW b) else [])
      ++ quadOk i o.acc.toNat e.m e.n ++ ownsTile s tt ++ ownsTile s ti ++ ownsAccs s e.accsW)
    e none s

/-- MLUT2 (R288). DESIGN CHOICE: INFO of CODE 0x000D gives the index of β where the two bindings have unequal d; Table 21-1 says only 'the index' (log entry 71). -/
def execMlut2 (o : MF) (s : State) : Result :=
  let i := Instr.mlut2 o
  let ta := o.ta.toNat
  let tb := o.tb.toNat
  let ba := s.ctx.B (o.bind.toNat % 8)
  let bb := s.ctx.B (o.q.toNat % 8)
  let n := o.k.toNat + 1
  let e : MEntry := { newEntry s .mlut2 with
    ta := ta, tb := tb, acc := o.acc.toNat, aux := o.aux.toNat, k := n, sa := s.core.shape ta, sb := s.core.shape tb, b1 := ba, b2 := bb }
  queueOp o []
    (operand i (bValid ba) o.bind.toNat ++ operand i (bValid bb) (o.q.toNat % 8)
      ++ operand i (!bValid ba || !bValid bb || bD ba == bD bb) (o.q.toNat % 8)
      ++ (if bValid ba then indexTile i s ta n (bW ba) else []) ++ (if bValid bb then indexTile i s tb n (bW bb) else [])
      ++ quadOk i e.acc e.m e.n ++ ownsTile s ta ++ ownsTile s tb ++ ownsAccs s e.accsW)
    e none s

/-- The decode check of MLUT2: its table accumulator lies outside its result, whose size the shape words give (R288, R338). The guard counts for nothing at decode. -/
def tableCause (w : Word) (o : MF) (s : State) : Option Cause :=
  if (quad o.acc.toNat (shRows (s.core.shape o.ta.toNat)) (shRows (s.core.shape o.tb.toNat))).contains o.aux.toNat then
    some { cls := 1, code := 0xB, addr := w }
  else none

/-- MSCL (R285): the latch changes at the end of the bundle. -/
def execMscl (o : MF) (s : State) : Result :=
  issueCtx 4 (sguard o.guard s.ctx) [] (ownsTile s o.ta.toNat ++ ownsTile s o.tb.toNat)
    (fun c => { c with newLatch := some (o.ta.toNat, if o.ta = o.tb then 0 else o.tb.toNat + 1) }) s

/-- MRD (R289, R290, R352, R376). -/
def execMrd (o : MF) (s : State) : Result :=
  let a := o.acc.toNat
  let row := (halfRow o s).map (accAt s.core)
  let fs := sections.flatMap fun sec => putSec (.v (mvReg o) sec) (packE 32 (fun e => row.getD (16 * sec + e) 0) 16) (2 ^ 512 - 1) 6
  issueOp 4 (sguard o.guard s.ctx) []
    (ownsAcc s a ++ chk (!s.core.accPoison.getLsbD a) 9 7 (matWord true a) ++ chk (!s.ctx.accUnwaited.getLsbD a) 2 3 (matWord true a)
      ++ clashes s.ctx fs)
    (fun s => State.bump { s with ctx := s.ctx.fly fs, core := s.core.drain a s.newId (some (.ofNat 32 (maxMag row))) }) s

/-- MWR (R289). -/
def execMwr (o : MF) (s : State) : Result :=
  let g := (s.ctx.G (mgReg o)).toNat
  queueOp o [] (ownsAcc s o.acc.toNat)
    { newEntry s .mwr with acc := o.acc.toNat, k := bits g 8 0, val := sections.map fun sec => s.ctx.V (mvReg o) sec } none s

/-- The read of a peak register into gd. -/
def readPeak (o : MF) (waits : List Block) (n : Nat) (s : State) : Result :=
  let a := o.acc.toNat
  let fs := putG (mgReg o) (((tget {} s.core.peaks a).at_ n).setWidth 64) 6
  issueOp 4 (sguard o.guard s.ctx) waits (ownsAcc s a ++ clashes s.ctx fs)
    (fun s => State.bump { s with ctx := { s.ctx.fly fs with peakSeen := tset 0 s.ctx.peakSeen a n } }) s

/-- MPEAK (R290): some prefix of the drains, no shorter than the one read before. -/
def execMpeak (o : MF) (s : State) : Result := readPeak o [] (peakPrefix s o.acc.toNat) s

/-- MPEAK.settle (R290): waits for every earlier drain, then the full prefix. -/
def execMpeakSettle (o : MF) (s : State) : Result :=
  let p := tget {} s.core.peaks o.acc.toNat
  readPeak o (await p.pend.isEmpty (.settle o.acc.toNat)) p.hist.length s

/-- MOPT (R292): the input ring's slot is a consumer operand, and reading the gradient is a drain. DESIGN CHOICE: INFO of CODE 0x000D gives the index of qO where the two rings have unequal slot sizes; Table 21-1 says only 'the index' (log entry 71). -/
def execMopt (o : MF) (s : State) : Result :=
  let i := Instr.mopt o
  let qi := o.q.toNat
  let qo := o.aux.toNat
  let hi := s.ctx.Q qi
  let ho := s.ctx.Q qo
  let k := o.k.toNat
  let tm := o.ta.toNat
  let th := o.tb.toNat
  let m := s.core.shape tm
  let r := if qLocal hi && k < qN hi then consumerWait s qi k else ([], [])
  queueOp o r.1
    (operand i (qLocal hi) qi ++ operand i (qLocal ho) qo ++ operand i (qSize hi == qSize ho) qo
      ++ chk (!qLocal hi || k < qN hi) 5 7 (.ofNat 64 qi) ++ r.2
      ++ limit i (shFmt m == 11 && decide (qSize hi / 16 ≤ shRows m * shCols m)) (matWord false tm)
      ++ ownsTile s tm ++ ownsTile s th ++ ownsAcc s o.acc.toNat)
    { newEntry s .mopt with
      ta := tm, tb := th, acc := o.acc.toNat, k := o.bind.toNat, sa := m
      holds := holdsFor s.ctx (some 3), remoteHolds := remoteHoldsFor s.ctx (some 3) false
      qin := some (hi, qi, (qCons hi + k) % 2 ^ 32, qSlot hi (qCons hi + k)), qout := some qo, qh := ho }
    (some o.acc.toNat) s

/-- MXFER (R291): a drain whose quarter goes to the cluster window. -/
def execMxfer (o : MF) (s : State) : Result :=
  let i := Instr.mxfer o
  let g := (s.ctx.G (mgReg o)).toNat
  queueOp o []
    (operand i (qLocal (s.ctx.Q o.q.toNat)) o.q.toNat
      ++ limit i (g % 2048 == 0 && decide (g + 0x100000 ≤ spaceBytes s.coreId true)) (.ofNat 64 (mgReg o))
      ++ ownsAcc s o.acc.toNat)
    { newEntry s .mxfer with
      acc := o.acc.toNat, k := o.aux.toNat % 4, aux := g, qout := some o.q.toNat
      holds := holdsFor s.ctx (some 3), remoteHolds := remoteHoldsFor s.ctx (some 3) false }
    (some o.acc.toNat) s

/-- MWAIT (R279): waits for the queued writers of a tile or accumulator, then clears its unwaited bit. -/
def execMwait (o : MF) (s : State) : Result :=
  let t := o.sub.getLsbD 0
  let r := if t then o.ta.toNat else o.acc.toNat
  let open_ := s.core.mqueue.any fun e => e.ctx == s.ctxId && (if t then e.tilesW else e.accsW).contains r
  issueCtx 4 (sguard o.guard s.ctx) (await (!open_) (.mwait (!t) r)) (if t then ownsTile s r else ownsAcc s r)
    (fun c => if t then { c with tileUnwaited := clrBit c.tileUnwaited r }
      else { c with accUnwaited := clrBit c.accUnwaited r }) s

/-! ## The engine -/

/-- Busy time in cycles (Table 13-1). -/
def MEntry.busy (e : MEntry) : Nat :=
  let up (n d : Nat) : Nat := (n + d - 1) / d
  match e.op with
  | .mzero => 16
  | .mop => max 4 (up (e.m * e.n * 16) (if shZ e.sa = 1 ∧ shZ e.sb = 1 then 16384 else 8192))
  | .mpart => max 4 (up (bK e.b1 * (shRows e.sb / bD e.b1) * shCols e.sb * bD e.b1) 8192)
  | .mlut => max 4 (up (e.m * (shRows e.sa / bK e.b1) * e.n) 16384)
  | .mlut2 => up (bK e.b1 * bK e.b2 * bD e.b1) 8192 + max 4 (up (e.m * e.n * e.k) 16384)
  | .mwr => 2
  | .mxfer => 512
  | .mopt => 8 + up ((match e.qin with | some q => qSize q.1 | none => 0) / 16) 16
  | .ldt => max 2 (up (shBytes e.sa) 512)

/-- Element codes of MOP. -/
def mopResult (k : Core) (e : MEntry) : List (Nat × BitVec 32) :=
  let w := if shZ e.sa = 1 ∧ shZ e.sb = 1 then 25 else 48
  let js := (List.range 16).map (16 * e.k + ·) |>.filter (· < shCols e.sa)
  eachResult e fun m n key =>
    segment (accAt k key) (js.map fun j => (tileVal k e.ta e.sa e.la m j).mul (tileVal k e.tb e.sb e.lb j n)) w

/-- The table of MPART, element by element of its tile (R59, R286). -/
def mpartResult (s : State) (c : Nat) (e : MEntry) : List (Nat × Byte) :=
  let bk := bookAt s c e.b1
  let k := getCore s c
  codeCells (e.ta * 65536) ((List.range (shRows e.sa)).flatMap fun r =>
    let sl := r / bk.k
    (List.range (shCols e.sa)).map fun n =>
      sumRound ((List.range bk.d).map fun i => (bk.qx (r % bk.k) i).mul (tileVal k e.tb e.sb e.lb (sl * bk.d + i) n)))

/-- The packed index `s` of line `m` of an index tile (R46, R287). -/
def tileIndex (k : Core) (t : Nat) (w : BitVec 64) (iw m s : Nat) : Nat :=
  let q := 64 / iw
  tileNat k t (m * shCols w + 8 * (s / q)) 8 >>> (s % q * iw) % 2 ^ iw

/-- Adds in order, each rounded (R60). -/
def addAll (acc : Nat) (l : List Nat) : Nat := l.foldl (fun a x => rne32 ((val32 a).add (val32 x))) acc

/-- MLUT (R60). -/
def mlutResult (k : Core) (e : MEntry) : List (Nat × BitVec 32) :=
  let kk := bK e.b1
  eachResult e fun m n key => addAll (accAt k key) ((List.range (shRows e.sa / kk)).map fun sl =>
    tileNat k e.ta (4 * ((sl * kk + tileIndex k e.tb e.sb (bW e.b1) m sl) * shCols e.sa + n)) 4)

/-- The pair table of MLUT2 (R61). -/
def pairEntry (x y : Book) (a b : Nat) : Nat := sumRound ((List.range x.d).map fun i => (x.qx a i).mul (y.qx b i))

/-- MLUT2 (R61, R288): the pair table into the table accumulator, then the gather. -/
def mlut2Result (s : State) (c : Nat) (e : MEntry) : List (Nat × BitVec 32) :=
  let k := getCore s c
  let x := bookAt s c e.b1
  let y := bookAt s c e.b2
  ((List.range x.k).flatMap fun a => (List.range y.k).map fun b => (accKey e.aux a b, BitVec.ofNat 32 (pairEntry x y a b)))
  ++ eachResult e fun m n key => addAll (accAt k key) ((List.range e.k).map fun sl =>
    pairEntry x y (tileIndex k e.ta e.sa x.w m sl) (tileIndex k e.tb e.sb y.w n sl))

/-- MWR's half row. -/
def mwrResult (e : MEntry) : List (Nat × BitVec 32) :=
  (List.range 128).map fun j => (accKey e.acc (e.k % 256) (128 * (e.k / 256) + j), BitVec.ofNat 32 (elt (e.val.getD (j / 16) 0) 32 (j % 16)))

/-- The codes of a whole accumulator, row by row. -/
def accCodes (k : Core) (a : Nat) : List Nat := (List.range 65536).map fun i => accAt k (a * 65536 + i)

/-- MXFER's window cells (R291). -/
def mxferResult (k : Core) (e : MEntry) : List (Nat × Byte) :=
  (List.range 256).flatMap fun m => codeCells (e.aux + 4 * ((256 * (e.k / 2) + m) * 512 + 256 * (e.k % 2)))
    ((List.range 256).map fun n => accAt k (accKey e.acc m n))

/-- The gradients of MOPT's records (R292). -/
def gradients (k : Core) (e : MEntry) (n : Nat) : List Nat :=
  (List.range n).map fun j => accAt k (accKey e.acc (16 * e.k + j / 256) (j % 256))

/-- Tiles that an operation reads at its start. -/
def MEntry.tilesR (e : MEntry) : List Nat :=
  let l (x : Nat) : List Nat := if x = 0 then [] else [x - 1]
  match e.op with
  | .mop => [e.ta, e.tb] ++ l e.la ++ l e.lb
  | .mpart => e.tb :: l e.lb
  | .mlut | .mlut2 => [e.ta, e.tb]
  | .mopt => [e.tb]
  | _ => []

/-- Accumulators that an operation reads at its start. -/
def MEntry.accsR (e : MEntry) : List Nat := match e.op with
  | .mop | .mlut => quad e.acc e.m e.n
  | .mlut2 => quad e.acc e.m e.n
  | .mxfer | .mopt => [e.acc]
  | _ => []

/-- Runs of a space that an operation reads at its start: codeword arrays and MOPT's slot. -/
def MEntry.runsR (e : MEntry) : Bool × List (Nat × Nat) := match e.op with
  | .mpart => (false, [(bBase e.b1, bBytes e.b1)])
  | .mlut2 => (false, [(bBase e.b1, bBytes e.b1), (bBase e.b2, bBytes e.b2)])
  | .mopt => match e.qin with
    | some q => (qWin q.1, [(q.2.2.2, qSize q.1)])
    | none => (false, [])
  | _ => (false, [])

/-- The first poisoned datum that an operation of core `c` reads, as the cause of its record (R376). -/
def poisonRead (s : State) (c : Nat) (e : MEntry) : Option Cause :=
  let k := getCore s c
  match e.tilesR.find? fun t => k.tilePoison.getLsbD t with
  | some t => some { cls := 9, code := 7, addr := matWord false t }
  | none => match e.accsR.find? fun a => k.accPoison.getLsbD a with
    | some a => some { cls := 9, code := 7, addr := matWord true a }
    | none => ((runBytes e.runsR.2).find? (localPoisoned s c e.runsR.1)).map fun x => { cls := 9, code := 2, addr := .ofNat 64 x }

/-- Commands and matrix operations started on ring `q` of context `k` and not completed (R255). -/
def startedOn (co : Core) (k q : Nat) : Nat :=
  ((ringCmds co k q).countP fun m => m.phase != .queued)
  + (co.mqueue.countP fun e => e.ctx == k && e.qout == some q && e.res.isSome)

/-- The count of the slot of its output ring that an MOPT writes: PROD, and the landed operations whose advance of the ring is still held (R292, R379). -/
def moptSlot (s : State) (c : Nat) (e : MEntry) (q : Nat) : Nat :=
  (qProd ((ownerAt s c e.ctx e.task).Q q) + (ringCmds (getCore s c) e.ctx q).countP fun m => m.op == .matrix) % 2 ^ 32

/-- What an operation of core `c` computes from the data that it reads at its start (R277). -/
def matrixResult (s : State) (c : Nat) (e : MEntry) : MRes :=
  let k := getCore s c
  let r : MRes := { poisoned := (poisonRead s c e).isSome }
  match e.op with
  | .mzero => r
  | .mop => { r with acc := mopResult k e }
  | .mpart => { r with tile := mpartResult s c e }
  | .mlut => { r with acc := mlutResult k e }
  | .mlut2 => { r with acc := mlut2Result s c e }
  | .mwr => { r with acc := mwrResult e }
  | .mxfer => { r with win := mxferResult k e, peak := .ofNat 32 (maxMag (accCodes k e.acc)) }
  | .ldt => r
  | .mopt => match e.qin, e.qout with
    | some (q, _, _, off), some qo =>
      let n := qSize q / 16
      let gs := gradients k e n
      let out := (List.range n).map fun j => adamw (hyper k e.tb) (ofLeBytes (localRead s c (qWin q) (off + 16 * j) 16)) (gs.getD j 0)
      { r with
        tile := codeCells (e.ta * 65536) (out.map (·.2))
        ring := Memory.cellsOf (qSlot e.qh (moptSlot s c e qo)) (out.flatMap fun x => leBytes x.1 16)
        ringWin := qWin e.qh, peak := .ofNat 32 (maxMag gs) }
    | _, _ => r

/-- The head of the matrix queue of core `c` may start on this cycle (R277, R292, R138, R139). -/
def matrixReady (s : State) (c : Nat) : Bool :=
  let k := getCore s c
  match k.mqueue with
  | [] => false
  | e :: _ => e.res.isNone && decide (e.cycle < s.cycle) && decide (k.matrixFree ≤ s.cycle) && e.holds.all (nearDone k) && e.remoteHolds.all (farDone k)
    && (match e.qout with
      | some q => decide (startedOn k e.ctx q + 1 ≤ producerFree k (ownerAt s c e.ctx e.task) q)
      | none => true)

/-- MATRIX_OP_START (R277): the head of the queue starts, reads its data and computes; poison in it is recorded (R376). -/
def execMatrixOpStart (c : Nat) (s : State) : Result :=
  atCore c (fun s => match (getCore s c).mqueue with
    | [] => .next s
    | e :: t => when (matrixReady s c) (fun s =>
      let r := matrixResult s c e
      let e' : MEntry := { e with res := some r, start := s.cycle, data := if e.op = .mopt then some [] else e.data }
      let s' := modCore c (fun k => { k with mqueue := e' :: t }) s
      match poisonRead s c e with
      | some x => report (srcCtx c (e.ctx % 4)) (ownerAt s c e.ctx e.task).func.toNat (dieOf c) e.pc x s'
      | none => s') s) s

/-- The head of the matrix queue of core `c` lands on this cycle: it has been busy its time, and an LDT has its bytes (R277, R250). DESIGN CHOICE: an LDT from space .c whose busy time ends before its bytes come lands, and lets the next start, only once they have come; R277 gives it the earlier cycle and samples later (log entry 82). -/
def matrixDone (s : State) (c : Nat) : Bool := match (getCore s c).mqueue with
  | [] => false
  | e :: _ => e.res.isSome && decide (e.start + e.busy ≤ s.cycle + 1) && (e.op != .ldt || e.data.isSome)

/-- The 16-byte words that cells touch. -/
def wordsOf (l : List (Nat × Byte)) : List Nat := (l.map fun p => p.1 / 16).dedup

/-- Mark the words of cells of a space poisoned (R376). -/
def markPoison (c : Nat) (win : Bool) (l : List (Nat × Byte)) (s : State) : State :=
  (wordsOf l).foldl (fun s w => if win then
      modCore (winCore c (16 * w)) (fun k => { k with sharedPoison := (winOff (16 * w) / 16) :: k.sharedPoison }) s
    else modCore c (fun k => { k with scratchPoison := w :: k.scratchPoison }) s) s

/-- Set the marks of the registers of a bit vector. -/
def setBits {n : Nat} (b : BitVec n) (l : List Nat) : BitVec n := l.foldl (fun b r => b ||| ((1 : BitVec n) <<< r)) b

/-- The registers of the core after an operation lands. -/
def Core.landMatrix (k : Core) (e : MEntry) (r : MRes) : Core :=
  let k := match e.op with
    | .mzero => { k with acc := tclear k.acc (e.acc * 65536) (e.acc * 65536 + 65536), peaks := tput k.peaks e.acc ⟨0, [], (tget ({} : Peak) k.peaks e.acc).pend⟩,
                         accPoison := clrBit k.accPoison e.acc }
    | .ldt =>
      let d := e.data.getD []
      { k with tile := tsetMany 0 k.tile (Memory.cellsOf (e.ta * 65536) d)
               tilePoison := if e.bad then setBits k.tilePoison [e.ta] else if d.length = 65536 then clrBit k.tilePoison e.ta else k.tilePoison }
    | .mxfer => k.drained e.acc e.id r.peak
    | .mopt => k.drained e.acc e.id r.peak
    | _ => k
  let k := { k with tile := tsetMany 0 k.tile r.tile, acc := tsetMany 0 k.acc r.acc }
  if r.poisoned then { k with tilePoison := setBits k.tilePoison e.tilesW, accPoison := setBits k.accPoison e.accsW } else k

end Sys2Proof.Machine
end

