-- ==== Sys2Proof/Machine/Stitch.lean ====
section
/-! DEFINITION. Stitched tensors (05_stitched): the head, the version table, piece lists, SPLICE, PIN, UNPIN, SHARE and the lifetimes of versions and pieces. -/

namespace Sys2Proof.Machine

/-! ## The head and the version table (Tables 5-1 to 5-3) -/

/-- The head at a physical address, as one number; zero where its line has an error, which each command checks first (R332). -/
def headAt (s : State) (a : Nat) : Nat := if (lineBad s a).isSome then 0 else devNat s a 64
/-- EUNIT. -/
def hdEunit (h : Nat) : Nat := bits h 10 0
/-- CURSLOT. -/
def hdSlot (h : Nat) : Nat := bits h 18 16
/-- BUSY. -/
def hdBusy (h : Nat) : Bool := bits h 19 19 == 1
/-- FUNC. -/
def hdFunc (h : Nat) : Nat := bits h 28 24
/-- CURVER. -/
def hdVer (h : Nat) : Nat := bits h 47 32
/-- NPIECE. -/
def hdN (h : Nat) : Nat := bits h 80 64
/-- LEN. -/
def hdLen (h : Nat) : Nat := bits h 127 96
/-- Base virtual address of the area. -/
def hdArea (h : Nat) : Nat := bits h 163 128 <<< 16
/-- ANUM. -/
def hdAnum (h : Nat) : Nat := bits h 208 192

/-- The physical address of version-table slot `j` of the head at `a` (R91). -/
def vslotPa (a j : Nat) : Nat := a + 64 + 32 * j
/-- A version-table slot; zero where its line has an error. -/
def vslot (s : State) (a j : Nat) : Nat := if (lineBad s (vslotPa a j)).isSome then 0 else devNat s (vslotPa a j) 32

/-- Write a version-table slot. -/
def setVslot (a j x : Nat) (s : State) : State := devMerge (vslotPa a j) (leBytes x 32) s
/-- STATE. -/
def vsState (x : Nat) : Nat := bits x 1 0
/-- CUR. -/
def vsCur (x : Nat) : Bool := bits x 2 2 == 1
/-- VER. -/
def vsVer (x : Nat) : Nat := bits x 31 16
/-- PINS. -/
def vsPins (x : Nat) : Nat := bits x 63 32
/-- NPIECE. -/
def vsN (x : Nat) : Nat := bits x 80 64
/-- LEN. -/
def vsLen (x : Nat) : Nat := bits x 127 96
/-- Virtual address of the list. -/
def vsList (x : Nat) : Nat := bits x 163 128 <<< 16

/-- The slot word with another STATE, CUR and PINS. -/
def vsWith (x st : Nat) (cur : Bool) (pins : Nat) : Nat :=
  st + place (if cur then 1 else 0) 2 1 + place (bits x 31 16) 16 16 + place pins 32 32 + (x >>> 64) <<< 64

/-- The eight slots. -/
def vslots : List Nat := [0, 1, 2, 3, 4, 5, 6, 7]

/-- FILL of a piece entry. -/
def peFill (e : Nat) : Nat := bits e 10 0
/-- Virtual page base of a piece entry. -/
def pePage (e : Nat) : Nat := bits e 51 16 <<< 16

/-- The piece list of a slot word, read through the page table of the function, wherever its pages are (R92, R88). DESIGN CHOICE: where a version retires, an entry that cannot be read counts as 0; a command that needs the list is suspended first (log entry 58). -/
def pieces (s : State) (f x : Nat) : List Nat := (List.range (vsN x)).map fun k => (vfind s f (vsList x + 8 * k) 8).getD 0

/-- Why the piece list of a slot word cannot be read (R332; log entry 58). -/
def listCause (s : State) (f x : Nat) : Option Cause := (List.range ((vsN x + 8191) / 8192)).findSome? fun i =>
  keptCause s f (vsList x + 65536 * i) (min 65536 (8 * vsN x - 65536 * i))

/-- The live versions of the tensor whose head stands at `a`, other than slot `skip`. -/
def liveOther (s : State) (a skip : Nat) : List Nat := vslots.filter fun j => j != skip && vsState (vslot s a j) == 1

/-- Does a live version, slot `skip` left out, hold the virtual page (R101)? -/
def holdsPage (s : State) (f a skip page : Nat) : Bool :=
  (liveOther s a skip).any fun j => (pieces s f (vslot s a j)).any fun e => pePage e == page

/-- Why the lists of the live versions of the tensor at `a` cannot be read. -/
def listsCause (s : State) (f a : Nat) : Option Cause := (liveOther s a 8).findSome? fun j => listCause s f (vslot s a j)

/-- Why the lists of the live versions of the tensor at `a`, or the page-table entries of the pages that they name, cannot be read (R332). -/
def piecesCause (s : State) (f a : Nat) : Option Cause := (listsCause s f a).orElse fun _ =>
  ((liveOther s a 8).flatMap fun j => (pieces s f (vslot s a j)).map pePage).dedup.findSome? fun v => (walk s f v).lostCause

/-- MAP(i, v): the piece and the virtual address of element `i` of a piece list (R94). -/
def mapIndex (esize : Nat) : List Nat → Nat → Nat → Nat → Option (Nat × Nat)
  | [], _, _, _ => none
  | e :: t, k, base, i =>
    if i < base + peFill e then some (k, pePage e + (i - base) * esize) else mapIndex esize t (k + 1) (base + peFill e) i

/-! ## Lifetimes (R100, R101) -/

/-- A page leaves the tensor's last live version: its share goes, or it is unmapped and enters quarantine (R101). -/
def releasePiece (f va : Nat) (s : State) : State :=
  match pfnOf s f va with
  | none => forgetReserve f va s
  | some p => if 0 < dShare (desc s p) then freePage p s else releaseVa f va s

/-- A version retires (R100): STATE 2, its list pages are unmapped and freed, its pieces that no live version holds are released, and the slot clears when the list pages have joined the free list. -/
def retireStitch (f a j : Nat) (s : State) : State :=
  let x := vslot s a j
  let pcs := pieces s f x
  let lists := (List.range ((vsN x + 8191) / 8192)).map fun i => vsList x + 65536 * i
  let pfns := lists.filterMap (pfnOf s f)
  let gone := ((pcs.map pePage).filter fun p => !holdsPage s f a j p).dedup
  let s := setVslot a j (vsWith x 2 false 0) s
  let s := lists.foldl (fun s v => releaseVa f v s) s
  let s := gone.foldl (fun s v => releasePiece f v s) s
  if pfns.isEmpty then setVslot a j 0 s
  else { s with hub := { s.hub with linked := ⟨pfns, vslotPa a j, 32⟩ :: s.hub.linked } }

/-- The slot of a version of a number that is live. -/
def stitchSlot (s : State) (a ver : Nat) : Option Nat := vslots.find? fun j => vsState (vslot s a j) == 1 && vsVer (vslot s a j) == ver

/-- Drop one pin on a version (R99), retiring it where it is the last and the version is not current (R100). -/
def dropPin (f a ver : Nat) (s : State) : State :=
  match stitchSlot s a ver with
  | none => s
  | some j =>
    let x := vslot s a j
    let s := setVslot a j (vsWith x 1 (vsCur x) (vsPins x - 1)) s
    if vsPins x ≤ 1 ∧ !vsCur x then retireStitch f a j s else s

/-- `n` pins dropped on a version are its last, and the version is not current: it will retire. -/
def lastPins (s : State) (a ver n : Nat) : Bool := (stitchSlot s a ver).any fun j => decide (vsPins (vslot s a j) ≤ n) && !vsCur (vslot s a j)

/-- The head agrees with the slot that CURSLOT names (R377); before the first SPLICE there is none. -/
def headSound (s : State) (a : Nat) : Bool :=
  let h := headAt s a
  let x := vslot s a (hdSlot h)
  (hdVer h == 0 && !s.hub.heads.contains a) || (vsCur x && vsVer x == hdVer h && vsN x == hdN h && vsLen x == hdLen h)

/-! ## SPLICE (R96, R97, R304) -/

/-- A splice request as the engine reads it (Table 5-4), with its insert entries. -/
structure SpliceReq where
  pos : Nat
  nrem : Nat
  nins : Nat
  ent : Nat
  ins : List Nat
deriving DecidableEq, Repr

/-- Read the request at a private offset of core `c`. -/
def spliceReq (s : State) (c off : Nat) : SpliceReq :=
  let r := privNat s c off 32
  let n := bits r 80 64
  let ent := bits r 114 96 * 8
  { pos := bits r 16 0, nrem := bits r 48 32, nins := n, ent := ent,
    ins := if 0x400000 < ent + 8 * n then [] else (List.range n).map fun i => privNat s c (ent + 8 * i) 8 }

/-- What a SPLICE answers: it fails with a STAT, waits for free pages, or publishes. -/
inductive SpliceOut where
  | stat (code : Nat)
  | wait
  | ok (s : State) (ver : Nat)
deriving DecidableEq, Repr

/-- The pieces of the current version. -/
def currentPieces (s : State) (f a : Nat) : List Nat := let h := headAt s a; if hdVer h = 0 then [] else pieces s f (vslot s a (hdSlot h))

/-- RANGE of Table 22-4, judged on the request, the head and the insert entries (R96, R97). -/
def spliceRange (s : State) (f a : Nat) (r : SpliceReq) (old : List Nat) : Bool :=
  let cap := 1024 / hdEunit (headAt s a)
  (1 ≤ hdEunit (headAt s a) && hdEunit (headAt s a) ≤ 1024)
    && r.ent + 8 * r.nins ≤ 0x400000 && r.pos + r.nrem ≤ old.length && old.length - r.nrem + r.nins ≤ 65536
    && r.ins.all fun e => 1 ≤ peFill e && peFill e ≤ cap
        && (pePage e == 0 || holdsPage s f a 8 (pePage e)
          || (keptFrame s f (pePage e)).any fun p => decide (0 < tget 0 s.hub.prepared p))

/-- Area pages whose entry has V clear, in ascending order (R90). DEDUCED: a page that the reserve zone holds is none of them, whose bytes would be lost (R88; log entry 58). -/
def areaFree (s : State) (f a : Nat) : List Nat :=
  ((List.range (hdAnum (headAt s a))).map fun i => hdArea (headAt s a) + 65536 * i).filter fun v =>
    match pte3Addr s f v with
    | some p => devNat s p 8 % 2 == 0 && !reserved s f v
    | none => false

/-- Map zeroed pages at virtual pages in order (R83, R97). -/
def mapAll (f : Nat) : List Nat → List Nat → State → State
  | v :: vs, p :: ps, s => mapAll f vs ps (mapPage f v p { s with mem := Memory.zero s.mem (p <<< 16) 65536 })
  | _, _, s => s

/-- The first run of `n` consecutive pages of an ascending list of page addresses (R92; log entry 58). -/
def firstRun (n : Nat) : List Nat → Option (List Nat)
  | [] => if n = 0 then some [] else none
  | v :: t =>
    let run := (List.range n).map fun i => v + 65536 * i
    if run.all (v :: t).contains then some run else firstRun n t

/-- Fresh pages named in place of the entries that ask for one; only PAGE of such an entry changes (R97). -/
def fillFresh : List Nat → List Nat → List Nat
  | [], _ => []
  | e :: t, vs => if pePage e = 0 then (match vs with
      | v :: vs' => (e + place (v >>> 16) 16 36) :: fillFresh t vs'
      | [] => e :: fillFresh t [])
    else e :: fillFresh t vs

/-- The number of the next version of a tensor (R93). -/
def nextStitchVer (s : State) (a : Nat) : Nat :=
  freeVer (fun n => vslots.any fun j => vsState (vslot s a j) != 0 && vsVer (vslot s a j) == n) 9 (nextVer (hdVer (headAt s a)))

/-- Write a piece list of 8-byte entries through the page table. -/
def writeList (f list : Nat) (l : List Nat) (s : State) : State :=
  (List.range l.length).foldl (fun s k => match vphys s f (list + 8 * k) with
    | some (a, _) => devMerge a (leBytes (l.getD k 0) 8) s
    | none => s) s

/-- SPLICE of the tensor at `a` for function `f` by stitch engine `src` (R97): every claim judged before any is taken, then the mapping order of R304, the list, the slot, and the publication in one step. -/
def splice (f a src c off : Nat) (s : State) : SpliceOut :=
  let h := headAt s a
  let r := spliceReq s c off
  let old := currentPieces s f a
  if !spliceRange s f a r old then .stat 6
  else
    let plan := old.take r.pos ++ r.ins ++ old.drop (r.pos + r.nrem)
    let nl := (plan.length + 8191) / 8192
    let nf := r.ins.countP fun e => pePage e == 0
    match vslots.find? fun j => vsState (vslot s a j) == 0 with
    | none => .stat 3
    | some j =>
      let area := areaFree s f a
      let foreign := (r.ins.filter fun e => pePage e != 0).any fun e => match pfnOf s f (pePage e) with
        | some p => dOwner (desc s p) != f
        | none => !reserved s f (pePage e)
      if nl + nf ≠ 0 ∧ !withinQuota s f (nl + nf) then .stat 1
      else match (if area.length < nl + nf ∨ foreign then none else firstRun nl area) with
      | none => .stat 5
      | some lists => match takePages f (nl + nf) s with
      | none => .wait
      | some (pfns, s) =>
        let ver := nextStitchVer s a
        let o := hdSlot h
        let ov := vslot s a o
        let vas := lists ++ (area.filter fun v => !lists.contains v).take nf
        let s := mapAll f vas pfns s
        let ins := fillFresh r.ins (vas.drop nl)
        let new := old.take r.pos ++ ins ++ old.drop (r.pos + r.nrem)
        let taken := (new.map pePage).filter fun p => !holdsPage s f a 8 p && !(vas.contains p)
        let s := taken.dedup.foldl (fun s p => match keptFrame s f p with
          | some q => { s with hub := { s.hub with prepared := tset 0 s.hub.prepared q (tget 0 s.hub.prepared q - 1) } }
          | none => s) s
        let list := new.map fun e => bits e 10 0 + place (match pfnOf s f (pePage e) with
          | some q => if 0 < dShare (desc s q) then 1 else 0
          | none => 0) 11 1 + place (pePage e >>> 16) 16 36
        let base := if nl = 0 then 0 else vas.headD 0
        let s := writeList f base list s
        let len := (list.map peFill).sum
        let x := 1 + place 1 2 1 + place ver 16 16 + place list.length 64 17 + place len 96 32 + place (base >>> 16) 128 36
          + place s.tick.toNat 192 64
        let s := setVslot a j x s
        let s := if hdVer h = 0 then s else setVslot a o (vsWith ov 1 false (vsPins ov)) s
        let h' := bits h 10 0 + place j 16 3 + place (if hdVer h = 0 then f else hdFunc h) 24 5 + place ver 32 16
          + place list.length 64 17 + place len 96 32 + place (bits h 163 128) 128 36 + place (bits h 208 192) 192 17
          + place s.tick.toNat 256 64 + place src 320 16
        let s := devPut s a h' 64
        let s := if a ∈ s.hub.heads then s else { s with hub := { s.hub with heads := a :: s.hub.heads } }
        let s := if hdVer h ≠ 0 ∧ vsPins ov = 0 then retireStitch f a o s else s
        let s := localStore c false ((List.range ins.length).flatMap fun i =>
          if pePage (r.ins.getD i 0) = 0 then Memory.cellsOf (r.ent + 8 * i + 2) (leBytes (ins.getD i 0 >>> 16) 5) else []) s
        .ok s ver

/-- The heads with a live version that holds the page frame. -/
def holders (s : State) (pfn : Nat) : List Nat := s.hub.heads.filter fun a =>
  vslots.any fun j => vsState (vslot s a j) == 1 && (pieces s (hdFunc (headAt s a)) (vslot s a j)).any fun e => pfnOf s (hdFunc (headAt s a)) (pePage e) == some pfn

/-- SHARE of the piece at page frame `pfn` (R101, R266, R367): STAT, the new count, and the state after it. -/
def share (pfn : Nat) (s : State) : Nat × Nat × State :=
  let d := desc s pfn
  if (holders s pfn).isEmpty then (8, dShare d, s)
  else if dShare d = 32767 then (2, 32767, s)
  else
    let s := setDesc pfn (mkDesc (dState d) (dOwner d) (dShare d + 1) (dStamp d)) s
    (0, dShare d + 1, { s with hub := { s.hub with prepared := tset 0 s.hub.prepared pfn (tget 0 s.hub.prepared pfn + 1) } })

end Sys2Proof.Machine
end

