-- ==== Sys2Proof/Machine/Engine.lean ====
section
/-! DEFINITION. The E slot at issue: its checks, its waits and what it queues or changes (R255 to R275). -/

namespace Sys2Proof.Machine

/-! ## Staging words (R257) -/

/-- ES[n] onward. -/
def stagingRun (o : EF) (c : Nat) (s : State) : List (BitVec 64) := (List.range c).map fun j => s.ctx.ES (o.es.toNat + j)

/-- The reserved bits of a device word are zero. -/
def devForm (i : Instr) (w : BitVec 64) : List Cause := wordLimit i (bits w.toNat 63 40 == 0) w
/-- The reserved bits of a local word are zero. -/
def locForm (i : Instr) (w : BitVec 64) : List Cause := wordLimit i (bits w.toNat 63 25 == 0 && !w.getLsbD 23) w

/-- A length in bits 31:0, at least one, the rest reserved. -/
def lengthForm (i : Instr) (w : BitVec 64) : List Cause := wordLimit i (bits w.toNat 63 32 == 0 && w != 0) w

/-- The checks of a device side of `n` bytes. -/
def devSide (i : Instr) (s : State) (hi : Nat) (w : BitVec 64) (n : Nat) (write : Bool) : List Cause :=
  devForm i w ++ handleCause s hi write ++ inPage (s.ctx.H hi) [(devOff w, n)] ++ flashRead (s.ctx.H hi) write (devOff w) n

/-- The checks of a local side of `n` bytes. -/
def locSide (i : Instr) (s : State) (w : BitVec 64) (n : Nat) : List Cause :=
  locForm i w ++ inSpace (spaceBytes s.coreId (locWin w)) [(locOff w, n)]

/-- Issue an engine command that names no further effect. -/
def issueCmd (o : EF) (waits : List Block) (causes : List Cause) (m : Cmd) (s : State) : Result :=
  issueOp 7 (sguard o.guard s.ctx) waits causes (enqueue m) s

/-- The tick of the timed form (R129, R255). -/
def atTick (o : EF) (s : State) : Option (BitVec 64) := if o.at_ then some (s.ctx.G o.gt.toNat) else none

/-- Value of G[ga]. -/
def gA (o : EF) (s : State) : BitVec 64 := s.ctx.G o.ga.toNat
/-- Value of G[gb]. -/
def gB (o : EF) (s : State) : BitVec 64 := s.ctx.G o.gb.toNat
/-- The completion ring. -/
def ringC (o : EF) : Nat := o.qc.toNat
/-- The direction of a copy. -/
def dirOf (o : EF) : Nat := o.sub.toNat % 4

/-! ## Copies (R258 to R261) -/

/-- CPY (R258). -/
def execCpy (o : EF) (s : State) : Result :=
  let i := Instr.cpy o
  let es := stagingRun o 3 s
  let hi := o.h.toNat
  let d := dirOf o
  let n := bits (word es 2).toNat 31 0
  let a := word es 0
  let b := word es 1
  let m : Cmd := { newCmd s .cpy 0 (some (ringC o)) (d != 2 && hRemote (s.ctx.H hi)) with
    at_ := atTick o s, sub := d, h := s.ctx.H hi, es := es }
  issueCmd o (engineWait s 0)
    (completionRing s (ringC o) ++ lengthForm i (word es 2)
      ++ (if d = 0 then devSide i s hi a n false else locSide i s a n)
      ++ (if d = 1 then devSide i s hi b n true else locSide i s b n)
      ++ chk (!(d == 2 && locWin a == locWin b && decide (locOff a < locOff b + n) && decide (locOff b < locOff a + n)))
          5 0xC (.ofNat 64 (max (locOff a) (locOff b))))
    m s

/-- The control word is within its limits (R259). -/
def cpyaControl (es : List (BitVec 64)) (d : Nat) : Bool :=
  let w := word es 7
  if cpyaInd es then bits w.toNat 7 5 == 0 && bits w.toNat 31 30 == 0 && bits w.toNat 63 48 == 0
    && cpyaDim es != 0 && (!cpyaFillb es || 2 ≤ cpyaDim es) && d != 2 && (cpyaSide es == (d == 1))
  else w == 0

/-- The first run of `n` bytes that lies outside `limit`: its first offset outside. -/
def runOutside (limit n : Nat) (offs : List Int) : Option (BitVec 64) :=
  (offs.find? fun x => x < 0 || (limit : Int) < x + n).map fun x => if x < 0 then .ofInt 64 x else .ofNat 64 (max x.toNat limit)

/-- A cause at the first run outside. -/
def runCause (code limit n : Nat) (offs : List Int) : List Cause := match runOutside limit n offs with
  | some a => [{ cls := 5, code := code, addr := a }]
  | none => []

/-- The checks of the table of an indirect CPYA: aligned and in the private scratchpad. -/
def cpyaTable (es : List (BitVec 64)) : List Cause :=
  aligned (cpyaTbl es) 8 ++ inSpace 0x400000 [(cpyaTbl es + 8 * cpyaFirst es, 8 * ixAt (cpyaCounts es) (cpyaDim es))]

/-- The checks of one side of a CPYA. Runs whose performance the table decides are judged in the engine (R360). -/
def cpyaSideCauses (i : Instr) (s : State) (o : EF) (es : List (BitVec 64)) (dst : Bool) : List Cause :=
  let d := dirOf o
  let w := word es (if dst then 1 else 0)
  let n := bits (word es 2).toNat 31 0
  let ind := cpyaInd es
  let late := ind && cpyaFillb es
  let hi := o.h.toNat
  let h := s.ctx.H hi
  if cpyaDev d dst then
    if ind then devForm i w ++ (if late then [] else runCause 4 65536 n ((cpyaRuns es).map (cpyaOff es dst (devOff w) (cpyaDim es))))
    else
      let offs := (cpyaRuns es).map (cpyaOff es dst (devOff w) 0)
      devForm i w ++ handleCause s hi dst ++ (if hValid h then
        runCause 4 (hBytes h) n offs ++ (offs.find? (fun x => x % 4096 != 0)).toList.flatMap (fun x => flashRead h dst x.toNat n)
          ++ flashRead h dst 0 n else [])
  else locForm i w ++ (if late then [] else
    runCause 1 (spaceBytes s.coreId (locWin w)) n ((cpyaRuns es).map (cpyaOff es dst (locOff w) 0)))

/-- CPYA (R259). An indirect one makes remote accesses only as its table turns out to name pages of TIER 2 or 3; those wait for what a DRAIN holds (R133, R139; log entry 62). -/
def execCpya (o : EF) (s : State) : Result :=
  let i := Instr.cpya o
  let es := stagingRun o 8 s
  let d := dirOf o
  let h := s.ctx.H o.h.toNat
  let ok := cpyaControl es d
  let m : Cmd := { newCmd s .cpya 0 (some (ringC o)) (d != 2 && ok && !cpyaInd es && hRemote h) with
    at_ := atTick o s, sub := d, h := h, es := es, farHolds := if cpyaInd es then s.ctx.drainAll else [] }
  issueCmd o (engineWait s 0)
    (completionRing s (ringC o) ++ lengthForm i (word es 2) ++ wordLimit i (bits (word es 3).toNat 63 48 == 0) (word es 3)
      ++ wordLimit i ok (word es 7)
      ++ (if ok then (if cpyaInd es then cpyaTable es else []) ++ cpyaSideCauses i s o es false ++ cpyaSideCauses i s o es true else []))
    m s

/-- CPYW (R261): into the next producer slot of a local ring or of the producer end of a remote one. -/
def execCpyw (o : EF) (s : State) : Result :=
  let i := Instr.cpyw o
  let es := stagingRun o 2 s
  let d := dirOf o
  let hi := o.h.toNat
  let q := s.ctx.Q (ringC o)
  let n := bits (word es 1).toNat 31 0
  let m : Cmd := { newCmd s .cpyw 0 (some (ringC o)) ((d == 0 && hRemote (s.ctx.H hi)) || qRemote q) with
    at_ := atTick o s, sub := d, h := s.ctx.H hi, h2 := q.setWidth 64, es := es }
  issueCmd o (engineWait s 0)
    (chk (qValid q && (!qRemote q || qProducer q)) 5 7 (.ofNat 64 (ringC o))
      ++ wordLimit i (bits (word es 1).toNat 63 32 == 0 && n != 0 && (!qValid q || n ≤ qSize q)) (word es 1)
      ++ (if d = 0 then devSide i s hi (word es 0) n false else locSide i s (word es 0) n))
    m s

/-! ## Codebook commands (R262 to R265) -/

/-- Bytes of a coded tensor of `r` rows of `g` indices of width `w` (R46). -/
def codedTensor (w r g : Nat) : Nat := r * (8 * ((g + 64 / w - 1) / (64 / w)))

/-- ENC (R62, R265). DEDUCED: a coded row starts a 64-bit word (R46), so both device offsets are 8-byte aligned (R363; log entry 53). -/
def execEnc (o : EF) (s : State) : Result :=
  let i := Instr.enc o
  let es := stagingRun o 3 s
  let bs := s.ctx.B (o.ga.toNat % 8)
  let bd := s.ctx.B (o.gb.toNat % 8)
  let hs := o.h.toNat
  let hd := bits (word es 1).toNat 63 60
  let h := s.ctx.H hs
  let h2 := s.ctx.H hd
  let g := bits (word es 2).toNat 23 0
  let r := bits (word es 2).toNat 47 24
  let ns := codedTensor (bW bs) r g
  let nd := codedTensor (bW bd) r g
  let a := hBase h + devOff (word es 0)
  let b := hBase h2 + devOff (word es 1)
  let same := a == b && bW bs == bW bd
  let m : Cmd := { newCmd s .enc 1 (some (ringC o)) with at_ := atTick o s, h := h, h2 := h2, es := es, b1 := bs, b2 := bd }
  issueOp 7 (sguard o.guard s.ctx) (engineWait s 1)
    (completionRing s (ringC o) ++ devForm i (word es 0) ++ wordLimit i (bits (word es 1).toNat 59 40 == 0) (word es 1)
      ++ aligned (devOff (word es 0)) 8 ++ aligned (devOff (word es 1)) 8
      ++ wordLimit i (bits (word es 2).toNat 63 48 == 0 && g != 0 && r != 0) (word es 2)
      ++ handleCause s hs false ++ handleCause s hd true
      ++ cause6 s (bValid bs && bValid bd) 1
      ++ (if bValid bs && bValid bd then
        cause6 s (bD bs == bD bd) 5
        ++ inPage h [(devOff (word es 0), ns)] ++ inPage h2 [(devOff (word es 1), nd)]
        ++ cause6 s ((!hValid h || hTier h == 0) && (!hValid h2 || hTier h2 == 0)) 5
        ++ cause6 s (!(hValid h && hValid h2) || same || !(decide (a < b + nd) && decide (b < a + ns))) 5 else []))
    (fun s =>
      let f := s.ctx.func.toNat
      enqueue m (addRef f (bId bd) (bVer bd) (addRef f (bId bs) (bVer bs) s))) s

/-- The version slot that a CBIND takes (R50). -/
def cbindSlot (s : State) (float : Bool) (w : BitVec 64) : Option Nat :=
  let f := s.ctx.func.toNat
  if float then latestSlot s f (bId w) else liveSlot s f (bId w) (bVer w)

/-- CBIND of either kind (R50, R262). Its REFS and VER are the slot's; an entry or a header that cannot be read faults the bundle, with the class of what stands in the way, and one in the reserve zone is expanded first (R88, R332; log entry 57). -/
def cbind (o : EF) (float : Bool) (s : State) : Result :=
  let f := s.ctx.func.toNat
  let b := o.h.toNat % 8
  let w := gA o s
  let slot := cbindSlot s float w
  let bad := (entryCause s f (bId w)).toList
  let x := slotWord s f (bId w) (slot.getD 0)
  let hd := header s f (svHdr x)
  let new := mkBinding (bId w) (svVer x) hd float (bits w.toNat 63 50)
  let m : Cmd := { newCmd s .cbind 0 (some (ringC o)) with aux := b, b1 := new, ga := .ofNat 64 (svHdr x) }
  issueOp 7 (sguard o.guard s.ctx) (engineWait s 0)
    (completionRing s (ringC o) ++ cause6 s (!bValid (s.ctx.B b)) 2 ++ cause6 s (slot.isSome || !bad.isEmpty) 3
      ++ cause6 s (bits w.toNat 49 32 == 0 && (!float || bits w.toNat 31 16 == 0)
          && (slot.isNone || decide (bBase w + bits hd 159 144 ≤ 0x400000))) 4
      ++ bad ++ (if slot.isSome then (readCause s f (svHdr x) 64).toList else []))
    (fun s => enqueue m (addRef f (bId w) (bVer new) { s with ctx := s.ctx.setB b new })) s

/-- CBIND.pin. -/
def execCbindPin (o : EF) (s : State) : Result := cbind o false s
/-- CBIND.float. -/
def execCbindFloat (o : EF) (s : State) : Result := cbind o true s

/-- CBREV (R263). -/
def execCbrev (o : EF) (s : State) : Result :=
  let w := gA o s
  let r := (gB o s).toNat
  let m : Cmd := { newCmd s .cbrev 1 (some (ringC o)) with ga := w, gb := gB o s }
  issueCmd o (engineWait s 1)
    (completionRing s (ringC o) ++ privRecord r 8 8
      ++ cause6 s (bVer w == 0 && !bFloat w && !bValid w && [6, 8, 9, 10].contains (bFmt w) && decide (bBase w + bBytes w ≤ 0x400000)) 4)
    m s

/-- CBRET (R53, R264): VALID alone clears. -/
def execCbret (o : EF) (s : State) : Result :=
  let b := o.h.toNat % 8
  issueLocal 7 (sguard o.guard s.ctx) [] []
    (fun p =>
      let x := p.1.B b
      if bValid x then (p.1.setB b (x &&& ~~~((1 : BitVec 64) <<< 49)), { p.2 with refDrops := p.2.refDrops ++ [refDropOf p.1 p.2 s.ctxId x] }) else p) s

/-! ## Stitch commands (R266) -/

/-- The checks of a descriptor at offset G[ga] of the page of H, which the command writes. DEDUCED: such a write needs W, and a TIER other than 1, as Table 22-2 has it of every write through a handle (log entry 60). -/
def descriptor (o : EF) (s : State) : List Cause :=
  let a := (gA o s).toNat
  handleCause s o.h.toNat true ++ aligned a 64 ++ inPage (s.ctx.H o.h.toNat) [(a, 320)]

/-- Physical address of the head that a stitch command names. -/
def headPa (o : EF) (s : State) : BitVec 64 := .ofNat 64 (hBase (s.ctx.H o.h.toNat) + (gA o s).toNat)

/-- A command of the stitch engine. -/
def stitchCmd (o : EF) (op : Op) (ring : Option Nat) (s : State) : Cmd :=
  { newCmd s op 2 ring (hRemote (s.ctx.H o.h.toNat)) with h := s.ctx.H o.h.toNat, ga := headPa o s, gb := gB o s }

/-- SPLICE of either kind (R96 to R98). -/
def spliceCmd (o : EF) (trap : Bool) (s : State) : Result :=
  let m := stitchCmd o .splice (some (ringC o)) s
  issueCmd o (engineWait s 2)
    (completionRing s (ringC o) ++ descriptor o s ++ privRecord (gB o s).toNat 32 32)
    { m with sub := if trap then 1 else 0, holds := m.holds ++ outstandingWrites s.core s.ctxId } s

/-- SPLICE. -/
def execSplice (o : EF) (s : State) : Result := spliceCmd o false s
/-- SPLICE.trap. -/
def execSpliceTrap (o : EF) (s : State) : Result := spliceCmd o true s

/-- Pins of the context, its PINs still in the engine among them (R99). -/
def pinCount (s : State) : Nat :=
  s.ctx.pins.length + s.core.cmds.countP fun m => m.ctx == s.ctxId && m.op == .pin && m.phase != .done

/-- PIN (R99). -/
def execPin (o : EF) (s : State) : Result :=
  issueCmd o (engineWait s 2)
    (completionRing s (ringC o) ++ descriptor o s ++ privRecord (gB o s).toNat 32 32 ++ cause6 s (decide (pinCount s < 16)) 7)
    (stitchCmd o .pin (some (ringC o)) s) s

/-- An UNPIN may name the pin: it is of this head and version, no UNPIN takes it yet, and the PIN that took it has completed, its ring advance included (R99, R255). -/
def Pin.free (co : Core) (head ver : Nat) (p : Pin) : Bool :=
  p.head == head && p.ver == ver && !p.leaving && co.cmds.all fun m => m.id != p.cmd

/-- The first pin of a list that the test selects, changed. -/
def modPin (test : Pin → Bool) (g : Pin → Pin) : List Pin → List Pin
  | [] => []
  | x :: t => if test x then g x :: t else x :: modPin test g t

/-- UNPIN (R99): the count falls, and the pin goes, once earlier copies have completed. -/
def execUnpin (o : EF) (s : State) : Result :=
  let mine := Pin.free s.core (headPa o s).toNat (bits (gB o s).toNat 15 0)
  issueOp 7 (sguard o.guard s.ctx) (engineWait s 2)
    (descriptor o s ++ cause6 s (s.ctx.pins.any mine) 8)
    (fun s => enqueue { stitchCmd o .unpin none s with ends := copiesOf s.core s.ctxId }
      { s with ctx := { s.ctx with pins := modPin mine (fun p => { p with leaving := true }) s.ctx.pins } }) s

/-- SHARE (R101, R266). -/
def execShare (o : EF) (s : State) : Result :=
  let h := s.ctx.H o.h.toNat
  issueCmd o (engineWait s 2)
    (completionRing s (ringC o) ++ handleCause s o.h.toNat false
      ++ (if hValid h then chk (hPsz h == 0) 5 3 (.ofNat 64 o.h.toNat) else []) ++ privRecord (gB o s).toNat 8 8)
    { newCmd s .share 2 (some (ringC o)) (hRemote h) with h := h, gb := gB o s } s

/-! ## Pages and handles (R267, R268) -/

/-- PGALLOC (R267, R353). -/
def execPgalloc (o : EF) (s : State) : Result :=
  let i := Instr.pgalloc o
  let f := bits (gA o s).toNat 4 0
  issueCmd o (engineWait s 3)
    (chk s.ctx.supv 3 1 (encode i) ++ completionRing s (ringC o) ++ wordLimit i (f ≤ 16) (.ofNat 64 f) ++ privRecord (gB o s).toNat 8 8)
    { newCmd s .pgalloc 3 (some (ringC o)) with ga := .ofNat 64 f, gb := gB o s } s

/-- PGFREE (R267, R353). -/
def execPgfree (o : EF) (s : State) : Result :=
  issueCmd o (engineWait s 3)
    (chk s.ctx.supv 3 1 (encode (.pgfree o)) ++ completionRing s (ringC o))
    { newCmd s .pgfree 3 (some (ringC o)) with ga := .ofNat 64 (bits (gA o s).toNat 51 16) } s

/-- XLAT (R79, R268): it waits until the translation cache holds the page. -/
def execXlat (o : EF) (s : State) : Result :=
  let va := (gA o s).toNat
  let e := tlbFind s.core s.ctx.func.toNat va
  let fs := putReg (.h o.h.toNat) ((e.map (·.handle)).getD 0) 9
  issueCtx 7 (sguard o.guard s.ctx) (await e.isSome (.xlat va)) (clashes s.ctx fs) (fun c => c.fly fs) s

/-- HREL (R268): VALID alone is written, which leaves a clear handle as it is; the result collides as any other (R349). -/
def execHrel (o : EF) (s : State) : Result :=
  issueFlights 7 (sguard o.guard s.ctx) [] [{ dest := .h o.h.toNat, val := 0, mask := 1, cnt := 1 }] s

/-! ## Rings (R269, R270) -/

/-- The amount of an ADV. -/
def advAmount (o : EF) (s : State) : Nat := (gA o s).toNat % 2 ^ 32

/-- Slots from count `n` of ring `r` on that `ids` hold back, behind the holds of a list that still stand. -/
def addHold (done : Nat → Bool) (r n : Nat) (ids : List Nat) (l : List RingHold) : List RingHold :=
  (l.filter fun h => !h.ids.all done) ++ if ids.isEmpty then [] else [⟨r, n, ids⟩]

/-- The marks of filled slots that still stand ahead of PROD, once it is `p` on ring `r` of `n` slots. -/
def keepFilled (r p n : Nat) (l : List RingFill) : List RingFill := l.filter fun f => f.ring != r || decide ((f.count + 2 ^ 32 - p) % 2 ^ 32 < n)

/-- ADV.prod (R269). The new slots are visible only once the context's earlier writes on the LS path and on the paths that filled them have performed (R140). -/
def execAdvProd (o : EF) (s : State) : Result :=
  let r := ringC o
  let q := s.ctx.Q r
  let n := advAmount o s
  issueCtx 7 (sguard o.guard s.ctx) []
    (if n = 0 then [] else chk (qLocal q) 5 7 (.ofNat 64 r) ++ chk (qAvail q + n ≤ qN q) 5 8 (.ofNat 64 n))
    (fun c => if n = 0 then c
      else { c.setQ r (qAdvProd q n) with
        hidden := addHold (performed s.core) r (qProd q) (fillWrites s.core s.ctxId s.ctx r (qProd q) n) c.hidden
        filled := keepFilled r ((qProd q + n) % 2 ^ 32) (qN q) c.filled }) s

/-- The reads of ring `r`'s slots that the running context issued in earlier bundles and that may still be under way, feeds of the matrix engine among them (R140). -/
def slotReads (s : State) (r : Nat) : List Nat :=
  let h := s.ctx.Q r
  (s.core.window.filterMap fun a =>
    let runs := a.read.map (fun x => (x, 1)) ++ (a.atom.map fun t => (t.2.1, t.2.2.1)).toList
    if a.ctx = s.ctxId ∧ a.cycle ≠ s.cycle + 6 ∧ ((a.ring.any fun q => q.1 == r) || runs.any fun x => inRing h (true, x)) then some a.id else none)
  ++ (s.core.cmds.filterMap fun m => if m.ctx = s.ctxId ∧ m.cycle ≠ s.cycle ∧ m.reading ∧ m.sources.any (inRing h) then some m.id else none)
  ++ s.core.mqueue.filterMap fun e =>
    if e.ctx = s.ctxId ∧ e.cycle ≠ s.cycle ∧ e.reading ∧ ((e.qin.any fun q => q.2.1 == r) || e.runsR.2.any fun x => inRing h (e.runsR.1, x)) then
      some e.id else none

/-- The uncorrected error that a read of a remote-ring entry meets, in its own line or in one of the page table (R332). -/
def rrBad (s : State) (f link : Nat) : Option Cause :=
  let va := fblk s f 511 448 + 16 * link
  if fblk s f 528 512 ≤ link then none
  else match walk s f va with
    | .ok l => firstBad s (l.base + va % pageBytes l.psz) 16
    | w => w.lostCause

/-- The remote-ring table entry of a link (Table 19-2); zero beyond RRN, where it is not mapped, or where its line has an error, which each reader checks first. -/
def rrEntry (s : State) (f link : Nat) : Nat :=
  if link < fblk s f 528 512 then (vread s f (fblk s f 511 448 + 16 * link) 16).getD 0 else 0

/-- PEERPKG. -/
def rrPkg (e : Nat) : Nat := bits e 27 16
/-- PEERLINK. -/
def rrLink (e : Nat) : Nat := bits e 47 32
/-- PEERFN. -/
def rrFn (e : Nat) : Nat := bits e 52 48
/-- ROLE. -/
def rrRole (e : Nat) : Bool := bits e 1 1 == 1

/-- The peer of an entry lies on this package. -/
def rrHere (s : State) (e : Nat) : Bool := rrPkg e == s.hub.package.toNat

/-- Does a pair stand: each entry valid and naming the other (R318)? DESIGN CHOICE: with opposite roles, so that no entry pairs with itself and two of one role never pair; R318 does not say (log entry 35). What the entry on another package holds is a free value. -/
def paired (s : State) (f link : Nat) : Bool :=
  let e := rrEntry s f link
  bits e 0 0 == 1 && (if !rrHere s e then Config.farPaired (f * 65536 + link) e else
    (let p := rrEntry s (rrFn e) (rrLink e)
     bits p 0 0 == 1 && rrPkg p == s.hub.package.toNat && rrLink p == link && rrFn p == f && rrRole p != rrRole e))

/-- The uncorrected error that stands in the way of judging a pair: in its entry, or in that of a peer of this package (R332). -/
def pairBad (s : State) (f link : Nat) : Option Cause := (rrBad s f link).orElse fun _ =>
  let e := rrEntry s f link
  if rrHere s e then rrBad s (rrFn e) (rrLink e) else none

/-- The slot returns that `n` slots released on the consumer end `r` give, from count `k` on: each an access of path FB that a DRAIN holds and waits for (R133, R139). It goes to a producer end of this package, or leaves it (R77). -/
def sendReturns (r : Nat) (e : Nat) : Nat → Nat → State → State
  | 0, _, s => s
  | n + 1, k, s =>
    let m : Cmd := { newCmd s .slotReturn 8 none true with phase := .sent, sub := r, aux := k % 2 ^ 32 }
    let s' := enqueue m s
    let s' := if rrHere s e then modHub (fun h => { h with ringMsgs := h.ringMsgs ++ [.ret (rrFn e) (rrLink e) s.coreId s.ctxId r (k % 2 ^ 32) m.id] }) s' else s'
    sendReturns r e n (k + 1) s'

/-- ADV.cons (R269, R77, R140); a remote-ring entry that it cannot read faults the bundle (R332). -/
def execAdvCons (o : EF) (s : State) : Result :=
  let r := ringC o
  let q := s.ctx.Q r
  let n := advAmount o s
  issueOp 7 (sguard o.guard s.ctx) []
    (if n = 0 then [] else chk (qConsumer q) 5 7 (.ofNat 64 r) ++ chk (n ≤ qAvail q) 5 8 (.ofNat 64 n)
      ++ (if qRemote q then (rrBad s s.ctx.func.toNat (qLink q)).toList else []))
    (fun s => if n = 0 then s
      else
        let s := { s with ctx := { s.ctx.setQ r (qAdvCons q n) with held := addHold (readDone s.core) r (qCons q) (slotReads s r) s.ctx.held } }
        if qRemote q then sendReturns r (rrEntry s s.ctx.func.toNat (qLink q)) n (qCons q) s else s) s

/-- A slot return of ring `r` of context `k` of core `c` is on its way, or one to it as the producer end that its handle names. -/
def returning (s : State) (c k r : Nat) : Bool :=
  let x := getCtx s c k
  let q := x.Q r
  ((getCore s c).cmds.any fun m => m.op == .slotReturn && m.ctx == k && m.sub == r)
    || (qValid q && qRemote q && qProducer q && s.hub.ringMsgs.any fun m => match m with
      | .ret f link _ _ _ _ _ => f == x.func.toNat && link == qLink q
      | _ => false)

/-- The entry of a remote ring may be bound by the running context with this role (R318). -/
def mayBind (s : State) (link : Nat) (role : Bool) : Bool :=
  let f := s.ctx.func.toNat
  paired s f link && rrRole (rrEntry s f link) == role
    && s.hub.bound.all fun b => b.key != f * 65536 + link || (b.core == s.coreId && b.ctxId == s.ctxId && b.task == s.ctx.task)

/-- RINGSET (R270, R318). A command that its own bundle issues is none in flight: the check reads the pre-bundle state (R338). An entry of the pair that cannot be read faults the bundle (R332). DESIGN CHOICE: an entry that the context has already bound to another ring is an end of the later ring from then on; R318 does not say (log entry 35). -/
def execRingset (o : EF) (s : State) : Result :=
  let i := Instr.ringset o
  let r := ringC o
  let w := gA o s
  let q : BitVec 128 := (w ||| (1 <<< 63)).setWidth 128
  let key := s.ctx.func.toNat * 65536 + qLink q
  issueOp 7 (sguard o.guard s.ctx) []
    (wordLimit i (bits w.toNat 21 18 ≤ 10 && bits w.toNat 29 22 != 0 && bits w.toNat 62 48 == 0) w
      ++ inSpace (spaceBytes s.coreId (qWin q)) [(qBase q, qN q * qSize q)]
      ++ chk (((ringCmds s.core s.ctxId r).all fun m => m.cycle == s.cycle && m.pc == s.ctx.pc) && !returning s s.coreId s.ctxId r) 5 9 (.ofNat 64 r)
      ++ (if qRemote q then match pairBad s s.ctx.func.toNat (qLink q) with
          | some e => [e]
          | none => chk (mayBind s (qLink q) (qProducer q)) 7 2 (.ofNat 64 (qLink q)) else []))
    (fun s =>
      let s : State := { s with ctx := { s.ctx.setQ r q with
        dropped := s.ctx.dropped.filter fun d => d.ring != r
        hidden := s.ctx.hidden.filter fun d => d.ring != r
        filled := s.ctx.filled.filter fun d => d.ring != r
        held := s.ctx.held.filter fun d => d.ring != r } }
      if qRemote q then modHub (fun h => { h with bound := ⟨key, s.coreId, s.ctxId, s.ctx.task, r⟩ :: h.bound.filter fun b => b.key != key }) s
      else s) s

/-! ## Messages and events (R271, R272, R275) -/

/-- A record-sending command of the message engine, held until every earlier write has performed (R271). It captures BACKOFF as its bundle reads it (R214). -/
def sendCmd (o : EF) (op : Op) (remote : Bool) (s : State) : Cmd :=
  let m := newCmd s op 4 (some (ringC o)) remote
  { m with at_ := atTick o s, ga := gA o s, gb := gB o s, aux := dieOf s.coreId, backoff := s.ctx.backoff, holds := m.holds ++ outstandingWrites s.core s.ctxId }

/-- MSG (R271, R388). -/
def execMsg (o : EF) (s : State) : Result :=
  let away := bits (gA o s).toNat 19 8 != s.hub.package.toNat
  issueCmd o (engineWait s 4)
    (completionRing s (ringC o) ++ privRecord (gB o s).toNat 64 64
      ++ chk (!away || 2 ≤ fSclim s s.ctx.func.toNat) 8 2 (gA o s))
    (sendCmd o .msg away s) s

/-- TASK (R271, R125). -/
def execTask (o : EF) (s : State) : Result :=
  issueCmd o (engineWait s 4) (completionRing s (ringC o) ++ privRecord (gB o s).toNat 64 64) (sendCmd o .task false s) s

/-- EVSIG (R272). -/
def execEvsig (o : EF) (s : State) : Result :=
  let m := newCmd s .evsig 5 none
  issueCmd o (engineWait s 5) []
    { m with at_ := atTick o s, ga := gA o s, gb := gB o s, holds := m.holds ++ outstandingWrites s.core s.ctxId } s

/-- EVWAIT (R120, R272). -/
def execEvwait (o : EF) (s : State) : Result :=
  let i := bits (gA o s).toNat 11 0
  let thr : BitVec 16 := (gB o s).setWidth 16
  issueCtx 7 (sguard o.guard s.ctx) (await (eventMet (counter s s.ctx.func.toNat i) thr) (.event i thr)) [] id s

/-- RMW (R275, R365). It writes, so W must be set (Table 22-2); a TIER of 1 or 2 is R365's own code. -/
def execRmw (o : EF) (s : State) : Result :=
  let i := Instr.rmw o
  let es := stagingRun o 3 s
  let hi := o.h.toNat
  let h := s.ctx.H hi
  let n := if o.sub.getLsbD 3 then 8 else 4
  let off := (gA o s).toNat
  let dst := word es 2
  issueCmd o (engineWait s 4)
    (completionRing s (ringC o) ++ handleCause s hi false
      ++ (if hValid h then chk (hW h) 5 5 (.ofNat 64 hi) ++ inPage h [(off, n)] ++ chk (hRat h && hTier h != 1 && hTier h != 2 && off % n == 0) 5 6 (.ofNat 64 off) else [])
      ++ wordLimit i (bits dst.toNat 63 23 == 0) dst ++ privRecord (bits dst.toNat 22 0) 8 8)
    { newCmd s .rmw 4 (some (ringC o)) true with h := h, ga := gA o s, es := es, sub := o.sub.toNat } s

/-- FLAPP (R274). -/
def execFlapp (o : EF) (s : State) : Result :=
  let i := Instr.flapp o
  let es := stagingRun o 2 s
  let w := word es 0
  let c := word es 1
  let n := 4096 * (bits c.toNat 15 8 + 1)
  issueCmd o (engineWait s 0)
    (completionRing s (ringC o) ++ locForm i w ++ aligned (locOff w) 64 ++ inSpace (spaceBytes s.coreId (locWin w)) [(locOff w, n)]
      ++ wordLimit i (bits c.toNat 7 4 == 0 && bits c.toNat 63 16 == 0) c ++ privRecord (gB o s).toNat 8 8)
    { newCmd s .flapp 0 (some (ringC o)) with at_ := atTick o s, es := es, gb := gB o s } s

/-! ## Scopes, barriers, fences and time (R112 to R115, R138, R139, R273, R388) -/

/-- A scope or level wider than the function's limit. -/
def wider (need : Nat) (s : State) : Bool := fSclim s s.ctx.func.toNat < need

/-- The check of a scope: a wider one faults where FPOL is 1 (R388). -/
def scopeCause (need value : Nat) (s : State) : List Cause :=
  chk (!(wider need s && fFpol s s.ctx.func.toNat)) 8 1 (.ofNat 64 value)

/-- The cause of an operation that would have to follow a suspended command (R379). -/
def followCause (s : State) : List Cause := match suspendedOf s.core s.ctxId with
  | some m => [deferredCause m (m.ring.getD 0)]
  | none => []

/-- FENCE (R138): it holds later commands of the classes of B until the accesses of A have performed; accesses of path FB are of no class (R133). DESIGN CHOICE: accesses of the slots LD, ST and M of its own bundle count as issued before it; R138 does not say (log entry 75). -/
def execFence (o : EF) (s : State) : Result :=
  let sc := o.scope.toNat
  let e : Fence := ⟨o.clb, outstanding s.core s.ctxId o.cla⟩
  issueCtx 7 (sguard o.guard s.ctx) [] (scopeCause sc sc s)
    (fun c => ({ c with fences := (c.fences.filter fun x => !x.ids.all (nearDone s.core)) ++ [e] } : Context).flag fFDOWN (wider sc s)) s

/-- The cause of a DRAIN whose advance would have to follow a suspended access of a path of Table 7-2 (R379). -/
def drainCause (s : State) : List Cause :=
  match s.core.cmds.find? fun m => m.ctx == s.ctxId && m.cause.isSome && (m.cls.isSome || m.remote) with
  | some m => [deferredCause m (m.ring.getD 0)]
  | none => []

/-- DRAIN (R139): a command of the barrier engine that completes on its ring once every earlier access has performed, those of its own bundle among them (DESIGN CHOICE, log entry 75). -/
def execDrain (o : EF) (s : State) : Result :=
  let sc := o.scope.toNat
  let all := outstandingAll s.core s.ctxId
  let m := newCmd s .drain 5 (some (ringC o))
  issueOp 7 (sguard o.guard s.ctx) (engineWait s 5)
    (completionRing s (ringC o) ++ scopeCause sc sc s ++ drainCause s)
    (fun s =>
      let c : Context := { s.ctx with drainRemote := outstandingRemote s.core s.ctxId, drainAll := all }
      enqueue { m with allHolds := all } { s with ctx := c.flag fFDOWN (wider sc s) }) s

/-- The level of a BAR or STEP (R273). -/
def levelOf (o : EF) (s : State) : Nat := if o.sub.toNat % 8 = 7 then bits s.ctx.domain.toNat 8 6 else o.sub.toNat % 8

/-- The scope that a level needs (R388). -/
def levelScope (l : Nat) : Nat := if l = 4 then 1 else if l = 5 then 2 else 0

/-- The checks of a BAR or STEP at a level (R379, R387, R388, R390). -/
def barrierCauses (l : Nat) (s : State) : List Cause :=
  followCause s ++ scopeCause (levelScope l) l s
    ++ chk (!(l == 5 && (!s.hub.aligned || !s.hub.step5Bad.isEmpty))) 8 4 (.ofNat 64 (groupOf s.ctx))
    ++ chk (!(decide (4 ≤ l) && groupBroken s s.ctx)) 8 5 (.ofNat 64 (groupOf s.ctx))

/-- Does the context take part in barriers of a level (MEMB of Table 6-3)? A supervisor core takes part in none (R10). -/
def takesPart (l : Nat) (s : State) : Bool := s.ctx.domain.getLsbD l && !isSupCore s.coreId

/-- A floating binding of the context has a later version to move to, or cannot tell (R52, R332). -/
def stale (s : State) : Bool := [0, 1, 2, 3, 4, 5, 6, 7].any fun i =>
  let b := s.ctx.B i
  bValid b && bFloat b && ((entryCause s s.ctx.func.toNat (bId b)).isSome || match latestSlot s s.ctx.func.toNat (bId b) with
    | some j => svVer (slotWord s s.ctx.func.toNat (bId b) j) != bVer b
    | none => false)

/-- BAR (R114): a failed check faults before the arrival (R386); then the bundle waits for the release. -/
def execBar (o : EF) (s : State) : Result :=
  let l := levelOf o s
  let cs := barrierCauses l s
  issueCtx 7 (sguard o.guard s.ctx) (await (!cs.isEmpty || !takesPart l s || s.ctx.release == .here) (.bar l)) cs
    (fun c => c.flag fFDOWN (wider (levelScope l) s)) s

/-- STEP (R115): as BAR; the release itself advances the counter, re-resolves and pre-empts. Where the context takes no part, it completes once its floating bindings have re-resolved (R52). -/
def execStep (o : EF) (s : State) : Result :=
  let l := levelOf o s
  let cs := barrierCauses l s
  issueCtx 7 (sguard o.guard s.ctx) (await (!cs.isEmpty || (!takesPart l s && !stale s && s.ctx.release == .no) || s.ctx.release == .here) (.step l)) cs
    (fun c => c.flag fFDOWN (wider (levelScope l) s)) s

/-- SYNC (R113). DESIGN CHOICE: on a supervisor core, whose contexts belong to no task, it has no other participant and passes at once (log entry 36). -/
def execSync (o : EF) (s : State) : Result :=
  let cs := followCause s
  issueCtx 7 (sguard o.guard s.ctx) (await (!cs.isEmpty || isSupCore s.coreId || s.ctx.release == .here) .sync) cs id s

/-- TWAIT (R129). -/
def execTwait (o : EF) (s : State) : Result :=
  issueCtx 7 (sguard o.guard s.ctx) (await (decide (gA o s ≤ s.tick)) (.tick (gA o s))) [] id s

end Sys2Proof.Machine
end

