-- ==== Sys2Proof/Machine/Access.lean ====
section
/-! DEFINITION. How engines reach memory: device memory with its errors and step windows, local memory, and addresses through the page table (R78, R116, R257, R259, R370, R373, R375). -/

namespace Sys2Proof.Machine

/-- What an access of an engine comes to: its bytes, or the cause that suspends the command; the state after it either way. -/
inductive Io where
  | ok (s : State) (bs : List Byte)
  | bad (s : State) (c : Cause)
deriving DecidableEq, Repr

/-! ## Step-versioned windows (R116) -/

/-- The step-window entries of a function in use: base virtual address and pages. -/
def stepWindows (s : State) (f : Nat) : List (Nat × Nat) :=
  [0, 1, 2, 3, 4, 5, 6, 7].filterMap fun i => match vread s f (fblk s f 447 384 + 16 * i) 16 with
    | some e => if bits e 0 0 = 1 then some (bits e 51 16 <<< 16, bits e 84 64) else none
    | none => none

/-- Does the page frame back a step window of the function, with a second copy? -/
def inWindow (s : State) (f pfn : Nat) : Bool :=
  tget 0 s.hub.copies pfn != 0 && (stepWindows s f).any fun w => (List.range w.2).any fun i => pfnOf s f (w.1 + 65536 * i) == some pfn

/-- Mask of a stamp word. -/
def stMask (x : BitVec 24) : BitVec 8 := x.setWidth 8
/-- Stamp. -/
def stStamp (x : BitVec 24) : Nat := bits x.toNat 23 8

/-- δ of a copy for step `t`. -/
def delta (t : Nat) (x : BitVec 24) : Nat := if stMask x = 0 then 65536 else (t + 65536 - stStamp x) % 65536

/-- The stamp word of a copy of a line. -/
def stampOf (s : State) (copy1 : Bool) (line : Nat) : BitVec 24 := tget 0 (if copy1 then s.hub.stamp1 else s.hub.stamp0) line

/-- The copy that READ(line, t) returns: true for copy 1. -/
def readCopy (s : State) (line t : Nat) : Bool :=
  let d0 := delta t (stampOf s false line)
  let d1 := delta t (stampOf s true line)
  if d1 = 0 then false else if d0 = 0 then true else d1 < d0

/-- Where a copy of the byte at a physical address lies: copy 0 there, copy 1 in the second page of its page. -/
def copyAddr (s : State) (copy1 : Bool) (a : Nat) : Nat :=
  if copy1 then (tget 0 s.hub.copies (a / 65536) - 1) * 65536 + a % 65536 else a

/-- A byte of a copy. -/
def copyByte (s : State) (copy1 : Bool) (a : Nat) : Byte := devByte s (copyAddr s copy1 a)

/-- Store bytes in a copy. -/
def copyWrite (copy1 : Bool) (a : Nat) (bs : List Byte) (s : State) : State := devWrite s (copyAddr s copy1 a) bs

/-- Set the stamp word of a copy. -/
def setStamp (copy1 : Bool) (line : Nat) (x : BitVec 24) (s : State) : State :=
  if copy1 then { s with hub := { s.hub with stamp1 := tset 0 s.hub.stamp1 line x } }
  else { s with hub := { s.hub with stamp0 := tset 0 s.hub.stamp0 line x } }

/-- The error that an access of a tier meets at an address, as a cause (Table 22-6). -/
def lineError (s : State) (tier a : Nat) : Option Cause := (lineCode s tier a).map fun c => { cls := 9, code := c, addr := .ofNat 64 a }

/-- A line whose error has been met is marked poisoned (R332), and its page will leave the pool when freed (R373). -/
def markMet (a : Nat) (s : State) : State :=
  if (a / 64) ∈ s.hub.badLines then
    { s with hub := { s.hub with badLines := s.hub.badLines.filter (· ≠ a / 64), poison := a / 64 :: s.hub.poison,
                                 oncePoisoned := a / 65536 :: s.hub.oncePoisoned } }
  else s

/-- The line whose uncorrected error a cause names is marked (R332). -/
def Cause.met (e : Cause) (s : State) : State := if e.cls = 9 ∧ (e.code = 1 ∨ e.code = 3 ∨ e.code = 4) then markMet e.addr.toNat s else s

/-- A write that a CXL device ends with CODE 0x0004 leaves its bytes undefined there (R375, log entry 11); any other that fails writes nothing. -/
def undefWrite (e : Cause) (put : List Byte → State → State) (a n : Nat) (s : State) : State :=
  if e.code = 4 then State.bump (put ((List.range n).map fun i => lostByte s (a + i)) s) else s

/-- WRITE(line, w, bytes, t) of bytes within one word at address `a` (R116); a second write of the word in the step fails (R370), and so does one that would take in a line with an error (R373). -/
def windowWrite (tier t a : Nat) (bs : List Byte) (s : State) : Io :=
  let line := a / 64
  let w := a % 64 / 8
  let stands (c : Bool) : Bool := stMask (stampOf s c line) != 0 && stStamp (stampOf s c line) == t % 65536
  let old := stands false || stands true
  let c := if stands false then false else if stands true then true else !readCopy s line (t % 65536)
  let mask : BitVec 8 := if old then stMask (stampOf s c line) else 0
  let src := copyAddr s (if old then c else !c) (line * 64)
  if mask.getLsbD w then .bad s { cls := 6, code := 9, addr := .ofNat 64 (a / 8 * 8) }
  else match lineError s tier src with
  | some e => .bad (undefWrite e (fun l s => copyWrite c a l s) a bs.length (markMet src s)) e
  | none =>
    let s := if old then s else copyWrite c (line * 64) ((List.range 64).map fun i => copyByte s (!c) (line * 64 + i)) s
    .ok (setStamp c line (BitVec.ofNat 16 t ++ (mask ||| ((1 : BitVec 8) <<< w))) (copyWrite c a bs s)) []

/-! ## Errors in stored data (R373 to R375) -/

/-- A walk that met an uncorrected error marks its line. -/
def Walk.met (w : Walk) (s : State) : State := match w with
  | .lost _ pa => markMet pa s
  | _ => s

/-! ## Device memory by physical address -/

/-- Who accesses: the function, the step of its context, and the tier of the page. -/
structure Who where
  f : Nat
  step : Nat
  tier : Nat
deriving DecidableEq, Repr

/-- Read pieces of lines in order. -/
def readChunks (w : Who) : List (Nat × Nat) → State → List Byte → Io
  | [], s, acc => .ok s acc
  | (a, n) :: t, s, acc =>
    let p := if inWindow s w.f (a / 65536) then copyAddr s (readCopy s (a / 64) (w.step % 65536)) a else a
    match lineError s w.tier p with
    | some c => .bad (markMet p s) c
    | none => readChunks w t s (acc ++ devRead s p n)

/-- Read `n` bytes at a physical address. -/
def devIn (w : Who) (a n : Nat) (s : State) : Io := readChunks w (lineChunks 64 a n) s []

/-- The bytes that a write to a device whose link is down leaves: undefined (R375, log entry 11). -/
def lostWrite (a n : Nat) (s : State) : State := State.bump (devWrite s a ((List.range n).map fun i => lostByte s (a + i)))

/-- Do `g` on pieces in order, each with its bytes, up to the first that fails. -/
def eachPiece (g : Nat → List Byte → State → Io) : List (Nat × Nat) → List Byte → State → Io
  | [], _, s => .ok s []
  | (a, n) :: t, bs, s => match g a (bs.take n) s with
    | .ok s' _ => eachPiece g t (bs.drop n) s'
    | r => r

/-- Write bytes within one line: word by word where the line lies in a step window; a write of the whole line elsewhere clears its error. -/
def lineOut (w : Who) (a : Nat) (b : List Byte) (s : State) : Io :=
  if w.tier = 2 ∧ s.hub.cxlDown then .bad (lostWrite a b.length s) { cls := 9, code := 4, addr := .ofNat 64 a }
  else if inWindow s w.f (a / 65536) then eachPiece (windowWrite w.tier w.step) (lineChunks 8 a b.length) b s
  else match (if b.length = 64 then none else lineError s w.tier a) with
  | some c => .bad (undefWrite c (fun l s => devWrite s a l) a b.length (markMet a s)) c
  | none => .ok (devWrite s a b) []

/-- Write bytes at a physical address, line by line. -/
def devOut (w : Who) (a : Nat) (bs : List Byte) (s : State) : Io := eachPiece (lineOut w) (lineChunks 64 a bs.length) bs s

/-! ## The translation cache (R79) -/

/-- The entry of a walk for the page of a virtual address. -/
def tlbEntry (f va : Nat) (l : Leaf) : TlbEnt := ⟨f, (va - va % pageBytes l.psz) / 65536, handleOf f l⟩

/-- Put an entry into a translation cache of 1,024 entries; a full one loses an entry of any choice (R79, log entry 5). -/
def fillTlb (n : Nat) (e : TlbEnt) (t : List TlbEnt) : List TlbEnt :=
  e :: if 1024 ≤ t.length then t.eraseIdx (Config.tlbVictim n % t.length) else t

/-- Fill the translation cache of core `c` with a leaf. -/
def tlbFill (c f va : Nat) (l : Leaf) (s : State) : State :=
  State.bump (modCore c (fun co => { co with tlb := fillTlb s.fresh (tlbEntry f va l) co.tlb }) s)

/-! ## The sides of a transfer (R257, R259) -/

/-- A place that a run of bytes comes from or goes to. -/
inductive Side where
  /-- An offset in the page of a handle. -/
  | dev (h : BitVec 64) (off : Nat)
  /-- An offset of a space of the core. -/
  | loc (win : Bool) (off : Nat)
  /-- A virtual address of the function, by the translation cache where `cached` holds (R259). -/
  | va (cached : Bool) (a : Nat)
deriving DecidableEq, Repr

/-- The accessor of a command through a tier. -/
def Cmd.who (m : Cmd) (tier : Nat) : Who := ⟨m.func, m.step.toNat, tier⟩

/-- The page of a virtual address as a handle, from the translation cache of core `c` where the access uses it, else from a walk, which fills it (R79, R259, R361). -/
def engineXlate (c : Nat) (m : Cmd) (cached : Bool) (a : Nat) (s : State) : State × Except Cause (BitVec 64) :=
  match (if cached then tlbFind (getCore s c) m.func a else none) with
  | some e => (s, .ok e.handle)
  | none => match walk s m.func a with
    | .ok l => (if cached then tlbFill c m.func a l s else s, .ok (handleOf m.func l))
    | w => (w.met s, .error ((w.cause false a).getD { cls := 4, code := 1, addr := .ofNat 64 a }))

/-- What a page allows an engine's access of `n` bytes at a virtual address (R361, R363): its physical address and tier, or the cause. -/
def engineCheck (s : State) (m : Cmd) (h : BitVec 64) (a n : Nat) (write : Bool) : Except Cause (Nat × Nat) :=
  let tier := hTier h
  if write ∧ (hW h = false ∨ tier = 1) then .error { cls := 5, code := 5, addr := .ofNat 64 a }
  else if tier = 1 ∧ (a % 4096 ≠ 0 ∨ n % 4096 ≠ 0) then .error { cls := 5, code := 0xB, addr := .ofNat 64 (if a % 4096 ≠ 0 then a else n) }
  else if tier = 3 ∧ fSclim s m.func < 2 then .error { cls := 8, code := 2, addr := .ofNat 64 a }
  else .ok (hBase h + a % hBytes h, tier)

/-- Translate and check a virtual address for an engine. -/
def engineWalk (c : Nat) (m : Cmd) (cached : Bool) (a n : Nat) (write : Bool) (s : State) : State × Except Cause (Nat × Nat) :=
  match engineXlate c m cached a s with
  | (s, .ok h) => (s, engineCheck s m h a n write)
  | (s, .error e) => (s, .error e)

/-- The cause of a poisoned word among local bytes that an engine reads (R332, CODE 0x0002). -/
def localCause (s : State) (c : Nat) (win : Bool) (off n : Nat) : Option Cause :=
  (((List.range n).map (off + ·)).find? (localPoisoned s c win)).map fun x => { cls := 9, code := 2, addr := .ofNat 64 x }

/-- Read local bytes; a poisoned word suspends. -/
def localIn (c : Nat) (win : Bool) (off n : Nat) (s : State) : Io := match localCause s c win off n with
  | some e => .bad s e
  | none => .ok s (localRead s c win off n)

/-- Store local bytes. -/
def localOut (c : Nat) (win : Bool) (off : Nat) (bs : List Byte) (s : State) : State := localStore c win (Memory.cellsOf off bs) s

/-- Read `n` bytes of a side for a command of core `c`. -/
def sideIn (c : Nat) (m : Cmd) (x : Side) (n : Nat) (s : State) : Io := match x with
  | .dev h off => devIn (m.who (hTier h)) (hBase h + off) n s
  | .loc win off => localIn c win off n s
  | .va t a => match engineWalk c m t a n false s with
    | (s, .ok p) => devIn (m.who p.2) p.1 n s
    | (s, .error e) => .bad s e

/-- Write bytes to a side. -/
def sideOut (c : Nat) (m : Cmd) (x : Side) (bs : List Byte) (s : State) : Io := match x with
  | .dev h off => devOut (m.who (hTier h)) (hBase h + off) bs s
  | .loc win off => .ok (localOut c win off bs s) []
  | .va t a => match engineWalk c m t a bs.length true s with
    | (s, .ok p) => devOut (m.who p.2) p.1 bs s
    | (s, .error e) => .bad s e

/-- Copy `n` bytes from one side to the other. -/
def copyRun (c : Nat) (m : Cmd) (a b : Side) (n : Nat) (s : State) : Io := match sideIn c m a n s with
  | .ok s bs => sideOut c m b bs s
  | r => r

/-- A result word of 8 bytes in the private scratchpad. -/
def putWord (c off v : Nat) (s : State) : State := localOut c false off (leBytes v 8) s

/-! ## CPYA (R259, R260, R362) -/

/-- Entry `j` of a CPYA's table: as the engine has read it, else as it stands. -/
def cpyaEntry (s : State) (c : Nat) (m : Cmd) (j : Nat) : Nat := match m.claim[j]? with
  | some e => e
  | none => privNat s c (cpyaTbl m.es + 8 * (cpyaFirst m.es + j)) 8

/-- One run of a CPYA: `none` where FILLB skips it, else its two sides, or the cause that the table decides. -/
def cpyaSides (s : State) (c : Nat) (m : Cmd) (i : Nat × Nat × Nat) : Except Cause (Option (Side × Side)) :=
  let es := m.es
  let d := m.sub
  let n := bits (word es 2).toNat 31 0
  let ind := cpyaInd es
  let dim := cpyaDim es
  let e := cpyaEntry s c m (ixAt i dim)
  if ind && cpyaFillb es && decide (peFill e ≤ ixAt i (dim - 1)) then .ok none
  else
    let side (dst : Bool) : Except Cause Side :=
      let w := word es (if dst then 1 else 0)
      if cpyaDev d dst then
        if ind then
          let x := cpyaOff es dst (devOff w) dim i
          match runOutside 65536 n [x] with
          | some a => .error { cls := 5, code := 4, addr := a }
          | none => .ok (.va true (pePage e + x.toNat))
        else .ok (.dev m.h (cpyaOff es dst (devOff w) 0 i).toNat)
      else
        let x := cpyaOff es dst (locOff w) 0 i
        match runOutside (spaceBytes c (locWin w)) n [x] with
        | some a => .error { cls := 5, code := 1, addr := a }
        | none => .ok (.loc (locWin w) x.toNat)
    match side false, side true with
    | .ok a, .ok b => .ok (some (a, b))
    | .error e, _ => .error e
    | _, .error e => .error e

/-- Runs of a CPYA in loop order; exactly those before a failing run have performed (R362). -/
def cpyaLoop (c : Nat) (m : Cmd) : List (Nat × Nat × Nat) → State → Io
  | [], s => .ok s []
  | i :: t, s => match cpyaSides s c m i with
    | .error e => .bad s e
    | .ok none => cpyaLoop c m t s
    | .ok (some (a, b)) => match copyRun c m a b (bits (word m.es 2).toNat 31 0) s with
      | .ok s _ => cpyaLoop c m t s
      | r => r

/-- The runs of a CPYA that may start next: those up to the first whose entry the engine has not read (R260). -/
def cpyaNext (m : Cmd) : List (Nat × Nat × Nat) :=
  let l := (cpyaRuns m.es).drop m.runs
  if cpyaInd m.es then l.takeWhile fun i => decide (ixAt i (cpyaDim m.es) < m.claim.length) else l

end Sys2Proof.Machine
end

