-- ==== Sys2Proof/Machine/EngineRun.lean ====
section
/-! DEFINITION. The engines at work: the start of commands, what each performs, its completion and the advance of its ring, its suspension, resumption and discard (R255, R327, R379, R380). -/

namespace Sys2Proof.Machine

/-! ## The context that a command belongs to -/

/-- The owner of a command: its context, or the saved one (R76). -/
def ownerCtx (s : State) (c : Nat) (m : Cmd) : Context := ownerAt s c m.ctx m.task

/-- Change the owner of a command, if it is still that task's context. -/
def modOwner (c : Nat) (m : Cmd) (f : Context → Context) (s : State) : State := modOwnerAt c m.ctx m.task f s

/-- Context `k` of core `c` of a task, running or saved. -/
def taskCtx (s : State) (c k task : Nat) : Context := match s.hub.saved.find? fun v => v.core == c && v.ctxId == k && v.ctx.task == task with
  | some v => v.ctx
  | none => getCtx s c k

/-- Is context `k` of core `c` of a task saved? -/
def isSaved (s : State) (c k task : Nat) : Bool := s.hub.saved.any fun v => v.core == c && v.ctxId == k && v.ctx.task == task

/-- Change context `k` of core `c` of a task, running or saved. -/
def modTaskCtx (c k task : Nat) (f : Context → Context) (s : State) : State :=
  if isSaved s c k task then modSaved (fun v => v.core == c && v.ctxId == k && v.ctx.task == task) f s
  else modCtx c k (fun x => if x.task = task then f x else x) s

/-- The number by which the queues of its core name a context of a task: four times the task more while it is saved. -/
def ctxKey (s : State) (c k task : Nat) : Nat := if isSaved s c k task then k + 4 * task else k

/-- Change a command. -/
def setCmd (c id : Nat) (f : Cmd → Cmd) (s : State) : State :=
  modCore c (fun k => { k with cmds := k.cmds.map fun m => if m.id = id then f m else m }) s

/-- Remove a command. -/
def dropCmd (c id : Nat) (s : State) : State := modCore c (fun k => { k with cmds := k.cmds.filter fun m => m.id != id }) s

/-- The command of an identity. -/
def findCmd (s : State) (c id : Nat) : Option Cmd := (getCore s c).cmds.find? fun m => m.id == id

/-- The remote-ring entries that a context of a task bound, by the number that the queues of core `c` give it, are free once it has stopped and no command of its uses the ring (R318, R382). -/
def releaseBound (c n task : Nat) (s : State) : State :=
  let used (b : Bound) : Bool := (getCore s c).cmds.any fun x => x.ctx == n && x.task == task && x.ring == some b.ring
  let x := ownerAt s c n task
  if x.life = .running ∨ x.task ≠ task then s
  else modHub (fun h => { h with bound := h.bound.filter fun b => !(b.core == c && b.ctxId == n % 4 && b.task == task) || used b }) s

/-- A command leaves its engine; an ENC lets its two references go (R51, R62). -/
def leave (c : Nat) (m : Cmd) (s : State) : State :=
  let s := releaseBound c m.ctx m.task (dropCmd c m.id s)
  if m.op = .enc then dropRef m.func (bId m.b2) (bVer m.b2) (dropRef m.func (bId m.b1) (bVer m.b1) s) else s

/-! ## Completion and rings (R255, R379, R380) -/

/-- One completion advances its ring, unless a command issued before on the ring has been discarded (R380); a reblocking raises its UNENC with it (R62). -/
def advanceRing (c q : Nat) (m : Cmd) (s : State) : State :=
  let stuck := (ownerCtx s c m).dropped.any fun d => d.ring == q && decide (d.id < m.id)
  modOwner c m (fun x => (if stuck then x else x.setQ q (qAdvProd (x.Q q) 1)).flag fUNENC (m.op == .enc && m.sub == 1)) s

/-- Advance a ring for the finished commands on it in issue order: an unfinished one holds those of its own engine behind it, a suspended one all behind it. -/
def settleList (c q : Nat) : List Nat → List Cmd → State → State
  | _, [], s => s
  | busy, m :: t, s => match m.phase with
    | .suspended _ => s
    | .done =>
      if busy.contains m.eng then settleList c q busy t s else settleList c q busy t (leave c m (advanceRing c q m s))
    | _ => settleList c q (m.eng :: busy) t s

/-- Advance ring `q` of context `k` of core `c` as far as its commands allow. -/
def settleRing (c k q : Nat) (s : State) : State := settleList c q [] (ringCmds (getCore s c) k q) s

/-- A command has performed: it leaves, or waits to advance its ring. -/
def finishCmd (c : Nat) (m : Cmd) (s : State) : State :=
  match m.ring with
  | some q => if m.dropped then leave c m s else settleRing c m.ctx q (setCmd c m.id (fun x => { x with phase := .done }) s)
  | none => leave c m s

/-- A command is suspended with a cause (R327): its record goes to both queues, and its ring does not advance. -/
def suspendCmd (c : Nat) (m : Cmd) (e : Cause) (s : State) : State :=
  let e' : Cause := { e with slots := 0, info := .ofNat 32 (m.unit + 16 * m.ring.getD 0) }
  report (srcEngine c m.unit) m.func (dieOf c) m.pc e' (setCmd c m.id (fun x => { x with phase := .suspended e' }) s)

/-! ## What a command performs -/

/-- What comes of a command's turn. -/
inductive Perf where
  | done (s : State)
  | wait (s : State)
  | sent (s : State)
  | susp (s : State) (c : Cause)

/-- An access that ends a command. -/
def Io.perf : Io → Perf
  | .ok s _ => .done s
  | .bad s c => .susp s c

/-- Continue with the bytes of an access. -/
def Io.andThen (x : Io) (f : State → List Byte → Perf) : Perf := match x with
  | .ok s bs => f s bs
  | .bad s c => .susp s c

/-- A command with a scratchpad source performs no earlier than the sixth cycle after its issue (R255). -/
def mature (s : State) (m : Cmd) : Bool := m.sources.isEmpty || decide (m.cycle + 6 ≤ s.cycle)

/-- The local or device side of a copy. -/
def copySide (m : Cmd) (w : BitVec 64) (dev : Bool) : Side := if dev then .dev m.h (devOff w) else .loc (locWin w) (locOff w)

/-- CPY (R258). -/
def performCpy (c : Nat) (m : Cmd) (s : State) : Perf :=
  (copyRun c m (copySide m (word m.es 0) (m.sub == 0)) (copySide m (word m.es 1) (m.sub == 1)) (bits (word m.es 2).toNat 31 0) s).perf

/-- A table entry names a page of TIER 2 or 3 (R133). -/
def entryFar (s : State) (f e : Nat) : Bool := match walk s f (pePage e) with
  | .ok l => 2 ≤ bits l.pte 5 4
  | _ => false

/-- An indirect CPYA reads its next table entry, if one is left, and goes on waiting (R260); one that names a page of TIER 2 or 3 makes it a remote command (log entry 62). -/
def cpyaRead (c : Nat) (m : Cmd) (s : State) : Perf :=
  let j := m.claim.length
  if j < cpyaEntries m.es then
    (localIn c false (cpyaTbl m.es + 8 * (cpyaFirst m.es + j)) 8 s).andThen fun s bs =>
      .wait (setCmd c m.id (fun x => { x with
        claim := m.claim ++ [ofLeBytes bs], runs := m.runs + (cpyaNext m).length, aux := s.cycle, remote := m.remote || entryFar s m.func (ofLeBytes bs) }) s)
  else .wait s

/-- CPYA (R259, R260): an indirect one reads its entries in order, one in 16 cycles, and the runs of step `i` start no earlier than 16 cycles after the read of entry `i` began. Remote runs wait for what a DRAIN holds them for (R139). -/
def performCpya (c : Nat) (m : Cmd) (s : State) : Perf :=
  if cpyaInd m.es && m.claim.isEmpty then cpyaRead c m s
  else if cpyaInd m.es && (decide (s.cycle < m.aux + 16) || (m.remote && !m.farHolds.all (performed (getCore s c)))) then .wait s
  else
    let now := cpyaNext m
    (cpyaLoop c m now s).andThen fun s _ =>
      if m.runs + now.length = (cpyaRuns m.es).length then .done s else cpyaRead c m s

/-- The end of a remote ring that an entry of a function names: its binding, where the end is valid, bound and paired (R318, R392); a producer end where `role` holds. -/
def boundEnd (s : State) (f link : Nat) (role : Bool) : Option Bound :=
  match s.hub.bound.find? fun b => b.key == f * 65536 + link with
  | none => none
  | some b =>
    let q := (taskCtx s b.core b.ctxId b.task).Q b.ring
    if paired s f link && qValid q && qRemote q && qProducer q == role && qLink q == link then some b else none

/-- A command cannot read what it needs: it is suspended, and a line whose uncorrected error it met is marked (R332). -/
def meets (s : State) (e : Cause) : Perf := .susp (e.met s) e

/-- CPYW (R261, R388, R392): into the local slot it took at its start, or on its way to the consumer end. An entry of the pair that it cannot read suspends it (R332). -/
def performCpyw (c : Nat) (m : Cmd) (s : State) : Perf :=
  let r := m.ring.getD 0
  let q := (ownerCtx s c m).Q r
  let n := bits (word m.es 1).toNat 31 0
  (sideIn c m (copySide m (word m.es 0) (m.sub == 0)) n s).andThen fun s bs =>
    if !qRemote q then .done (localOut c (qWin q) (qSlot q m.aux) bs s)
    else match pairBad s m.func (qLink q) with
    | some e => meets s e
    | none =>
      let e := rrEntry s m.func (qLink q)
      if !rrHere s e then
        (if fSclim s m.func < 2 then .susp s { cls := 8, code := 2, addr := .ofNat 64 r } else .sent s)
      else if paired s m.func (qLink q) ∧ (boundEnd s (rrFn e) (rrLink e) false).isSome then
        .sent (modHub (fun h => { h with ringMsgs := h.ringMsgs ++ [.data (rrFn e) (rrLink e) bs c m.ctx m.id] }) s)
      else .susp s { cls := 7, code := 1, addr := .ofNat 64 (rrLink e) }

/-- PROBE.fill (R73): the block lands in its slot, and FILLING clears. -/
def performFill (c : Nat) (m : Cmd) (s : State) : Perf :=
  (copyRun c m (.dev m.h m.ga.toNat) (.loc false m.gb.toNat) 2048 s).andThen fun s _ =>
    .done (modCore c (fun k => { k with tags := tset 0 k.tags m.aux (tget 0 k.tags m.aux &&& ~~~4) }) s)

/-- The physical page of log index `i`: pages marked bad are skipped (R374); `k` passes over them settle it. -/
def goodPage (bad : List Nat) (i : Nat) : Nat → Nat
  | 0 => i
  | k + 1 => i + bad.countP (decide <| · ≤ goodPage bad i k)

/-- The address of index `i` of a log. -/
def FlashLog.at_ (l : FlashLog) (i : Nat) : Nat := l.base + 4096 * goodPage l.bad i l.bad.length

/-- The flash controller writes a page of a log; it holds no error from then on. -/
def flashWrite (s : State) (a : Nat) (bs : List Byte) : State :=
  let away (l : Nat) : Bool := !(decide (a ≤ 64 * l) && decide (64 * l < a + bs.length))
  modHub (fun h => { h with badLines := h.badLines.filter away, poison := h.poison.filter away }) { s with mem := Memory.store s.mem (Memory.cellsOf a bs) }

/-- FLAPP (R86, R274): the pages go behind those of the log, or LOGFULL, with which bits 47:0 are a free value (log entry 86). -/
def performFlapp (c : Nat) (m : Cmd) (s : State) : Perf :=
  let w := word m.es 0
  let ctl := (word m.es 1).toNat
  let key := m.func * 16 + bits ctl 3 0
  let n := bits ctl 15 8 + 1
  let l := tget {} s.hub.logs key
  if l.pages < l.ptr + n + l.bad.length then .done (State.bump (putWord c m.gb.toNat (bits (Config.openResult s.fresh).toNat 47 0 + place 7 48 8) s))
  else (localIn c (locWin w) (locOff w) (4096 * n) s).andThen fun s bs =>
    let s := (List.range n).foldl (fun s i => flashWrite s (l.at_ (l.ptr + i)) ((bs.drop (4096 * i)).take 4096)) s
    let s := modHub (fun h => { h with logs := tput h.logs key { l with ptr := l.ptr + n } }) s
    .done (putWord c m.gb.toNat (bits l.ptr 47 0) s)

/-- The array of a CBIND, copied to its BASE (R50). -/
def performCbind (c : Nat) (m : Cmd) (s : State) : Perf := match readCause s m.func m.ga.toNat 64 with
  | some e => meets s e
  | none =>
    let n := bits (header s m.func m.ga.toNat) 159 144
    (copyRun c m (.va false (m.ga.toNat + 64)) (.loc false (bBase m.b1)) n s).perf

/-- The header's address of a version that a command holds; 0 where the directory no longer names it. -/
def heldHdr (s : State) (f : Nat) (b : BitVec 64) : Nat := match liveSlot s f (bId b) (bVer b) with
  | some j => svHdr (slotWord s f (bId b) j)
  | none => 0

/-- The published book of a version that a command holds. -/
def heldBook (s : State) (f : Nat) (b : BitVec 64) : Book := bookOf s f (heldHdr s f b)

/-- Why that book cannot be read: the directory, the header or the array (R88, R332). -/
def heldCause (s : State) (f : Nat) (b : BitVec 64) : Option Cause := (entryCause s f (bId b)).orElse fun _ => bookCause s f (heldHdr s f b)

/-- ENC (R62): every group decoded through the source version, rounded, and searched in the destination version. -/
def performEnc (c : Nat) (m : Cmd) (s : State) : Perf := match (heldCause s m.func m.b1).orElse fun _ => heldCause s m.func m.b2 with
  | some e => meets s e
  | none =>
    let src := heldBook s m.func m.b1
    let dst := heldBook s m.func m.b2
    let g := bits (word m.es 2).toNat 23 0
    let r := bits (word m.es 2).toNat 47 24
    let len := codedTensor src.w 1 g
    (sideIn c m (.dev m.h (devOff (word m.es 0))) (r * len) s).andThen fun s bs =>
      let qs := dst.rounded
      let rows := (List.range r).map fun j =>
        let row := (bs.drop (j * len)).take len
        (List.range g).map fun n => search qs ((List.range src.d).map fun i => rv32 (src.qx (packedIndex src.w row n) i))
      let un := rows.any fun x => x.any (·.2)
      (sideOut c m (.dev m.h2 (devOff (word m.es 1))) (rows.flatMap fun x => packIndices dst.w (x.map (·.1))) s).andThen fun s _ =>
        .done (setCmd c m.id (fun x => { x with sub := if un then 1 else 0 }) s)

/-! ## CBREV (R54, R369) -/

/-- Slots of an identifier that commands in flight have reserved. -/
def reservedSlots (s : State) (f id : Nat) : List Nat := (coreIds s).flatMap fun c => (getCore s c).cmds.filterMap fun m =>
  if m.op = .cbrev ∧ m.func = f ∧ bId m.ga = id ∧ m.phase ≠ .done then m.claim.head? else none

/-- The claims of a CBREV at its start: QUOTA, then BUSY, then its slot is reserved; a failure stands in `sub` with bit 8, and a directory entry that cannot be read with bit 9. -/
def claimCbrev (s : State) (m : Cmd) : Cmd :=
  let id := bId m.ga
  if (entryCause s m.func id).isSome then { m with sub := 0x200, claim := [] }
  else if !withinQuota s m.func 1 then { m with sub := 0x101, claim := [] }
  else
    let held := reservedSlots s m.func id
    match [0, 1, 2, 3].find? fun j => svState (slotWord s m.func id j) == 0 && !held.contains j with
    | none => { m with sub := 0x103, claim := [] }
    | some j => { m with sub := 0, claim := [j] }

/-- A CBREV that has reserved its slot takes its page and the number from which the device looks for a virtual page to map it at (log entry 6). -/
def takeCbrev (c : Nat) (m : Cmd) (s : State) : State := match m.claim with
  | [j] => match takePage m.func s with
    | some (p, s') => State.bump (setCmd c m.id (fun x => { x with claim := [j, p, (Config.codebookPage s'.fresh).toNat] }) s')
    | none => s
  | _ => s

/-- The result word of a CBREV. -/
def cbrevWord (c : Nat) (m : Cmd) (ver stat : Nat) (s : State) : State := putWord c m.gb.toNat (ver + place stat 16 8) s

/-- The result word of a CBREV that publishes nothing: bits 15:0 are open (R263; log entry 86). -/
def cbrevFails (c : Nat) (m : Cmd) (stat : Nat) (s : State) : State :=
  State.bump (cbrevWord c m (bits (Config.openResult s.fresh).toNat 15 0) stat s)

/-- Another live version of the identifier has another w, d or element format (MISMATCH). -/
def mismatch (s : State) (f : Nat) (w : BitVec 64) : Bool := [0, 1, 2, 3].any fun j =>
  let x := slotWord s f (bId w) j
  svState x == 1 && bits (header s f (svHdr x)) 39 32 != bits w.toNat 39 32

/-- The header of Table 3-1. -/
def newHeader (w : BitVec 64) (ver tick src : Nat) : Nat :=
  bId w + place ver 16 16 + place (bits w.toNat 47 32) 32 16 + place tick 64 64 + place src 128 16 + place (bBytes w) 144 16

/-- The mark of the latest version moves: LATEST clears on the old slot, and its reference drops (R54). -/
def dethrone (f id : Nat) (s : State) : State := match latestSlot s f id with
  | none => s
  | some j =>
    let x := slotWord s f id j
    dropRef f id (svVer x) (setSlot f id j (mkSlot 1 false (svHdr x) (svVer x) (svRefs x)) s)

/-- The virtual page at which a CBREV maps its page: one that maps nothing, under tables that are present (log entry 6). -/
def cbrevVa (s : State) (f vp : Nat) : Option Nat := if vp ≠ 0 ∧ pteFree s f (vp * 65536) then some vp else freeVa s f vp

/-- The first header of a live version of the identifier that cannot be read. -/
def headersCause (s : State) (f id : Nat) : Option Cause := [0, 1, 2, 3].findSome? fun j =>
  let x := slotWord s f id j
  if svState x = 1 then readCause s f (svHdr x) 64 else none

/-- CBREV's publication, or the STAT of its failure, with which bits 15:0 of the result word are a free value (R54, R263; log entry 86). DESIGN CHOICE: where its directory entry or a live version's header is not mapped, or the function's tables leave no virtual page free, it is suspended with CLASS 0x04 (log entry 6). -/
def performCbrev (c : Nat) (m : Cmd) (s : State) : Perf :=
  let f := m.func
  let id := bId m.ga
  if m.sub = 0x200 then match entryCause s f id with
    | some e => meets s e
    | none => .wait (setCmd c m.id (fun _ => claimCbrev s m) s)
  else if m.sub ≠ 0 then .done (cbrevFails c m (m.sub % 256) s)
  else match m.claim with
    | [j, p, vp] =>
      (localIn c false (bBase m.ga) (bBytes m.ga) s).andThen fun s bs =>
        match (entryCause s f id).orElse fun _ => headersCause s f id with
        | some e => meets s e
        | none =>
          if mismatch s f m.ga then .done (cbrevFails c m 4 (quarantine p s))
          else match cbrevVa s f vp with
            | none => .susp s { cls := 4, code := 1, addr := .ofNat 64 (vp * 65536) }
            | some v =>
              let hdr := v * 65536
              let ver := nextBookVer s f id
              let s := mapPage f hdr p s
              let s := devWrite s (p <<< 16) (leBytes (newHeader m.ga ver s.tick.toNat (srcEngine c 1)) 64 ++ bs)
              let s := dethrone f id s
              .done (cbrevWord c m ver 0 (setSlot f id j (mkSlot 1 true hdr ver 1) s))
    | _ => .wait (takeCbrev c m s)

/-! ## Stitch commands (R97, R99, R101, R366, R377) -/

/-- The engine's checks of a head (R366, R377): error in the descriptor, another function's tensor, no version where one is needed, or a head that disagrees with its slot. -/
def headCause (s : State) (m : Cmd) (need : Bool) : Option Cause :=
  let a := m.ga.toNat
  let h := headAt s a
  match (lineChunks 64 a 320).findSome? fun p => lineError s (hTier m.h) p.1 with
  | some c => some c
  | none =>
    if (hdVer h = 0 ∧ need) ∨ (hdVer h ≠ 0 ∧ hdFunc h ≠ m.func) then some { cls := 6, code := 6, addr := Config.openAddr s.fresh }
    else if !headSound s a then some { cls := 6, code := 0xB, addr := Config.openAddr s.fresh }
    else none

/-- Another started SPLICE reached the head before (R97). -/
def headTaken (s : State) (m : Cmd) : Bool := (coreIds s).any fun c => (getCore s c).cmds.any fun x =>
  x.op == .splice && x.ga == m.ga && x.phase == .started && x.began != 0 && x.began < m.began

/-- Write BUSY of a head whose line has no error. -/
def setBusy (a : Nat) (b : Bool) (s : State) : State :=
  let h := headAt s a
  if (lineBad s a).isSome then s else devPut s a (bits h 18 0 + place (if b then 1 else 0) 19 1 + (h >>> 20) <<< 20) 64

/-- The STAT byte, and VER where a version was published, of a splice request (Table 5-4). -/
def answerSplice (c off stat : Nat) (ver : Option Nat) (s : State) : State :=
  let s := localOut c false (off + 16) (leBytes stat 1) s
  match ver with
  | some v => localOut c false (off + 18) (leBytes v 2) s
  | none => s

/-- A SPLICE lets the head go. -/
def letHead (c : Nat) (m : Cmd) (s : State) : State := setBusy m.ga.toNat false (setCmd c m.id (fun x => { x with aux := 0 }) s)

/-- What a SPLICE reads beside the head and cannot: its request, its insert entries, the lists of the tensor's live versions, and the table entries of their pieces, of the area and of the pages that it inserts (R332, R373). -/
def spliceCause (s : State) (c : Nat) (m : Cmd) : Option Cause :=
  (localCause s c false m.gb.toNat 32).orElse fun _ =>
    let r := spliceReq s c m.gb.toNat
    let h := headAt s m.ga.toNat
    (localCause s c false r.ent (8 * r.ins.length)).orElse fun _ => (piecesCause s m.func m.ga.toNat).orElse fun _ =>
      (((List.range (hdAnum h)).map fun i => hdArea h + 65536 * i) ++ r.ins.map pePage).findSome? fun v => (walk s m.func v).lostCause

/-- A SPLICE comes to its head with its first turn: its place among those that wait there (R97). -/
def arrive (c : Nat) (m : Cmd) (s : State) : State × Cmd :=
  if m.began = 0 then (State.bump (setCmd c m.id (fun x => { x with began := s.newId }) s), { m with began := s.newId }) else (s, m)

/-- SPLICE at its head (R97, R368): `aux` says that the command holds the head while it waits for pages. DESIGN CHOICE: while it waits it holds no claim of slot, quota or area, and each of its turns judges RANGE, BUSY, QUOTA and AREA anew (log entry 85). -/
def spliceTurn (c : Nat) (m : Cmd) (s : State) : Perf :=
  let a := m.ga.toNat
  let off := m.gb.toNat
  match headCause s m false with
  | some e => .susp (if m.aux = 1 then letHead c m s else s) e
  | none =>
    if m.aux != 1 && (hdBusy (headAt s a) || headTaken s m) then .wait s
    else match spliceCause s c m with
    | some e => meets (if m.aux = 1 then letHead c m s else s) e
    | none => match splice m.func a (srcEngine c 2) c off s with
      | .stat code =>
        if m.sub = 1 then .susp (letHead c m s) { cls := 6, code := 0x10 + code, addr := Config.openAddr s.fresh }
        else .done (answerSplice c off code none (letHead c m s))
      | .wait => .wait (setBusy a true (setCmd c m.id (fun x => { x with aux := 1 }) s))
      | .ok s ver => .done (answerSplice c off 0 (some ver) s)

/-- SPLICE (R97). -/
def performSplice (c : Nat) (m : Cmd) (s : State) : Perf := spliceTurn c (arrive c m s).2 (arrive c m s).1

/-- PIN (R99): the count, the record, and the pin of the context; a context that has retired lets it go at once. -/
def performPin (c : Nat) (m : Cmd) (s : State) : Perf :=
  let a := m.ga.toNat
  match headCause s m true with
  | some e => .susp s e
  | none =>
    let j := hdSlot (headAt s a)
    let x := vslot s a j
    let x' := vsWith x (vsState x) (vsCur x) (vsPins x + 1)
    let s := setVslot a j x' s
    let s := localOut c false m.gb.toNat (leBytes x' 32) s
    if m.ctx < 4 ∧ ((ownerCtx s c m).life ≠ .running ∨ (ownerCtx s c m).task ≠ m.task) then .done (dropPin m.func a (vsVer x) s)
    else .done (modOwner c m (fun y => { y with pins := y.pins ++ [{ head := a, ver := vsVer x, cmd := m.id }] }) s)

/-- The version that an UNPIN names. -/
def Cmd.pinVer (m : Cmd) : Nat := bits m.gb.toNat 15 0

/-- A pin that an UNPIN names, leaving. -/
def Cmd.takes (m : Cmd) (p : Pin) : Bool := p.head == m.ga.toNat && p.ver == m.pinVer && p.leaving

/-- What stands in the way of dropping pins on tensors of a function: a descriptor that cannot be read, or, where a version retires with its last pin, the lists and table entries that its retirement reads (R100, R332). -/
def pinsCause (s : State) (f : Nat) (l : List Pin) : Option Cause := l.findSome? fun p => (firstBad s p.head 320).orElse fun _ =>
  if lastPins s p.head p.ver (l.countP fun x => x.head == p.head && x.ver == p.ver) then piecesCause s f p.head else none

/-- UNPIN (R99): one pin by name, or at retirement every pin that the context holds. -/
def performUnpin (c : Nat) (m : Cmd) (s : State) : Perf :=
  if m.sub = 1 then
    let l := (ownerCtx s c m).pins
    match pinsCause s m.func l with
    | some e => meets s e
    | none => .done (l.foldl (fun s p => dropPin m.func p.head p.ver s) (modOwner c m (fun y => { y with pins := [] }) s))
  else match headCause s m false with
    | some e => .susp s e
    | none => match (if lastPins s m.ga.toNat m.pinVer 1 then piecesCause s m.func m.ga.toNat else none) with
    | some e => meets s e
    | none =>
      if (ownerCtx s c m).pins.any m.takes then .done (dropPin m.func m.ga.toNat m.pinVer (modOwner c m (fun y => { y with pins := y.pins.eraseP m.takes }) s))
      else .done s

/-- The first head of a function's tensors, list of a live version of one, or table entry of a piece's page that cannot be read. -/
def headsCause (s : State) (f : Nat) : Option Cause :=
  (s.hub.heads.filter fun a => (lineBad s a).isSome || hdFunc (headAt s a) == f).findSome? fun a =>
    (firstBad s a 320).orElse fun _ => piecesCause s f a

/-- SHARE (R101, R266, R369): the heads of the tensors that hold the page are judged as any command judges its own (R366, R377). -/
def performShare (c : Nat) (m : Cmd) (s : State) : Perf :=
  let p := bits m.h.toNat 51 16
  let hs := holders s p
  match headsCause s m.func with
  | some e => meets s e
  | none => if hs.any fun a => hdVer (headAt s a) == 0 || hdFunc (headAt s a) != m.func then .susp s { cls := 6, code := 6, addr := Config.openAddr s.fresh }
  else if hs.any fun a => !headSound s a then .susp s { cls := 6, code := 0xB, addr := Config.openAddr s.fresh }
  else
    let r := share p s
    .done (putWord c m.gb.toNat (r.1 + place r.2.1 8 15) r.2.2)

/-! ## Pages, messages and events -/

/-- PGALLOC (R83, R267): the page that it took at its start, or the STAT of a quota used up, with which bits 51:16 are a free value (log entry 86). -/
def performPgalloc (c : Nat) (m : Cmd) (s : State) : Perf := match m.claim with
  | p :: _ => .done (putWord c m.gb.toNat (place p 16 36) s)
  | [] => .done (State.bump (putWord c m.gb.toNat (place (bits (Config.openResult s.fresh).toNat 35 0) 16 36 + place 1 56 8) s))

/-- A PGALLOC that starts takes its page, where the quota allows one. -/
def takePgalloc (c : Nat) (m : Cmd) (s : State) : State :=
  if withinQuota s m.ga.toNat 1 then match takePage m.ga.toNat s with
    | some (p, s') => setCmd c m.id (fun x => { x with claim := [p] }) s'
    | none => s
  else s

/-- A PGALLOC waits in its queue while the quota allows a page and the list holds none for the function (R83, R267). -/
def pageThere (s : State) (m : Cmd) : Bool := m.op != .pgalloc || !withinQuota s m.ga.toNat 1 || !(eligible s m.ga.toNat).isEmpty

/-- PGFREE (R84, R267). -/
def performPgfree (m : Cmd) (s : State) : Perf :=
  let p := m.ga.toNat
  if dState (desc s p) = 1 then .done (freePage p s) else .susp s { cls := 6, code := 0xA, addr := Config.openAddr s.fresh }

/-- The home die that a command's record takes to its queue: the issuing die, for a TASK (R125). -/
def homeOf (s : State) (c id : Nat) : Option Nat := match findCmd s c id with
  | some x => if x.op = .task then some x.aux else none
  | none => none

/-- A record of a replay window on its way again. -/
def inboundOf (s : State) (c : Nat) (m : Cmd) (r : Replayed) : Inbound :=
  { sender := .ctx c (m.ctx % 4) m.task, queue := r.queue, lr := r.lr, cmd := r.cmd, home := homeOf s c r.cmd, refused := r.refused }

/-- MSG and TASK (R271): the record leaves for its queue. A record for another package leaves this one. Records of the window behind it, which waited for it, follow (R389). -/
def performSend (c : Nat) (m : Cmd) (s : State) : Perf :=
  (localIn c false m.gb.toNat 64 s).andThen fun s bs =>
    let q := bits m.ga.toNat 7 0
    let here := m.op == .task || bits m.ga.toNat 19 8 == s.hub.package.toNat
    let x : Inbound := { sender := .ctx c (m.ctx % 4) m.task, queue := q, lr := .ofNat 512 (ofLeBytes bs), cmd := m.id, home := if m.op = .task then some m.aux else none }
    let behind := (ownerCtx s c m).replay.filter fun r => r.queue == q && decide (m.id < r.cmd)
    .sent (if here then
      modHub (fun h => { h with inbox := h.inbox ++ x :: behind.map (inboundOf s c m) })
        (modOwner c m (fun y => { y with replay := y.replay.filter fun r => !behind.contains r }) s)
      else s)

/-- Add to an event counter (R120). -/
def addCounter (f i : Nat) (n : BitVec 16) (s : State) : State :=
  modHub (fun h => { h with counters := tset 0 h.counters (f * 4096 + i) (tget 0 h.counters (f * 4096 + i) + n) }) s

/-- RMW (R142, R275): one read and one write that nothing comes between. -/
def performRmw (c : Nat) (m : Cmd) (s : State) : Perf :=
  let n := if m.sub.testBit 3 then 8 else 4
  let x : Side := .dev m.h m.ga.toNat
  (sideIn c m x n s).andThen fun s bs =>
    let old := ofLeBytes bs
    let lo (w : BitVec 64) : Nat := w.toNat % 2 ^ (8 * n)
    (sideOut c m x (leBytes (atomNew (m.sub % 8) n old (lo (word m.es 0)) (lo (word m.es 1))) n) s).andThen fun s _ =>
      .done (putWord c (bits (word m.es 2).toNat 22 0) old s)

/-- What a started command performs. -/
def perform (c : Nat) (m : Cmd) (s : State) : Perf := match m.op with
  | .cpy => performCpy c m s
  | .cpya => performCpya c m s
  | .cpyw => performCpyw c m s
  | .probeFill => performFill c m s
  | .flapp => performFlapp c m s
  | .cbind => performCbind c m s
  | .enc => performEnc c m s
  | .cbrev => performCbrev c m s
  | .splice => performSplice c m s
  | .pin => performPin c m s
  | .unpin => performUnpin c m s
  | .share => performShare c m s
  | .pgalloc => performPgalloc c m s
  | .pgfree => performPgfree m s
  | .msg => performSend c m s
  | .task => performSend c m s
  | .rmw => performRmw c m s
  | .evsig => .done (addCounter m.func (bits m.ga.toNat 11 0) (m.gb.setWidth 16) s)
  | .drain => .done s
  | .matrix | .slotReturn => .wait s

/-- The command as it stands now, after what it performed. -/
def refreshed (c : Nat) (m : Cmd) (s : State) : Cmd := (findCmd s c m.id).getD m

/-- The ring slots that a command has filled are noted in its context (R140). -/
def noteFills (c : Nat) (m : Cmd) (s : State) : State := 
  if m.dests.isEmpty then s else modOwner c m (fun x => x.markFilled m.destPath m.dests) s

/-- Settle what a command's turn came to. -/
def conclude (c : Nat) (m : Cmd) : Perf → State
  | .done s => finishCmd c (refreshed c m s) (noteFills c m s)
  | .wait s => s
  | .sent s => setCmd c m.id (fun x => { x with phase := .sent }) s
  | .susp s e => suspendCmd c m e s

/-- The bytes that a command touches: space (0 device, 1 private, 2 window, 3 a flash log), first byte, length. -/
abbrev Span := Nat × Nat × Nat

/-- The bytes of a side. -/
def sideSpan (s : State) (m : Cmd) (x : Side) (n : Nat) : List Span := match x with
  | .dev h off => [(0, hBase h + off, n)]
  | .loc win off => [(if win then 2 else 1, off, n)]
  | .va _ a => ((vphys s m.func a).map fun p => (0, p.1, n)).toList

/-- The bytes that a command of core `c` touches; of a CPYA those of the runs that it has still to perform. -/
def footprint (s : State) (c : Nat) (m : Cmd) : List Span :=
  let side (w : BitVec 64) (dev : Bool) (n : Nat) := sideSpan s m (copySide m w dev) n
  let n := bits (word m.es 2).toNat 31 0
  match m.op with
  | .cpy => side (word m.es 0) (m.sub == 0) n ++ side (word m.es 1) (m.sub == 1) n
  | .cpya => ((cpyaRuns m.es).drop (if m.cause.isSome then 0 else m.runs)).flatMap fun i => (if cpyaInd m.es then [(1, cpyaTbl m.es + 8 * (cpyaFirst m.es + ixAt i (cpyaDim m.es)), 8)] else [])
      ++ (match cpyaSides s c m i with
        | .ok (some (a, b)) => sideSpan s m a n ++ sideSpan s m b n
        | _ => [])
  | .cpyw => side (word m.es 0) (m.sub == 0) (bits (word m.es 1).toNat 31 0)
      ++ (let q := (ownerCtx s c m).Q (m.ring.getD 0); if qRemote q then [] else [(if qWin q then 2 else 1, qSlot q m.aux, qSize q)])
  | .probeFill => sideSpan s m (.dev m.h m.ga.toNat) 2048 ++ [(1, m.gb.toNat, 2048)]
  | .flapp => (let key := m.func * 16 + bits (word m.es 1).toNat 3 0
      let l := tget {} s.hub.logs key
      let n := bits (word m.es 1).toNat 15 8 + 1
      side (word m.es 0) false (4096 * n) ++ (List.range n).map (fun i => (0, l.at_ (l.ptr + i), 4096)) ++ [(3, key, 1), (1, m.gb.toNat, 8)])
  | .cbind => (let k := bits (header s m.func m.ga.toNat) 159 144; sideSpan s m (.va false (m.ga.toNat + 64)) k ++ [(1, bBase m.b1, k)])
  | .enc => (let g := bits (word m.es 2).toNat 23 0
      let r := bits (word m.es 2).toNat 47 24
      sideSpan s m (.dev m.h (devOff (word m.es 0))) (codedTensor (bW m.b1) r g) ++ sideSpan s m (.dev m.h2 (devOff (word m.es 1))) (codedTensor (bW m.b2) r g))
  | .cbrev => [(1, bBase m.ga, bBytes m.ga), (1, m.gb.toNat, 8)] ++ ((slotPa s m.func (bId m.ga) 0).map fun a => (0, a, 64)).toList
  | .splice => (let r := spliceReq s c m.gb.toNat; [(0, m.ga.toNat, 320), (1, m.gb.toNat, 32), (1, r.ent, 8 * r.nins)])
  | .pin => [(0, m.ga.toNat, 320), (1, m.gb.toNat, 32)]
  | .unpin => if m.sub = 1 then [] else [(0, m.ga.toNat, 320)]
  | .share => [(1, m.gb.toNat, 8)]
  | .pgalloc => [(1, m.gb.toNat, 8)]
  | .msg => [(1, m.gb.toNat, 64)]
  | .task => [(1, m.gb.toNat, 64)]
  | .rmw => [(0, hBase m.h + m.ga.toNat, 8), (1, bits (word m.es 2).toNat 22 0, 8)]
  | .pgfree => []
  | .evsig => []
  | .drain | .matrix | .slotReturn => []

/-- Two spans share a byte. -/
def meet (a b : Span) : Bool := a.1 == b.1 && a.2.1 < b.2.1 + b.2.2 && b.2.1 < a.2.1 + a.2.2

/-- A command sends a record to a hardware queue. -/
def Cmd.sends (m : Cmd) : Bool := m.op == .msg || m.op == .task

/-- The package and queue that a record goes to. -/
def sendTo (s : State) (m : Cmd) : Nat × Nat := (if m.op = .task then s.hub.package.toNat else bits m.ga.toNat 19 8, bits m.ga.toNat 7 0)

/-- Two commands of one context that take their turns in issue order whatever bytes they touch: records to one queue (R143), and a SPLICE and a PIN (R266). -/
def inOrder (s : State) (x m : Cmd) : Bool :=
  let stitch (y : Cmd) : Bool := y.op == .splice || y.op == .pin
  x.ctx == m.ctx && x.task == m.task && ((x.sends && m.sends && sendTo s x == sendTo s m) || (stitch x && stitch m))

/-- Where on the fabric a command's requests go: another package by its number, or host memory; none for one that does not leave the package. -/
def fabricDest (s : State) (c : Nat) (m : Cmd) : Option Nat :=
  let far (p : Nat) : Option Nat := if p = s.hub.package.toNat then none else some p
  match m.op with
  | .cpyw =>
    let q := (ownerCtx s c m).Q (m.ring.getD 0)
    if qRemote q then far (rrPkg (rrEntry s m.func (qLink q))) else if m.remote then some 4096 else none
  | .msg => far (bits m.ga.toNat 19 8)
  | .cpya => if m.remote then some 4096 else none
  | _ => if m.remote && hTier m.h == 3 then some 4096 else none

/-- Both commands make requests to one destination over the fabric, which accepts them in issue order, retries included (R314, R391). -/
def samePair (s : State) (c : Nat) (x m : Cmd) : Bool := x.phase == .started && (fabricDest s c x).isSome && fabricDest s c x == fabricDest s c m

/-- The heads that a command reads and names in no operand: a SHARE those of its function's tensors, an UNPIN at retirement those of the pins that it drops. -/
def headSpans (s : State) (c : Nat) (m : Cmd) : List Span := match m.op with
  | .share => (s.hub.heads.filter fun a => hdFunc (headAt s a) == m.func).map fun a => (0, a, 320)
  | .unpin => if m.sub = 1 then (ownerCtx s c m).pins.map fun p => (0, p.head, 320) else []
  | _ => []

/-- The bytes of a command for the order of R137: those of its footprint, the heads that it names in no operand, and the whole log of a FLAPP, whose pages depend on the appends before it. -/
def orderSpans (s : State) (c : Nat) (m : Cmd) : List Span := footprint s c m ++ headSpans s c m ++ (if m.op = .flapp then
    let l := tget {} s.hub.logs (m.func * 16 + bits (word m.es 1).toNat 3 0)
    [(0, l.base, 4096 * l.pages)] else [])

/-- An indirect CPYA has still to read entries of its table: which bytes it touches is not settled (R260). -/
def Cmd.unread (m : Cmd) : Bool := m.op == .cpya && cpyaInd m.es && (m.cause.isSome || decide (m.claim.length < cpyaEntries m.es))

/-- A SPLICE publishes a tensor that a SHARE of its function looks through, one with no version before among them (R97, R101). -/
def publishes (x m : Cmd) : Bool := x.op == .splice && m.op == .share && x.func == m.func

/-- An earlier command of the same engine that has not performed touches bytes of the command, or may, which are accessed in issue order (R137), goes before it by its kind, or to the same place over the fabric. -/
def mustFollow (s : State) (c : Nat) (m : Cmd) : Bool := (getCore s c).cmds.any fun x =>
  x.eng == m.eng && decide (x.id < m.id) && (x.phase == .started || x.cause.isSome)
    && (inOrder s x m || publishes x m || samePair s c x m || x.unread || (orderSpans s c x).any fun a => (orderSpans s c m).any (meet a))

/-- The first byte of device memory in ranges of TIER `tier` that a command touches: what it asks of the device there. -/
def deviceByte (s : State) (c : Nat) (m : Cmd) (tier : Nat → Bool) : Option Nat :=
  ((footprint s c m ++ headSpans s c m).find? fun x => x.1 == 0 && decide (0 < x.2.2) && ((rangeOf s x.2.1).any fun e => tier (bits e 133 132))).map fun x => x.2.1

/-! ## Storage of a cluster that another function has taken (R131) -/

/-- What a core's scratchpads hold. -/
def storeOf (k : Core) : CoreStore := ⟨k.scratch, k.shared, k.tags, k.scratchPoison, k.sharedPoison⟩

/-- Fill a core's scratchpads. -/
def putStore (v : CoreStore) (k : Core) : Core :=
  { k with scratch := v.scratch, shared := v.shared, tags := v.tags, scratchPoison := v.scratchPoison, sharedPoison := v.sharedPoison }

/-- Exchange the scratchpads of a cluster with those in a function's cluster save area. -/
def swapStore (cl f : Nat) (s : State) : State := match s.hub.clusterSaves.find? fun v => v.cluster == cl && v.func == f with
  | none => s
  | some v =>
    let now := [0, 1, 2, 3].map fun i => storeOf (getCore s (4 * cl + i))
    let s := [0, 1, 2, 3].foldl (fun s i => modCore (4 * cl + i) (putStore (v.cores.getD i {})) s) s
    modHub (fun h => { h with clusterSaves := h.clusterSaves.map fun x => if x.cluster = cl ∧ x.func = f then { x with cores := now } else x }) s

/-- Do `g` on the scratchpads that a function has on core `c`, in its cluster save area if another function holds the cluster. -/
def onStore (c f : Nat) (g : State → State) (s : State) : State :=
  if !isSupCore c && s.hub.clusterSaves.any fun v => v.cluster == c / 4 && v.func == f then swapStore (c / 4) f (g (swapStore (c / 4) f s)) else g s

/-- A started command of one of the kinds performs, no earlier than the sixth cycle after its issue. -/
def turn (c id : Nat) (kinds : List Op) (s : State) : State := match findCmd s c id with
  | some m => if kinds.contains m.op && m.phase == .started && mature s m && !mustFollow s c m then
      settleRefs c (onStore c m.func (fun s => conclude c m (perform c m s)) s) else s
  | none => s

/-! ## Slot returns (R133, R139, R140) -/

/-- May a slot return leave? What a DRAIN holds it for has performed, and the reads of the slots up to its own have completed. -/
def mayReturn (s : State) (c : Nat) (m : Cmd) : Bool :=
  m.phase == .sent && m.holds.all (nearDone (getCore s c)) && m.allHolds.all (performed (getCore s c)) && m.remoteHolds.all (farDone (getCore s c))
    && match heldFrom (ownerCtx s c m).held (readDone (getCore s c)) m.sub with
      | some n => decide (0 < (n + 2 ^ 32 - m.aux) % 2 ^ 32 ∧ (n + 2 ^ 32 - m.aux) % 2 ^ 32 < 2 ^ 31)
      | none => true

/-- A message within the package carries the slot return. -/
def carried (s : State) (c id : Nat) : Bool := s.hub.ringMsgs.any fun x => match x with
  | .ret _ _ c' _ _ _ id' => c' == c && id' == id
  | _ => false

/-! ## Starts (R129, R255, R261, R271) -/

/-- The command that an engine would start next; none behind a suspended one (R327). -/
def nextCmd (co : Core) (e : Nat) : Option Cmd :=
  if co.cmds.any fun m => m.eng == e && m.cause.isSome then none else co.cmds.find? fun m => m.eng == e && m.phase == .queued

/-- Records of a context that have left the queue of its engine and that no queue has accepted yet (R271). -/
def unaccepted (co : Core) (k : Nat) : Nat := co.cmds.countP fun m => m.ctx == k && m.sends && m.phase != .queued && m.phase != .done

/-- May the command start: its holds have performed, the copies that it waits for have completed, its ring has room, and its replay window too? -/
def mayStart (s : State) (c : Nat) (m : Cmd) : Bool :=
  let k := getCore s c
  m.holds.all (nearDone k) && m.allHolds.all (performed k) && m.remoteHolds.all (farDone k) && m.ends.all (fun i => k.cmds.all fun x => x.id != i)
    && (match m.ring with
      | some q => decide (startedOn k m.ctx q + 1 ≤ producerFree k (ownerCtx s c m) q)
      | none => true)
    && (!m.sends || decide (unaccepted k m.ctx < 8)) && pageThere s m

/-- The slot count that a CPYW takes, a count modulo 2^32 as PROD is (R261, R75). -/
def cpywCount (s : State) (c : Nat) (m : Cmd) : Nat := match m.ring with
  | some q => (qProd ((ownerCtx s c m).Q q)
      + (ringCmds (getCore s c) m.ctx q).countP fun x => x.op == .cpyw && x.id < m.id && x.phase != .queued) % 2 ^ 32
  | none => 0

/-- A command starts. -/
def startCmd (c : Nat) (m : Cmd) (s : State) : State :=
  let m' := if m.op = .cbrev then claimCbrev s m else if m.op = .cpyw then { m with aux := cpywCount s c m } else m
  let m' : Cmd := { m' with phase := .started }
  let s := setCmd c m.id (fun _ => m') s
  if m.op = .cbrev then takeCbrev c m' s else if m.op = .pgalloc then takePgalloc c m' s else s

/-- Start the next command of an engine if it may start and is of the asked form, timed or not. -/
def startNext (c e : Nat) (timed : Bool) (s : State) : State := match nextCmd (getCore s c) e with
  | some m =>
    let now := match m.at_ with
      | some t => timed && decide (t ≤ s.tick)
      | none => !timed
    if now && mayStart s c m then startCmd c m s else s
  | none => s

/-! ## Suspended commands (R380) -/

/-- A command as it runs again from its first step; a SPLICE comes to its head anew (R97). -/
def Cmd.again (m : Cmd) : Cmd :=
  { m with
    phase := if m.op = .slotReturn then .sent else .started
    began := 0, retries := 0, refused := 0, behind := false, runs := 0
    claim := if m.op = .cpya then [] else m.claim, remote := m.remote && !(m.op == .cpya && cpyaInd m.es) }

/-- RESUME (R380): the command runs again from its first step. -/
def resumeCmd (c id : Nat) (s : State) : State := if (findCmd s c id).any fun m => m.cause.isSome then setCmd c id Cmd.again s else s

/-- The STAT that a suspended command's failure names: that of a SPLICE.trap (R368). -/
def statOf (m : Cmd) : Option Nat := match m.cause with
  | some e => if m.op = .splice ∧ m.sub = 1 ∧ e.cls = 6 ∧ 0x10 ≤ e.code ∧ e.code < 0x20 then some (e.code - 0x10) else none
  | none => none

/-- What a discarded command gives back: its claims, the references of an ENC, the head of a SPLICE, the pin of an UNPIN, and a slot return on its way. -/
def giveBack (c : Nat) (m : Cmd) (s : State) : State := match m.op with
  | .cbrev => match m.claim with
    | _ :: p :: _ => quarantine p s
    | _ => s
  | .pgalloc => match m.claim with
    | p :: _ => quarantine p s
    | [] => s
  | .splice => if m.aux = 1 then setBusy m.ga.toNat false s else s
  | .unpin => modOwner c m (fun y => { y with pins := modPin m.takes (fun p => { p with leaving := false }) y.pins }) s
  | .slotReturn => modHub (fun h => { h with ringMsgs := h.ringMsgs.filter fun x => match x with
    | .ret _ _ c' _ _ _ id => !(c' == c && id == m.id)
    | _ => true }) s
  | _ => s

/-- The ring of a discarded command stays at h: every later completion on it is dropped (R380). -/
def strandRing (c q : Nat) (m : Cmd) (s : State) : State :=
  let top := (qProd ((ownerCtx s c m).Q q) + comingBefore (getCore s c) m.ctx q m.id) % 2 ^ 32
  let s := modOwner c m (fun x => { x with dropped := { ring := q, top := top, pc := m.pc, eng := m.eng, id := m.id } :: x.dropped.filter fun d => d.ring != q }) s
  let later (x : Cmd) : Bool := x.ctx == m.ctx && x.ring == some q && decide (m.id < x.id)
  let gone := (getCore s c).cmds.filter fun x => later x && x.phase == .done
  let s := modCore c (fun k => { k with cmds := k.cmds.map fun x => if later x then { x with dropped := true } else x }) s
  settleRing c m.ctx q (gone.foldl (fun s x => leave c x s) s)

/-- A discarded send leaves the replay window and the way to its queue; the records behind it in the window are sent (R389), and the queue drops none for it. -/
def forgetSend (m : Cmd) (c : Nat) (s : State) : State :=
  if m.sends then
    let q := bits m.ga.toNat 7 0
    let mine (x : Inbound) : Bool := x.cmd == m.id && x.sender == .ctx c (m.ctx % 4) m.task
    let behind := (ownerCtx s c m).replay.filter fun r => r.queue == q && decide (m.id < r.cmd)
    let s := modOwner c m (fun x => { x with replay := x.replay.filter fun r => r.cmd != m.id && !behind.contains r }) s
    modHub (fun h => { h with
      inbox := (h.inbox.filter fun x => !mine x) ++ behind.map (inboundOf s c m)
      queues := h.queues.map fun p => (p.1, { p.2 with dropping := p.2.dropping.filter fun x => !mine x }) }) s
  else s

/-- DISCARD of a command, suspended or not started (R380, R382). -/
def discardCmd (c : Nat) (m : Cmd) (s : State) : State :=
  match statOf m with
  | some code => finishCmd c m (answerSplice c m.gb.toNat code none s)
  | none =>
    let s := giveBack c m (forgetSend m c (leave c m s))
    match m.ring with
    | some q => if m.dropped || (ownerCtx s c m).dropped.any fun d => d.ring == q && decide (d.id < m.id) then s else strandRing c q m s
    | none => s

end Sys2Proof.Machine
end

