-- ==== Sys2Proof/Machine/Tasks.lean ====
section
/-! DEFINITION. Launch records, hardware queues, tasks, their completion, and task graphs (R118 to R123, R127, R128, R382, R383). -/

namespace Sys2Proof.Machine

/-! ## Launch records (Table 6-4) -/

/-- PROG. -/
def lrProg (r : BitVec 512) : Nat := bits r.toNat 11 0
/-- NCORE. -/
def lrNcore (r : BitVec 512) : Nat := bits r.toNat 19 12
/-- SHAPE. -/
def lrShape (r : BitVec 512) : Nat := bits r.toNat 20 20
/-- MODE: a team. -/
def lrTeam (r : BitVec 512) : Bool := bits r.toNat 21 21 == 1
/-- PRIO. -/
def lrPrio (r : BitVec 512) : Nat := bits r.toNat 23 22
/-- VF. -/
def lrVf (r : BitVec 512) : Nat := bits r.toNat 28 24
/-- DET. -/
def lrDet (r : BitVec 512) : Bool := bits r.toNat 29 29 == 1
/-- BGRP. -/
def lrGroup (r : BitVec 512) : Nat := bits r.toNat 35 30
/-- CREC. -/
def lrCrec (r : BitVec 512) : Nat := bits r.toNat 127 107
/-- ARG1 to ARG6. -/
def lrArg (r : BitVec 512) (i : Nat) : BitVec 64 := .ofNat 64 (bits r.toNat (127 + 64 * i) (64 + 64 * i))
/-- The record with its VF field written by the device (R271). -/
def lrWithVf (r : BitVec 512) (f : Nat) : BitVec 512 := .ofNat 512 (bits r.toNat 23 0 + place f 24 5 + (r.toNat >>> 29) <<< 29)
/-- The record starts a task graph (R127). -/
def lrGraph (r : BitVec 512) : Bool := lrProg r == 0xFFF

/-- Are the record's enabled waits met (R120)? -/
def waitsMet (s : State) (r : BitVec 512) : Bool :=
  let w (en hi lo : Nat) : Bool := bits r.toNat en en == 0 || eventMet (counter s (lrVf r) (bits r.toNat hi lo)) (.ofNat 16 (bits r.toNat (hi + 16) (hi + 1)))
  w 36 48 37 && w 65 77 66

/-! ## Queues (Table 6-6) -/

/-- A hardware queue. -/
def queueOf (s : State) (q : Nat) : Queue := tget {} s.hub.queues q
/-- Change a queue. -/
def modQueue (q : Nat) (f : Queue → Queue) (s : State) : State := modHub (fun h => { h with queues := tput h.queues q (f (tget {} h.queues q)) }) s
/-- EN. -/
def qcEn (q : Queue) : Bool := q.conf.getLsbD 0
/-- VF. -/
def qcVf (q : Queue) : Nat := bits q.conf.toNat 5 1
/-- PMAX. -/
def qcPmax (q : Queue) : Nat := bits q.conf.toNat 7 6
/-- HOME. -/
def qcHome (q : Queue) : Nat := bits q.conf.toNat 9 8

/-- A barrier-group entry of a function (R111). -/
def groupEntry (s : State) (f g : Nat) : Nat := (vread s f (fblk s f 383 320 + 8 * g) 8).getD 0
/-- The entry is valid and its LEVEL is 4 or 5. -/
def groupOk (e : Nat) : Bool := bits e 3 3 == 1 && (bits e 2 0 == 4 || bits e 2 0 == 5)

/-- A program-table entry (R119, Table 19-1). -/
def progEntry (s : State) (f p : Nat) : Nat := (vread s f (fblk s f 191 128 + 8 * p) 8).getD 0

/-- Can the record run (STAT 0x02 of Table 23-2)? One that starts a graph has the same fields as any (R118); its PROG alone names no entry of the program table (R127). -/
def runnable (s : State) (r : BitVec 512) : Bool :=
  let n := lrNcore r
  (lrGraph r || progEntry s (lrVf r) (lrProg r) != 0)
  && (if lrShape r = 0 then n == 1 else n != 0 && n % 4 == 0 && n ≤ 192)
  && (!lrTeam r || [1, 4, 8, 12, 16].contains n)
  && (!lrDet r || lrTeam r || n ≤ 1)
  && (lrGroup r == 0 || groupOk (groupEntry s (lrVf r) (lrGroup r)))

/-! ## Members of a task -/

/-- The task of a number, changed. -/
def modTask (t : Nat) (f : TaskSt → TaskSt) (s : State) : State :=
  modHub (fun h => { h with tasks := h.tasks.map fun x => if x.id = t then f x else x }) s

/-- A member of a task, running or saved. -/
def memberCtx (s : State) (t : TaskSt) (p : Nat × Nat) : Context := taskCtx s p.1 p.2 t.id

/-- Change a member of a task. -/
def modMember (t : TaskSt) (p : Nat × Nat) (f : Context → Context) (s : State) : State := modTaskCtx p.1 p.2 t.id f s

/-- Has a context performed every write, and made visible every ring advance and message, that it issued (R112, R121, R316)? At a barrier only writes and advances count. A command whose completion is dropped counts as finished once it has performed: what it still writes is a write of its task (R316, R380). -/
def quiet (s : State) (arrival : Bool) (c k task : Nat) : Bool :=
  let co := getCore s c
  let j := ctxKey s c k task
  co.cmds.all (fun m => !(m.ctx == j && m.task == task))
    && co.mqueue.all (fun e => e.ctx != j || (arrival && e.op != .mopt && e.op != .mxfer))
    && co.window.all fun a => a.ctx != j || (arrival && !a.read.isEmpty)

/-- Has a participant arrived with everything that it issued: its writes have performed, and every ADV.cons it made is visible at its producer (R112, R140)? -/
def settledAt (s : State) (c k task : Nat) : Bool :=
  quiet s true c k task && (taskCtx s c k task).held.all fun h => h.ids.all (readDone (getCore s c))

/-! ## Task graphs (R127, R128) -/

/-- The header of a node. -/
def nodeHeader (s : State) (g : Graph) (n : Nat) : Option Nat := vread s g.func (g.array.toNat + 128 * n) 64
/-- KIND. -/
def ndKind (h : Nat) : Nat := bits h 2 0
/-- NSUCC; sixteen successors at most. -/
def ndNsucc (h : Nat) : Nat := min (bits h 7 3) 16
/-- Successor `i`, where the node lists one. -/
def ndSucc (h i : Nat) : Option Nat :=
  let n := bits h (143 + 16 * i) (128 + 16 * i)
  if i < ndNsucc h ∧ n ≠ 0xFFFF then some n else none
/-- The condition word. -/
def ndCond (s : State) (g : Graph) (h : Nat) : Option Nat := vread s g.func (bits h 115 64) 8

/-- The graph of a number. -/
def graphOf (s : State) (g : Nat) : Option Graph := s.hub.graphs.find? fun x => x.id == g

/-- Change a graph. -/
def modGraph (g : Nat) (f : Graph → Graph) (s : State) : State :=
  modHub (fun h => { h with graphs := h.graphs.map fun x => if x.id = g then f x else x }) s

/-- A graph stops with STAT 0x03 (R383). -/
def stopGraph (g : Graph) (s : State) : State :=
  modTask g.task (fun t => if t.ended.isSome then t else { t with ended := some (3, s.tick) }) (modGraph g.id (fun x => { x with stopped := true, ready := [] }) s)

/-- A successor becomes ready; one beyond the array stops the graph (R383). -/
def makeReady (g : Nat) (n : Nat) (s : State) : State := match graphOf s g with
  | some x => if x.stopped then s
    else if (nodeHeader s x n).isNone then stopGraph x s
    else modGraph g (fun x => { x with ready := x.ready ++ [n] }) s
  | none => s

/-- The successors that a list of indices names become ready. -/
def readyAll (g : Nat) (l : List (Option Nat)) (s : State) : State := l.foldl (fun s n => match n with
  | some n => makeReady g n s
  | none => s) s

/-- The task of a launch node has completed: every listed successor becomes ready (R128). -/
def nodeDone (g n : Nat) (s : State) : State := match graphOf s g with
  | none => s
  | some x =>
    let s := modGraph g (fun x => { x with live := x.live.erase n }) s
    match nodeHeader s x n with
    | some h => readyAll g ((List.range (ndNsucc h)).map (ndSucc h)) s
    | none => if x.stopped then s else stopGraph x s

/-- A ready node of a graph acts: one of KIND 5 to 7, or with an unreadable header, stops the graph (R383); one of another kind than the step's waits for its own. -/
def nodeActs (g n : Nat) (kind : Nat) (act : Graph → Nat → State → State) (s : State) : Result :=
  .next (match graphOf s g with
  | none => s
  | some x =>
    if !x.ready.contains n then s
    else match nodeHeader s x n with
    | none => stopGraph x s
    | some h =>
      if 5 ≤ ndKind h then stopGraph x s
      else if ndKind h = kind then act x h (modGraph g (fun x => { x with ready := x.ready.erase n }) s)
      else s)

/-- A node that chooses by its condition word. -/
def chooseNode (pick : Nat → Nat → Option Nat) (x : Graph) (h : Nat) (s : State) : State := match ndCond s x h with
  | none => stopGraph x s
  | some v => readyAll x.id [pick h v] s

/-- GRAPH_LAUNCH_NODE (R128). -/
def execGraphLaunchNode (g n : Nat) (s : State) : Result := nodeActs g n 0 (fun x _ s =>
  match vread s x.func (x.array.toNat + 128 * n + 64) 64 with
  | none => stopGraph x s
  | some r => modGraph g (fun x => { x with live := n :: x.live })
      (modHub (fun h => { h with inbox := h.inbox ++ [{ sender := .graph g, queue := x.queue, lr := .ofNat 512 r, graph := some (g, n) }] }) s)) s

/-- GRAPH_IF_NODE (R128). -/
def execGraphIfNode (g n : Nat) (s : State) : Result := nodeActs g n 1 (chooseNode fun h v => ndSucc h (if v ≠ 0 then 0 else 1)) s

/-- GRAPH_WHILE_NODE (R128). -/
def execGraphWhileNode (g n : Nat) (s : State) : Result := nodeActs g n 2 (chooseNode fun h v => ndSucc h (if v ≠ 0 then 0 else 1)) s

/-- GRAPH_SWITCH_NODE (R128). -/
def execGraphSwitchNode (g n : Nat) (s : State) : Result := nodeActs g n 3 (chooseNode fun h v => ndSucc h (min v (ndNsucc h - 1))) s

/-- GRAPH_JOIN_NODE (R128): ARRIVED counts in the node itself. -/
def execGraphJoinNode (g n : Nat) (s : State) : Result := nodeActs g n 4 (fun x h s =>
  match vphys s x.func (x.array.toNat + 128 * n + 48) with
  | none => stopGraph x s
  | some (a, _) =>
    let k := (bits h 399 384 + 1) % 65536
    if k = bits h 23 8 then readyAll g [ndSucc h 0] (devPut s a 0 2) else devPut s a k 2) s

/-! ## Completion (R121, R383) -/

/-- The completion record of Table 6-5. -/
def completionRecord (t : TaskSt) (stat : Nat) (tend : BitVec 64) : Nat :=
  t.tstart.toNat + place tend.toNat 64 64 + place t.queue 128 8 + place stat 136 8 + place (lrProg t.lr) 144 12 + place t.func 156 5
    + place t.seq.toNat 192 32 + place t.npre.toNat 224 32

/-- The die of a task's lowest-numbered core (R398). DESIGN CHOICE: die 0 for a task that has no core, a record dropped with STAT 0x02 or a graph; R398 does not say (log entry 76). -/
def taskDie (t : TaskSt) : Nat := match t.places with
  | p :: _ => dieOf p.1
  | [] => 0

/-- Write the completion record, unless the launch record names none. -/
def writeCompletion (t : TaskSt) (stat : Nat) (tend : BitVec 64) (s : State) : State :=
  if lrCrec t.lr = 0x1FFFFF then s
  else writeThrough s t.func (fblk s t.func 255 192 + 64 * lrCrec t.lr) (completionRecord t stat tend) (0x3000 + 16 * taskDie t) (taskDie t) 1

/-- A context of the function, saved or not idle, stands at the cluster. -/
def needsStore (s : State) (cl f : Nat) : Bool :=
  (s.hub.saved.any fun x => x.core / 4 == cl && x.ctx.func.toNat == f)
    || [0, 1, 2, 3].any fun i => !isSupCore (4 * cl + i) && [0, 1, 2, 3].any fun k =>
      let x := getCtx s (4 * cl + i) k; x.life != .idle && x.func.toNat == f

/-- The contexts of a task are free (R121): saved ones are gone, with a cluster save area that no context needs. -/
def freeContexts (t : TaskSt) (s : State) : State :=
  let s := modHub (fun h => { h with
    saved := h.saved.filter fun v => v.ctx.task != t.id
    calls := h.calls.filter fun x => x.task != t.id
    bound := h.bound.filter fun b => b.task != t.id }) s
  let s := t.places.foldl (fun s p => settleRefs p.1 (modTaskCtx p.1 p.2 t.id (fun x => { x with life := .idle, task := 0, frozen := none, block := none }) s)) s
  modHub (fun h => { h with clusterSaves := h.clusterSaves.filter fun v => needsStore s v.cluster v.func }) s

/-- A finished task writes its record, signals and frees its contexts, in that order (R121). -/
def closeTask (t : TaskSt) (s : State) : State := match t.ended with
  | none => s
  | some (stat, tend) =>
    let s := writeCompletion t stat tend s
    let s := if bits t.lr.toNat 94 94 = 1 then addCounter t.func (bits t.lr.toNat 106 95) 1 s else s
    let s := freeContexts t s
    let s := modHub (fun h => { h with tasks := h.tasks.filter (fun x => x.id != t.id), graphs := h.graphs.filter fun x => x.task != t.id }) s
    modQueue t.queue (fun q => { q with nextDone := q.nextDone + 1 }) s

/-- The tasks of a queue that may write their records, in queue order (R121). -/
def flushQueue (q : Nat) : Nat → State → State
  | 0, s => s
  | fuel + 1, s => match s.hub.tasks.find? fun t => t.queue == q && t.seq == (queueOf s q).nextDone && t.finished with
    | some t => flushQueue q fuel (closeTask t s)
    | none => s

/-- A task has completed: its group and its graph go on (R109, R128). -/
def finishTask (t : TaskSt) (s : State) : State :=
  let s := modTask t.id (fun x => { x with finished := true, ended := some (x.ended.getD (0, s.tick)) }) s
  let g := t.func * 64 + lrGroup t.lr
  let s := if lrGroup t.lr = 0 then s else modHub (fun h => { h with bgDone := tput h.bgDone g (tget 0 h.bgDone g + 1) }) s
  let s := match t.graph with
    | some (g, n) => nodeDone g n s
    | none => s
  flushQueue t.queue (s.hub.tasks.length + 1) s

/-- Has the task nothing left to do? -/
def taskDone (s : State) (t : TaskSt) : Bool :=
  t.places.all (fun p => (memberCtx s t p).life != .running && quiet s false p.1 p.2 t.id)
    && s.hub.graphs.all fun g => g.task != t.id || (g.ready.isEmpty && g.live.isEmpty)

/-- TASK_COMPLETE (R121). -/
def execTaskComplete (t : Nat) (s : State) : Result := .next (match taskOf s t with
  | some x => if !x.finished && taskDone s x then finishTask x s else s
  | none => s)

/-! ## The head of a queue (R383) -/

/-- A record that cannot run completes unplaced with STAT 0x02, at the tick at which it became head. -/
def dropRecord (q : Nat) (r : QRec) (s : State) : State :=
  let t : TaskSt := { id := s.hub.nextTask, func := lrVf r.lr, queue := q, seq := r.seq, lr := r.lr, prio := 0, tstart := s.tick, started := true,
                      ended := some (2, s.tick), graph := r.graph }
  finishTask t (modHub (fun h => { h with nextTask := h.nextTask + 1, tasks := h.tasks ++ [t] }) s)

/-- Records at the head of a queue that cannot run leave it. -/
def settleHead (q : Nat) : Nat → State → State
  | 0, s => s
  | fuel + 1, s => match (queueOf s q).recs with
    | r :: t => if runnable s r.lr then s else settleHead q fuel (dropRecord q r (modQueue q (fun x => { x with recs := t }) s))
    | [] => s

/-- The head record leaves its queue. -/
def popHead (q : Nat) (s : State) : State :=
  let s := modQueue q (fun x => { x with recs := x.recs.drop 1 }) s
  settleHead q (queueOf s q).recs.length s

/-! ## Abandonment (R382, R387) -/

/-- An abandoned context stops where it stands, its commands that have not started or are suspended are discarded, those of one that has retired before too, and what it holds is released once no command uses it. -/
def stopMember (t : TaskSt) (p : Nat × Nat) (s : State) : State :=
  let x := memberCtx s t p
  if x.task ≠ t.id ∨ x.life = .idle then s
  else
    let j := ctxKey s p.1 p.2 t.id
    let mine (m : Cmd) : Bool := m.ctx == j && m.task == t.id
    let gone := (getCore s p.1).cmds.filter fun m => mine m && (m.phase == .queued || m.cause.isSome) && !(m.op == .unpin && m.sub == 1)
    let s := gone.foldl (fun s m => onStore p.1 m.func (discardCmd p.1 m) s) s
    let co := getCore s p.1
    let open_ := (co.cmds.filter mine).map fun m => m.id
    let drops := x.bindings.map fun b => { refDropOf x co j b with ctx := p.2, after := 0, ids := (refDropOf x co j b).ids ++ open_ }
    let u := { unpinAll s x co j with ends := open_ }
    let pinned := x.life == .running && (!(memberCtx s t p).pins.isEmpty || open_ != [])
    let s := modCore p.1 (fun k => ({ k with
      refDrops := k.refDrops.map (fun r => if r.ctx = j then { r with ctx := p.2, after := 0 } else r) ++ drops
      cmds := if pinned then k.cmds ++ [u] else k.cmds } : Core).dropQueued fun e => e.ctx == j) s
    let s := modMember t p (fun x => { x with life := .retired, frozen := none, block := none, flights := [], b := [], target := none, delay := 0 }) (keepBubble p.1 p.2 (State.bump s))
    releaseBound p.1 j t.id s

/-- The barrier group of an abandoned task is broken (R387). -/
def breakGroup (t : TaskSt) (s : State) : State :=
  if lrGroup t.lr = 0 then s else modHub (fun h => { h with bgBroken := (t.func * 64 + lrGroup t.lr) :: h.bgBroken }) s

/-- ABANDON_TASK (R382). -/
def execAbandonTask (t : Nat) (s : State) : Result := .next (match taskOf s t with
  | none => s
  | some x =>
    if x.ended.isSome then s
    else
      let s := x.places.foldl (fun s p => stopMember x p s) s
      let s := modHub (fun h => { h with graphs := h.graphs.map fun g => if g.task = t then { g with stopped := true, ready := [] } else g }) s
      breakGroup x (modTask t (fun x => { x with ended := some (1, s.tick) }) s))

/-! ## Resuming a context (R326, R381, R394) -/

/-- Forget the instruction-cache lines of a bundle whose fetch failed (R394). -/
def refetch (f pc : Nat) (k : Core) : Core :=
  { k with icache := k.icache.filter fun l => !(l.1 == f && (l.2.1 == pc / 64 || l.2.1 == pc / 64 + 1)) }

/-- The lines of a bundle that could not be fetched are forgotten as its context goes on (R394). -/
def forgetFetch (c : Nat) (x : Context) (e : Cause) (s : State) : State :=
  if e.cls = 4 ∧ (e.code = 3 ∨ e.code = 4) then modCore c (refetch x.func.toNat x.pc.toNat) s else s

/-- A frozen context thaws: its faulting bundle issues again from its first syllable, a team's with its team (R326, R386). -/
def thaw (c k : Nat) (s : State) : State :=
  let x := getCtx s c k
  match x.frozen with
  | none => s
  | some e =>
    let s := modCtx c k resumeCtx s
    let s := if (taskOf s x.task).any (·.team) then modCtx c k (fun x => { x with block := some .team }) s else s
    forgetFetch c x e s

/-- RESUME_COMMAND (R380). -/
def execResumeCommand (c id : Nat) (s : State) : Result := atCore c (fun s => .next (resumeCmd c id s)) s

/-- DISCARD_COMMAND (R380). -/
def execDiscardCommand (c id : Nat) (s : State) : Result := atCore c (fun s => .next (match findCmd s c id with
  | some m => if m.cause.isSome then onStore c m.func (discardCmd c m) s else s
  | none => s)) s

end Sys2Proof.Machine
end

