-- ==== Sys2Proof/Machine/EngineEvents.lean ====
section
/-! DEFINITION. The steps of the engines, of results, of page walks and instruction fetches, of the page pool and of the supervisor's page service: one meaning for each. -/

namespace Sys2Proof.Machine

/-! ## Results (R104, R179, R180) -/

/-- Every due result of context `k` of core `c` lands. -/
def landOf (c k : Nat) (s : State) : State :=
  let due := (getCtx s c k).due
  modCore c (fun co => due.foldl Core.land co) (modCtx c k Context.landDue s)

/-- RESULT_LANDS (R104). -/
def execResultLands (c k : Nat) (s : State) : Result := atCtx c k (fun s => .next (landOf c k s)) s

/-! ## Matrix operations (R277) -/

/-- The completion of a matrix operation on its ring, as a command that has performed (R291, R292). -/
def matrixCmd (s : State) (e : MEntry) (q : Nat) : Cmd :=
  { id := e.id, op := .matrix, eng := 7, ctx := e.ctx, task := e.task, func := 0, pc := e.pc, ring := some q, epoch := s.hub.epoch, step := 0,
    cycle := s.cycle, phase := .done }

/-- Put a command among the others in the order of issue. -/
def putCmd (m : Cmd) (l : List Cmd) : List Cmd := l.takeWhile (fun x => decide (x.id < m.id)) ++ m :: l.dropWhile fun x => decide (x.id < m.id)

/-- A landed matrix operation advances its ring as an engine command does (R255, R379); none once an earlier command on it has been discarded (R380). -/
def advanceMatrix (c : Nat) (e : MEntry) (q : Nat) (s : State) : State :=
  if (ownerAt s c e.ctx e.task).dropped.any fun d => d.ring == q && decide (d.id < e.id) then s
  else settleRing c e.ctx q (modCore c (fun k => { k with cmds := putCmd (matrixCmd s e q) k.cmds }) s)

/-- The operation lands: registers, window and ring bytes, its peak contribution and its ring (R277, R290 to R292, R376). -/
def landMatrix (c : Nat) (e : MEntry) (r : MRes) (s : State) : State :=
  let s := modCore c (fun k => ({ k with mqueue := k.mqueue.drop 1, matrixFree := s.cycle + 1 } : Core).landMatrix e r) s
  let s := if e.op = .mzero then mapCtxs (fun c' _ x => if c' = c then { x with peakSeen := tset 0 x.peakSeen e.acc 0 } else x) s else s
  let s := localStore c true r.win s
  let s := localStore c r.ringWin r.ring s
  let s := if e.op = .mxfer then modOwnerAt c e.ctx e.task (fun x => x.markFilled .mf e.dests) s else s
  let s := if r.poisoned then markPoison c r.ringWin r.ring (markPoison c true r.win s) else s
  let s := match e.qout with
    | some q => advanceMatrix c e q s
    | none => s
  settleRefs c s

/-- MATRIX_OP_LAND (R277). -/
def execMatrixOpLand (c : Nat) (s : State) : Result :=
  atCore c (fun s => match (getCore s c).mqueue with
    | [] => .next s
    | e :: _ => when (matrixDone s c) (landMatrix c e (e.res.getD {})) s) s

/-! ## Engine commands (R255, R129) -/

/-- ENGINE_COMMAND_START (R255). -/
def execEngineCommandStart (c e : Nat) (s : State) : Result := atCore c (fun s => .next (startNext c e false s)) s

/-- TIMED_COMMAND_START (R129). -/
def execTimedCommandStart (c e : Nat) (s : State) : Result := atCore c (fun s => .next (startNext c e true s)) s

/-- An earlier record of the sender to the same queue of another package is not accepted yet (R143). -/
def earlierMsg (s : State) (c : Nat) (m : Cmd) : Bool := (getCore s c).cmds.any fun x =>
  x.op == .msg && x.ctx == m.ctx && bits x.ga.toNat 19 0 == bits m.ga.toNat 19 0 && decide (x.id < m.id) && x.phase != .done && !x.dropped

/-- An earlier such record has been negatively acknowledged: the queue drops what comes behind it (R143). -/
def droppedBefore (s : State) (c : Nat) (m : Cmd) : Bool := (getCore s c).cmds.any fun x =>
  x.op == .msg && x.ctx == m.ctx && bits x.ga.toNat 19 0 == bits m.ga.toNat 19 0 && decide (x.id < m.id) && x.phase == .sent && decide (0 < x.refused) && !x.dropped

/-- The records that wait behind the first one come again with it, in their first order (R143). -/
def comeAgain (c : Nat) (m : Cmd) (s : State) : State :=
  let later (x : Cmd) : Bool := x.op == .msg && x.ctx == m.ctx && bits x.ga.toNat 19 0 == bits m.ga.toNat 19 0 && decide (m.id < x.id)
  modCore c (fun k => { k with cmds := k.cmds.map fun x => if later x then { x with behind := false } else x }) s

/-- A negative acknowledgement from another package (R389): NACK is set; the sixty-fourth in a row suspends the command, else the record waits, the first one BACKOFF ticks, one behind it until the first comes again. -/
def nackAway (c : Nat) (m : Cmd) (first : Bool) (s : State) : State :=
  let t := modOwner c m (fun y => y.flag fNACK true) s
  if 64 ≤ m.refused + 1 then suspendCmd c m { cls := 7, code := 5, addr := m.ga } t
  else setCmd c m.id (fun x => { x with
    refused := x.refused + 1, behind := !first
    at_ := if first then some (s.tick + m.backoff.setWidth 64) else x.at_ }) t

/-- The answer of another package to the first of the records sent to one of its queues (R143, R271, R389; log entry 50): accepted, refused, or negatively acknowledged. -/
def peerAnswers (c : Nat) (m : Cmd) (s : State) : State :=
  let t := comeAgain c m s.bump
  match Config.peerAnswer s.fresh % 3 with
  | 0 => finishCmd c m t
  | 1 => suspendCmd c m { cls := 7, code := 3, addr := m.ga } t
  | _ => nackAway c m true t

/-- The turn of a record on its way to another package (R271): an answer for the first; a negative acknowledgement of its own for one that comes behind a dropped one (R143). -/
def acceptedAway (c : Nat) (m : Cmd) (s : State) : State :=
  if m.op = .msg ∧ m.phase = .sent ∧ bits m.ga.toNat 19 8 ≠ s.hub.package.toNat then
    if earlierMsg s c m then (if !m.behind && droppedBefore s c m then nackAway c m false s else s)
    else if m.at_.all (decide <| · ≤ s.tick) then peerAnswers c m s
    else s
  else s

/-- The kinds of command whose completion has no step of its own. -/
def plainOps : List Op := [.cpy, .cpya, .cpyw, .flapp, .share, .pgalloc, .pgfree, .msg, .task, .rmw, .evsig, .drain]

/-- An earlier slot return of the same consumer end has not left: they go in order (R77, R391). -/
def returnBehind (s : State) (c : Nat) (m : Cmd) : Bool := (getCore s c).cmds.any fun x =>
  x.op == .slotReturn && x.ctx == m.ctx && x.sub == m.sub && decide (x.id < m.id)

/-- A slot return to another package leaves. -/
def returnAway (c : Nat) (m : Cmd) (s : State) : State :=
  if !carried s c m.id && mayReturn s c m && !returnBehind s c m then leave c m s else s

/-- ENGINE_COMPLETION (R255): a command's turn, the answer to a record sent to another package, or the leaving of a slot return. -/
def execEngineCompletion (c id : Nat) (s : State) : Result := atCore c (fun s => .next (match findCmd s c id with
  | some m => if m.op = .slotReturn then returnAway c m s else if m.phase = .sent then acceptedAway c m s else turn c id plainOps s
  | none => s)) s

/-- CBIND_ARRAY_LANDS (R50). -/
def execCbindArrayLands (c id : Nat) (s : State) : Result := atCore c (fun s => .next (turn c id [.cbind] s)) s

/-- CBREV_PUBLISH (R54). -/
def execCbrevPublish (c id : Nat) (s : State) : Result := atCore c (fun s => .next (turn c id [.cbrev] s)) s

/-- ENC_COMPLETE (R62). -/
def execEncComplete (c id : Nat) (s : State) : Result := atCore c (fun s => .next (turn c id [.enc] s)) s

/-- SPLICE_PERFORM (R97). -/
def execSplicePerform (c id : Nat) (s : State) : Result := atCore c (fun s => .next (turn c id [.splice] s)) s

/-- PIN_PERFORM (R99). -/
def execPinPerform (c id : Nat) (s : State) : Result := atCore c (fun s => .next (turn c id [.pin] s)) s

/-- UNPIN_DROP (R99). -/
def execUnpinDrop (c id : Nat) (s : State) : Result := atCore c (fun s => .next (turn c id [.unpin] s)) s

/-- An allocation that waits at the head of the page engine's queue starts, and takes its page. -/
def startAlloc (c id : Nat) (s : State) : State := match nextCmd (getCore s c) 3 with
  | some m => if m.id = id ∧ m.op = .pgalloc ∧ mayStart s c m then startCmd c m s else s
  | none => s

/-- PGALLOC_PAGE_TAKEN (R83): an allocation that waits takes a page. -/
def execPgallocPageTaken (c id : Nat) (s : State) : Result := atCore c (fun s => .next (startAlloc c id s)) s

/-- PROBE_FILL_LANDS (R73). -/
def execProbeFillLands (c id : Nat) (s : State) : Result := atCore c (fun s => .next (turn c id [.probeFill] s)) s

/-! ## Scrub (R84, R336, R371) -/

/-- The lines of a page. -/
def linesOf (pfn : Nat) : List Nat := (List.range 1024).map fun i => pfn * 1024 + i

/-- A page of a function reset joins the free list with every line marked pending scrub, once quiescence passes the epoch of the reset (R336). -/
def joinReset (pfn : Nat) (s : State) : State :=
  let s := modHub (fun h => { h with
    resetPages := h.resetPages.filter fun p => p.1 != pfn
    scrubLines := h.scrubLines.filter (fun l => l / 1024 != pfn) ++ linesOf pfn }) s
  joinFree pfn s

/-- The scrub engine takes a page (R84). -/
def takeScrub (pfn : Nat) (s : State) : State :=
  let d := desc s pfn
  setDesc pfn (mkDesc 3 (dOwner d) (dShare d) (dStamp d)) s

/-- SCRUB_START (R84): when the quiescence counter has passed the page's epoch. -/
def execScrubStart (pfn : Nat) (s : State) : Result :=
  .next (match s.hub.resetPages.find? fun p => p.1 == pfn with
    | some (_, e) => if e < quiescence s then joinReset pfn s else s
    | none => if dState (desc s pfn) = 2 ∧ dStamp (desc s pfn) < quiescence s then takeScrub pfn s else s)

/-- SCRUB_DONE (R84, R55, R100, R373). -/
def execScrubDone (pfn : Nat) (s : State) : Result := when (dState (desc s pfn) == 3) (fun s => joinFree pfn (scrubPage pfn s)) s

/-- SCRUB_LINE_CLEAR (R371). -/
def execScrubLineClear (pfn line : Nat) (s : State) : Result := .next (scrubFirst (pfn * 1024 + line % 1024) s)

/-! ## Translation and fetch (R79, R161, R361, R394) -/

/-- The entries of the page table that a walk for a virtual address reads, by physical address, in order. -/
def walkReads (s : State) (f va : Nat) : List Nat :=
  let a1 := fblk s f 127 64 + 8 * bits va 51 40
  match nextTable s (fblk s f 127 64) (bits va 51 40) with
  | none => [a1]
  | some t2 => match nextTable s t2 (bits va 39 28) with
    | none => [a1, t2 + 8 * bits va 39 28]
    | some t3 => [a1, t2 + 8 * bits va 39 28, t3 + 8 * bits va 27 16]

/-- The walk of an XLAT that missed (R79, R362). -/
def walkDone (c k va : Nat) (s : State) : State :=
  let f := (getCtx s c k).func.toNat
  match walk s f va with
  | .ok l => tlbFill c f va l s
  | w => match w.cause false va with
    | some e => faultAt c k { e with slots := 0x80 } (w.met s)
    | none => s

/-- PAGE_WALK_DONE (R79). -/
def execPageWalkDone (c k : Nat) (s : State) : Result := atCtx c k (fun s => .next (match (getCtx s c k).block with
  | some (.xlat va) => if (tlbFind (getCore s c) (getCtx s c k).func.toNat va).isNone then walkDone c k va s else s
  | _ => s)) s

/-- Put a line into an instruction cache of 4,096 lines (R161; log entry 5). -/
def fillIcache (n : Nat) (l : Nat × Nat × BitVec 512) (t : List (Nat × Nat × BitVec 512)) : List (Nat × Nat × BitVec 512) :=
  l :: if 4096 ≤ t.length then t.eraseIdx (Config.icacheVictim n % t.length) else t

/-- Fetch the line of a virtual address for context `k` of core `c`. A context that still lacks a line goes on waiting. -/
def fetchLine (c k va : Nat) (s : State) : State :=
  let x := getCtx s c k
  let f := x.func.toNat
  match walk s f va with
  | .ok l =>
    match devIn ⟨f, x.stepno.toNat, bits l.pte 5 4⟩ (l.base + va / 64 * 64 % pageBytes l.psz) 64 s with
    | .bad s e => faultAt c k e s
    | .ok s bs =>
      let s := State.bump (modCore c (fun co => { co with icache := fillIcache s.fresh (f, va / 64, .ofNat 512 (ofLeBytes bs)) co.icache }) s)
      match fetchMiss (getCore s c) f x.supv x.pc with
      | some va' => modCtx c k (fun x => { x with block := some (.icache va') }) s
      | none => s
  | w => match w.cause true va with
    | some e => faultAt c k e (w.met s)
    | none => s

/-- ICACHE_FILL (R161). -/
def execIcacheFill (c k : Nat) (s : State) : Result := atCtx c k (fun s => .next (match (getCtx s c k).block with
  | some (.icache va) => if (icSyll (getCore s c) (getCtx s c k).func.toNat va).isNone then fetchLine c k va s else s
  | _ => s)) s

/-- Request `n` of those that a waiting context makes fails, and the context faults: CODE 0x0005 of a flit, or, of a CXL device, CODE 0x0004 (R331, R375). -/
def requestFails (c k slots : Nat) (l : List Nat) (n : Nat) (cxl : Bool) (s : State) : State := match l[n]? with
  | some a =>
    if cxl ∧ lineTier s a ≠ 2 then s
    else faultAt c k { cls := 9, code := if cxl then 4 else 5, slots := slots, addr := .ofNat 64 a } s
  | none => s

/-- Request `n` of the walk or the fetch for a virtual address fails (R331, R375): by its flits, or by a CXL device that does not answer. -/
def failFetch (c k va n : Nat) (fetch cxl : Bool) (s : State) : State :=
  let f := (getCtx s c k).func.toNat
  requestFails c k (if fetch then 0 else 0x80) (walkReads s f va ++ (if fetch then ((vphys s f (va / 64 * 64)).map (·.1)).toList else [])) n cxl s

/-! ## Revocation (R80, R364) -/

/-- Does a handle of the function carry the mapping tag? -/
def tagged (f tag : Nat) (h : BitVec 64) : Bool := hValid h && bits h.toNat 11 7 == f && bits h.toNat 63 52 == tag

/-- Revoke a mapping tag of a function. -/
def revokeTag (f tag : Nat) (s : State) : State :=
  modHub (fun h => { h with revokes := h.revokes ++ [⟨f, tag⟩], cxlRevoked := if h.cxlDown then (f, tag) :: h.cxlRevoked else h.cxlRevoked }) (dropHandles (tagged f tag) s)

/-- The leaves of the page table of function `f` from a table page on, `n` levels deep: of the entries that memory lists. -/
def leavesOf (s : State) (f : Nat) : Nat → Nat → List Nat
  | 0, _ => []
  | n + 1, table => (((s.mem.filter fun c => decide (table ≤ c.1) && decide (c.1 < table + 32768)).map fun c => (c.1 - table) / 8).dedup).flatMap fun i =>
    match pteStep s f (3 - n) table i with
    | (_, some (.ok l)) => [l.pte]
    | (_, some _) => []
    | (e, none) => leavesOf s f n (bits e 51 16 <<< 16)

/-- A page table maps CXL memory by a tag that has not been revoked since the link went down (R375). -/
def mapsCxl (s : State) : Bool := (List.range 17).any fun f => tget 0 s.hub.funcs f != 0
  && (leavesOf s f 3 (fblk s f 127 64)).any fun e => bits e 5 4 == 2 && !s.hub.cxlRevoked.contains (f, bits e 63 52)

/-- A valid handle or translation reaches CXL memory. -/
def reachesCxl (s : State) : Bool :=
  let t (h : BitVec 64) : Bool := hValid h && hTier h == 2
  ((ctxIds s).any fun p => (getCtx s p.1 p.2).h.any fun x => t x.2)
    || (s.hub.saved.any fun v => v.ctx.h.any fun x => t x.2) || (coreIds s).any fun c => (getCore s c).tlb.any fun e => t e.handle

/-- Requests to a CXL device whose link went down fail until every mapping into its extents is revoked: each that a page table holds, and what handles and translations keep of others (R375; log entry 49). -/
def settleCxl (s : State) : State :=
  if s.hub.cxlDown && !reachesCxl s && !mapsCxl s then modHub (fun h => { h with cxlDown := false, cxlRevoked := [] }) s else s

/-- MTAG_REVOKE (R80). -/
def execMtagRevoke (f tag : Nat) (s : State) : Result := .next (settleCxl (revokeTag f tag s))

/-- A command in flight captured a mapping of the tag. -/
def usesTag (s : State) (f tag : Nat) : Bool := (coreIds s).any fun c => (getCore s c).cmds.any fun m =>
  m.phase != .done && (tagged f tag m.h || tagged f tag m.h2)

/-- REVOKE_DONE (R80): it is reported only when no such command remains. -/
def execRevokeDone (f tag : Nat) (s : State) : Result :=
  when (!usesTag s f tag) (modHub fun h => { h with revokes := h.revokes.filter fun r => !(r.func == f && r.tag == tag) }) s

/-! ## The reserve zone (R88, R362) -/

/-- An error stands in the page. -/
def pageBad (s : State) (pfn : Nat) : Bool := s.hub.poison.any (fun l => l / 1024 == pfn) || s.hub.badLines.any fun l => l / 1024 == pfn

/-- Move a mapped page to the reserve zone: its entry gets RSV and loses V, its tag is revoked, and the page is freed. -/
def evict (f va a e : Nat) (s : State) : State :=
  let pfn := bits e 51 16
  let s := modHub (fun h => { h with reserve := (f, va / 65536) :: h.reserve }) (movePage pfn (reservePfn f (va / 65536)) s)
  let s := devPut s a (e - e % 2 - place (bits e 6 6) 6 1 + place 1 6 1) 8
  freePage pfn (revokeTag f (bits e 63 52) s)

/-- A command in flight captured a handle of the page. -/
def usesPage (s : State) (pfn : Nat) : Bool :=
  let on (h : BitVec 64) : Bool := hValid h && decide (hBase h / 65536 ≤ pfn ∧ pfn < (hBase h + hBytes h) / 65536)
  (coreIds s).any fun c => (getCore s c).cmds.any fun m => m.phase != .done && (on m.h || on m.h2)

/-- The entry of a virtual page that may be evicted, and its physical address: mapped, of the function's own pool pages, not shared, without an error, backing no step window, and captured by no command in flight. -/
def evictable (s : State) (f va : Nat) : Option (Nat × Nat) := match pte3Addr s f va with
  | none => none
  | some a =>
    let e := devNat s a 8
    let pfn := bits e 51 16
    if e % 2 = 1 ∧ dState (desc s pfn) = 1 ∧ dOwner (desc s pfn) = f ∧ dShare (desc s pfn) = 0 ∧ !pageBad s pfn
        ∧ tget 0 s.hub.copies pfn = 0 ∧ !usesPage s pfn then some (a, e) else none

/-- A range of virtual pages of a function: function, first page, pages. -/
abbrev PageRange := Nat × Nat × Nat

/-- The ranges that a staged program touches, in the order of its uses. -/
def Staged.uses (p : Staged) : List PageRange := p.ranges.map fun r => (p.f, r.1, r.2)

/-- The uses that lie ahead: those of the staged programs of the queued tasks. DESIGN CHOICE: by queue number, and within a queue in its order (log entry 56). -/
def usesAhead (s : State) : List PageRange := s.hub.queues.flatMap fun q => q.2.recs.flatMap fun r =>
  (s.hub.staged.filter fun p => p.f == lrVf r.lr && p.va == progEntry s (lrVf r.lr) (lrProg r.lr)).flatMap Staged.uses

/-- Range `a` is evicted rather than `b`: its next use lies farther ahead, one that is not used ahead farthest; of equal ones, it stands at the higher virtual address (R88). -/
def farther (ahead : List PageRange) (a b : PageRange) : Bool :=
  ahead.idxOf b < ahead.idxOf a || (ahead.idxOf b == ahead.idxOf a && b.2.1 < a.2.1)

/-- The range that the supervisor evicts from: of the ranges of staged programs with a page that may be evicted, the one with the farthest next use (R88). -/
def evictRange (s : State) : Option PageRange :=
  let ahead := usesAhead s
  ((s.hub.staged.flatMap Staged.uses).filter fun r => (List.range r.2.2).any fun i => (evictable s r.1 (65536 * (r.2.1 + i))).isSome).foldl
    (fun m r => match m with
      | none => some r
      | some b => if farther ahead r b then some r else m) none

/-- PAGE_EVICT (R88): a page of the range with the farthest next use. DESIGN CHOICE: where no staged range has a page to evict, the supervisor takes any page that may be evicted (log entry 56). -/
def execPageEvict (f va : Nat) (s : State) : Result := .next (match evictable s f va with
  | none => s
  | some (a, e) =>
    if (evictRange s).all fun r => r.1 == f && decide (r.2.1 ≤ va / 65536 ∧ va / 65536 < r.2.1 + r.2.2) then evict f va a e s else s)

/-- The faulted context that waited for a page of the reserve zone resumes; a fetch is made again (R326, R362, R394). -/
def resumeExpanded (c k : Nat) (s : State) : State :=
  if (getCtx s c k).frozen.any fun e => e.cls == 4 && (e.code == 2 || e.code == 4) then thaw c k s else s

/-- PAGE_EXPAND (R362): the page's bytes come back into a free page, V is set, and the context resumes. -/
def execPageExpand (f va c k : Nat) (s : State) : Result := atCtx c k (fun s => .next (
  match pte3Addr s f va with
  | none => s
  | some a =>
    if !reserved s f va then s
    else match takePage f s with
    | none => s
    | some (p, s) =>
      let q := reservePfn f (va / 65536)
      let e := devNat s a 8
      let s := movePage q p (scrubPage p s)
      let s : State := { s with mem := Memory.zero s.mem (q * 65536) 65536 }
      let s := modHub (fun h => { h with reserve := h.reserve.filter (· != (f, va / 65536)) }) s
      resumeExpanded c k (devPut s a (bits e 5 0 - e % 2 + 1 + place p 16 36 + place (bits e 63 52) 52 12) 8))) s

/-- LOG_ERASE (R86): the whole log is erased and its pointer reset. -/
def execLogErase (f log : Nat) (s : State) : Result :=
  let key := f * 16 + log % 16
  let l := tget {} s.hub.logs key
  let away (x : Nat) : Bool := !(decide (l.base ≤ 64 * x) && decide (64 * x < l.base + 4096 * l.pages))
  .next (modHub (fun h => { h with logs := tput h.logs key { l with ptr := 0 }, poison := h.poison.filter away, badLines := h.badLines.filter away }) { s with mem := Memory.zero s.mem l.base (4096 * l.pages) })

end Sys2Proof.Machine
end

