-- ==== Sys2Proof/Machine/Sched.lean ====
section
/-! DEFINITION. Acceptance and replay of records, dispatch and placement, the start of contexts, pre-emption, saving and restoring (R103, R107, R110, R113, R119, R123 to R125, R130, R131, R143, R381, R384, R385, R389). -/

namespace Sys2Proof.Machine

/-! ## Acceptance (R123, R143, R389) -/

/-- The function of a sender. -/
def senderFunc (s : State) (x : Inbound) : Option Nat := match x.sender with
  | .host _ => none
  | .ctx c _ _ => (findCmd s c x.cmd).map (·.func)
  | .graph g => (graphOf s g).map (·.func)

/-- Does the queue refuse the record: not enabled, or another function's (R389)? -/
def refuses (s : State) (x : Inbound) : Bool :=
  !qcEn (queueOf s x.queue) || (match senderFunc s x with
    | some f => f != qcVf (queueOf s x.queue)
    | none => false)

/-- The same record come again. -/
def sameRecord (x y : Inbound) : Bool := x.sender == y.sender && x.cmd == y.cmd && (x.cmd != 0 || x.lr == y.lr)

/-- Does the queue drop the record (R143)? A full queue does, and so does one that waits for an earlier record of the sender. A record of a graph node waits instead. -/
def drops (s : State) (x : Inbound) : Bool :=
  let q := queueOf s x.queue
  4096 ≤ q.recs.length || q.dropping.any fun y => y.sender == x.sender && !sameRecord x y

/-- The first record on its way to a queue. -/
def firstTo (s : State) (q : Nat) : Option Inbound := s.hub.inbox.find? fun x => x.queue == q

/-- The first inbound record to a queue leaves the way. -/
def takeInbound (x : Inbound) (s : State) : State := modHub (fun h => { h with inbox := h.inbox.erase x }) s

/-- The records of a sender on their way to a queue go to its replay window, without a negative acknowledgement of their own. -/
def holdBack (c : Nat) (m : Cmd) (q : Nat) (s : State) : State :=
  let mine (x : Inbound) : Bool := x.queue == q && x.sender == .ctx c (m.ctx % 4) m.task && x.cmd != m.id
  let l := s.hub.inbox.filter mine
  let s := modHub (fun h => { h with inbox := h.inbox.filter fun x => !mine x }) s
  modOwner c m (fun y => { y with replay := y.replay ++ l.map fun x => ⟨q, x.lr, x.cmd, s.tick.toNat, x.refused⟩ }) s

/-- A send is suspended; later records of the sender to the queue stay in its replay window (R389). -/
def suspendSend (c : Nat) (m : Cmd) (q code : Nat) (s : State) : State :=
  holdBack c m q (suspendCmd c m { cls := 7, code := code, addr := m.ga } s)

/-- The first host record of a queue that the test selects, changed; `none` takes it away. -/
def modHostRec (test : HostRec → Bool) (g : HostRec → Option HostRec) : List HostRec → List HostRec
  | [] => []
  | r :: t => if test r then (g r).toList ++ t else r :: modHostRec test g t

/-- A record leaves the replay window of its host queue window (R315). -/
def endHost (x : Inbound) (s : State) : State :=
  modHub (fun h => { h with hostRecs := modHostRec (fun r => r.queue == x.queue && r.lr == x.lr && !r.nacked) (fun _ => none) h.hostRecs }) s

/-- A refused record: its command is suspended; a host window sees the refusal in its response. -/
def refuse (x : Inbound) (s : State) : State :=
  let s := takeInbound x s
  match x.sender with
  | .ctx c _ _ => match findCmd s c x.cmd with
    | some m => suspendSend c m x.queue 3 s
    | none => s
  | .host _ => endHost x s
  | .graph g => match x.graph with
    | some (_, n) => (match graphOf s g with
      | some y => stopGraph y (modGraph g (fun y => { y with live := y.live.erase n }) s)
      | none => s)
    | none => s

/-- The queue accepts the record and stamps SEQ; one that becomes head at once is judged (R383), and the completion ring of the send advances (R123, R271). -/
def accept (x : Inbound) (s : State) : State :=
  let q := queueOf s x.queue
  let r : QRec := { lr := lrWithVf x.lr (qcVf q), seq := q.seq + 1, home := x.home, graph := x.graph }
  let s := modQueue x.queue (fun q => { q with seq := q.seq + 1, recs := q.recs ++ [r], dropping := q.dropping.filter fun y => y.sender != x.sender }) (takeInbound x s)
  let s := if q.recs.isEmpty then settleHead x.queue 1 s else s
  match x.sender with
  | .ctx c _ _ => (match findCmd s c x.cmd with
    | some m => finishCmd c m s
    | none => s)
  | .host _ => endHost x s
  | .graph _ => s

/-- QUEUE_RECORD_ACCEPT (R123, R324): the first record on its way to the queue is accepted, or refused by a queue that is not the sender's. -/
def execQueueRecordAccept (q : Nat) (s : State) : Result := .next (match firstTo s q with
  | none => s
  | some x =>
    if s.hub.bringUp < 8 then s
    else if refuses s x then refuse x s
    else if drops s x then s
    else accept x s)

/-- A negative acknowledgement (R143, R389): NACK is set, and the record waits in its sender's replay window, unless it was the sixty-fourth in a row. -/
def nack (x : Inbound) (s : State) : State :=
  let s := modQueue x.queue (fun q => if q.dropping.any fun y => y.sender == x.sender then q else { q with dropping := x :: q.dropping }) (takeInbound x s)
  match x.sender with
  | .ctx c _ _ => (match findCmd s c x.cmd with
    | none => s
    | some m =>
      let s := modOwner c m (fun y => y.flag fNACK true) s
      if 64 ≤ x.refused + 1 then suspendSend c m x.queue 5 s
      else modOwner c m (fun y => { y with replay := y.replay ++ [⟨x.queue, x.lr, x.cmd, s.tick.toNat, x.refused + 1⟩] }) s)
  | .host _ => modHub (fun h => { h with
      hostRecs := modHostRec (fun r => r.queue == x.queue && r.lr == x.lr && !r.nacked) (fun r => some { r with nacked := true }) h.hostRecs }) s
  | .graph _ => s

/-- NEGATIVE_ACKNOWLEDGEMENT (R389). -/
def execNegativeAcknowledgement (q : Nat) (s : State) : Result := .next (match firstTo s q with
  | none => s
  | some x => match x.sender with
    | .graph _ => s
    | _ => if decide (8 ≤ s.hub.bringUp) && !refuses s x && drops s x then nack x s else s)

/-- The contexts, running or saved, that stand at context `k` of core `c`, by task. -/
def tasksAt (s : State) (c k : Nat) : List Nat :=
  (getCtx s c k).task :: ((s.hub.saved.filter fun v => v.core == c && v.ctxId == k).map fun v => v.ctx.task)

/-- A command of a context sends to a queue of this package. -/
def sendsHere (s : State) (j t q : Nat) (m : Cmd) : Bool := m.ctx == j && m.task == t && m.sends && sendTo s m == (s.hub.package.toNat, q)

/-- May a context resend its records to a queue (R389)? BACKOFF ticks, as the first one's bundle read it (R214), have passed since its negative acknowledgement, none before it is suspended or still to be sent, and every later one that was on its way has been dropped too, so that all come in their first order (R143). -/
def mayReplay (s : State) (c k q t : Nat) : Bool :=
  let x := taskCtx s c k t
  match x.replay.find? fun r => r.queue == q with
  | none => false
  | some r => (findCmd s c r.cmd).all (fun m => decide (r.nackAt + m.backoff.toNat ≤ s.tick.toNat)) && (s.hub.inbox.all fun y => !(y.queue == q && y.sender == .ctx c k t))
      && (getCore s c).cmds.all fun m => !(sendsHere s (ctxKey s c k t) t q m && decide (m.id < r.cmd)) || m.phase == .sent || m.phase == .done

/-- A context resends its records to a queue, in their first order. -/
def resend (c k q t : Nat) (s : State) : State :=
  let l := (taskCtx s c k t).replay.filter fun r => r.queue == q
  let again (r : Replayed) : Inbound := { sender := .ctx c k t, queue := q, lr := r.lr, cmd := r.cmd, home := homeOf s c r.cmd, refused := r.refused }
  modHub (fun h => { h with inbox := h.inbox ++ l.map again }) (modTaskCtx c k t (fun x => { x with replay := x.replay.filter fun r => r.queue != q }) s)

/-- REPLAY (R389). -/
def execReplay (c k q : Nat) (s : State) : Result := atCtx c k (fun s => .next (match (tasksAt s c k).find? (mayReplay s c k q) with
  | some t => resend c k q t s
  | none => s)) s

/-- The replay window of a host queue window with a record written: a record whose response was negative comes again, and a new one takes one of eight places; none where the window is full (R315, log entry 64). -/
def hostWrite (q : Nat) (r : BitVec 512) (l : List HostRec) : Option (List HostRec) :=
  let again (x : HostRec) : Bool := x.queue == q && x.lr == r && x.nacked
  if l.any again then some (modHostRec again (fun x => some { x with nacked := false }) l)
  else if l.countP (fun x => x.queue == q) < 8 then some (l ++ [{ queue := q, lr := r }])
  else none

/-- LAUNCH_RECORD_WRITE (R315): the record is on its way from the queue's window. -/
def execLaunchRecordWrite (q : Nat) (r : BitVec 512) (s : State) : Result :=
  if q < 256 then .next (match hostWrite q r s.hub.hostRecs with
    | some l => modHub (fun h => { h with hostRecs := l, inbox := h.inbox ++ [{ sender := .host q, queue := q, lr := r }] }) s
    | none => s)
  else .fault .absentAgent

/-! ## SYNC lines (R113) -/

/-- The line of a die that a task holds. -/
def lineOf (t : TaskSt) (die : Nat) : Option Nat := match tget 0 t.lines die with
  | 0 => none
  | n + 1 => some n

/-- The lowest free line of a die. -/
def freeLine (s : State) (die : Nat) : Option Nat :=
  [0, 1, 2, 3, 4, 5, 6, 7].find? fun n => s.hub.tasks.all fun t => lineOf t die != some n

/-- The members of a task on a die. -/
def onDie (t : TaskSt) (die : Nat) : List (Nat × Nat) := t.places.filter fun p => dieOf p.1 == die

/-- DOMAIN with another SLINE. -/
def withLine (d : BitVec 64) (n : Nat) : BitVec 64 := .ofNat 64 (bits d.toNat 8 0 + place n 9 3 + (d.toNat >>> 12) <<< 12)

/-- Give a task a line of a die where it holds none, and write it into SLINE of its contexts there. -/
def giveLine (t : TaskSt) (die : Nat) (s : State) : State := match lineOf t die, freeLine s die with
  | none, some n =>
    let s := modTask t.id (fun x => { x with lines := tset 0 x.lines die (n + 1) }) s
    (onDie t die).foldl (fun s p => modMember t p (fun x => { x with domain := withLine x.domain n }) s) s
  | _, _ => s

/-- A line is freed when no context of the task on its die is placed. -/
def dropLine (t : TaskSt) (die : Nat) (s : State) : State :=
  if (onDie t die).all fun p => isSaved s p.1 p.2 t.id then modTask t.id (fun x => { x with lines := tset 0 x.lines die 0 }) s else s

/-! ## Placement (R103, R107, R125) -/

/-- The cores of a cluster. -/
def coresOf (cl : Nat) : List Nat := [4 * cl, 4 * cl + 1, 4 * cl + 2, 4 * cl + 3]

/-- The priority of a task. -/
def prioOf (s : State) (t : Nat) : Nat := ((taskOf s t).map (·.prio)).getD 0

/-- A saved context of at least this priority waits for the place. -/
def awaited (s : State) (c k prio : Nat) : Bool := s.hub.saved.any fun v => v.core == c && v.ctxId == k && v.ctx.life == .running && prio ≤ prioOf s v.ctx.task

/-- A team holds the core. -/
def teamHolds (s : State) (c : Nat) : Bool := [0, 1, 2, 3].any fun k => (getCtx s c k).life != .idle && ((taskOf s (getCtx s c k).task).any (·.team))

/-- The free contexts of a core for a record of a priority. -/
def freeOn (s : State) (c prio : Nat) : List Nat :=
  if teamHolds s c then [] else [0, 1, 2, 3].filter fun k => (getCtx s c k).life == .idle && !awaited s c k prio

/-- No window access and no matrix operation of the cluster is still to perform. -/
def clusterQuiet (s : State) (cl : Nat) : Bool := (coresOf cl).all fun c => (getCore s c).window.isEmpty && (getCore s c).mqueue.isEmpty

/-- The functions that stand at a cluster with a context, saved or not idle, and whose scratchpads are in it and not in a cluster save area. -/
def holdersOf (s : State) (cl : Nat) : List Nat := (List.range 32).filter fun f =>
  needsStore s cl f && s.hub.clusterSaves.all fun v => !(v.cluster == cl && v.func == f)

/-- A cluster may be used by a function where it is idle or all of its running contexts are the function's (R125), once nothing of another function that held it still moves. -/
def clusterOk (s : State) (cl f : Nat) : Bool :=
  ((coresOf cl).all fun c => [0, 1, 2, 3].all fun k => (getCtx s c k).life != .running || (getCtx s c k).func.toNat == f)
    && (((holdersOf s cl).all (· == f)) || clusterQuiet s cl)

/-- The dies in the order of placement, without those that have no SYNC line free. -/
def diesFrom (s : State) (home : Nat) : List Nat := ([0, 1, 2, 3].map fun i => (home + i) % 4).filter fun d => (freeLine s d).isSome

/-- The clusters of a die. -/
def clustersOf (d : Nat) : List Nat := (List.range 12).map fun i => 12 * d + i

/-- The place that a core offers: a free context, of a whole idle core for a team. -/
def offer (s : State) (team : Bool) (prio c : Nat) : Option (Nat × Nat) :=
  let l := freeOn s c prio
  if team && l.length < 4 then none else l.head?.map fun k => (c, k)

/-- The places of a whole cluster. -/
def clusterOffer (s : State) (f : Nat) (team : Bool) (prio cl : Nat) : Option (List (Nat × Nat)) :=
  if clusterOk s cl f then (coresOf cl).mapM (offer s team prio) else none

/-- Where a record can be placed (R125). -/
def placement (s : State) (r : BitVec 512) (prio home : Nat) : Option (List (Nat × Nat)) :=
  let f := lrVf r
  let team := lrTeam r
  let dies := diesFrom s home
  if lrShape r = 0 then
    dies.findSome? fun d => (clustersOf d).findSome? fun cl =>
      if clusterOk s cl f then ((coresOf cl).findSome? (offer s team prio)).map fun p => [p] else none
  else
    let need := lrNcore r / 4
    let pick (ds : List Nat) : Option (List (Nat × Nat)) :=
      let l := (ds.flatMap clustersOf).filterMap (clusterOffer s f team prio)
      if need ≤ l.length then some (l.take need).flatten else none
    if team then dies.findSome? fun d => pick [d] else pick dies

/-! ## The start of contexts (R110, R119) -/

/-- The level TOP of a new task (R110). -/
def topOf (s : State) (r : BitVec 512) (places : List (Nat × Nat)) : Nat :=
  let same (f : Nat → Nat) : Bool := places.all fun p => places.all fun q => f p.1 == f q.1
  if lrGroup r ≠ 0 then bits (groupEntry s (lrVf r) (lrGroup r)) 2 0
  else if lrTeam r then 2
  else if lrNcore r = 1 then 0
  else if same (· / 4) then 1
  else if same dieOf then 3
  else 4

/-- The start state of context `p` with placement index `i` (R119). SAVECFG stays as the supervisor wrote it. -/
def startCtx (s : State) (t : TaskSt) (top i : Nat) (p : Nat × Nat) (old : Context) : Context :=
  let g := ([1, 2, 3, 4, 5, 6].map fun j => (j, lrArg t.lr j)) ++ [(7, .ofNat 64 i)]
  { resetContext p.1 with
    pc := .ofNat 64 (progEntry s t.func (lrProg t.lr))
    life := .running
    func := .ofNat 5 t.func
    task := t.id
    g := tsetMany 0 [] g
    teampos := if t.team then .ofNat 4 i else 0
    domain := .ofNat 64 (0x3F + place top 6 3 + place (lrGroup t.lr) 12 6 + place (if lrDet t.lr then 1 else 0) 18 1)
    stepno := if lrGroup t.lr = 0 then 0 else tget 0 s.hub.bgSteps ((t.func * 64 + lrGroup t.lr) * 8 + top)
    savecfg := old.savecfg }

/-- A core whose running context has nothing to run runs context `k`. DESIGN CHOICE: a context that starts or comes back on such a core is its running one at once, ahead of the ready contexts in line (log entry 65). -/
def runOn (c k : Nat) (s : State) : State :=
  let now := if c = s.coreId then s.ctxId else (getCore s c).running
  if (getCtx s c now).life = .running then s
  else if c = s.coreId then switchTo k s
  else modCore c (fun co => { co with running := k }) s

/-- Zero a core's storage before another function's task starts (R131). -/
def zeroCore (k : Core) : Core :=
  { k with scratch := [], shared := [], tags := [], scratchPoison := [], sharedPoison := [], tile := [], acc := [], peaks := [], tilePoison := 0, accPoison := 0,
           stats := [], tlb := [] }

/-- The save engine writes a cluster's scratchpads to the function's cluster save area and zeroes the cluster (R131). DESIGN CHOICE: no field names that area's address, and it lies outside the memory that programs reach (log entry 77). -/
def takeCluster (cl f : Nat) (s : State) : State :=
  let v : ClusterSave := ⟨cl, f, (coresOf cl).map fun c => storeOf (getCore s c)⟩
  modHub (fun h => { h with clusterSaves := h.clusterSaves ++ [v] }) ((coresOf cl).foldl (fun s c => modCore c zeroCore s) s)

/-- A cluster comes to a function (R131): what another function has in it goes to that one's save area, and the function's own scratchpads come back from its own. -/
def loadCluster (cl f : Nat) (s : State) : State :=
  let s := ((holdersOf s cl).filter (· != f)).foldl (fun s g => takeCluster cl g s) s
  modHub (fun h => { h with clusterSaves := h.clusterSaves.filter fun v => !(v.cluster == cl && v.func == f) }) (swapStore cl f s)

/-- Start one context of a task. -/
def startMember (t : TaskSt) (top i : Nat) (p : Nat × Nat) (s : State) : State :=
  let s := loadCluster (p.1 / 4) t.func s
  let s := runOn p.1 p.2 s
  modCtx p.1 p.2 (startCtx s t top i p) s

/-- The first cycle on which every core of a list may issue. -/
def allFree (s : State) (l : List (Nat × Nat)) : Nat := l.foldl (fun m p => max m (getCore s p.1).freeAt) s.cycle

/-- The cores of a team that starts issue two cycles apart in the order of its members (R108). -/
def paceTeam (l : List (Nat × Nat)) (s : State) : State :=
  l.zipIdx.foldl (fun s' p => modCore p.1.1 (fun k => { k with freeAt := allFree s l + 2 * p.2 }) s') s

/-- The places in ascending COREID. -/
def byCore (l : List (Nat × Nat)) : List (Nat × Nat) :=
  let rec put (p : Nat × Nat) : List (Nat × Nat) → List (Nat × Nat)
    | [] => [p]
    | q :: t => if p.1 ≤ q.1 then p :: q :: t else q :: put p t
  l.foldr put []

/-- Place the head record of a queue: start its contexts, or its graph. -/
def placeRecord (q prio : Nat) (r : QRec) (places : List (Nat × Nat)) (s : State) : State :=
  let id := s.hub.nextTask
  let places := byCore places
  let t : TaskSt := { id := id, func := lrVf r.lr, queue := q, seq := r.seq, lr := r.lr, prio := prio, places := places, team := lrTeam r.lr && !lrGraph r.lr,
                      order := id, graph := r.graph }
  let t : TaskSt := if lrGraph r.lr then { t with tstart := s.tick, started := true } else t
  let s := modHub (fun h => { h with nextTask := id + 1, tasks := h.tasks ++ [t] }) (modQueue q (fun x => { x with recs := x.recs.drop 1 }) s)
  let s := if lrGraph r.lr then
      let g : Graph := { id := id, func := t.func, queue := q, task := id, array := lrArg r.lr 1 }
      makeReady id (lrArg r.lr 2).toNat (modHub (fun h => { h with graphs := h.graphs ++ [g] }) s)
    else
      let top := topOf s r.lr places
      let s := places.zipIdx.foldl (fun s p => startMember t top p.2 p.1 s) s
      let s := if t.team then paceTeam places s else s
      (places.map fun p => dieOf p.1).dedup.foldl (fun s d => giveLine { t with lines := ((taskOf s id).map (·.lines)).getD [] } d s) s
  settleHead q (queueOf s q).recs.length s

/-! ## DISPATCH (R124) -/

/-- A ready head: its queue, record and effective priority. -/
structure Head where
  q : Nat
  r : QRec
  prio : Nat
deriving DecidableEq, Repr

/-- The ready heads. -/
def readyHeads (s : State) : List Head := s.hub.queues.filterMap fun p => match p.2.recs with
  | r :: _ => if waitsMet s r.lr then some ⟨p.1, r, min (lrPrio r.lr) (qcPmax p.2)⟩ else none
  | [] => none

/-- The ready heads of a function at a priority. -/
def headsOf (s : State) (f p : Nat) : List Head := (readyHeads s).filter fun h => h.prio == p && lrVf h.r.lr == f

/-- The next of the heads after queue `last` minus one, round-robin. -/
def nextHead (last : Nat) (l : List Head) : Option Head := match l.find? fun h => last ≤ h.q with
  | some h => some h
  | none => l.head?

/-- The deficit key of a function at a priority. -/
def defKey (f p : Nat) : Nat := f * 4 + p

/-- Where the head can be placed; a graph needs no context. -/
def placeable (s : State) (h : Head) : Option (List (Nat × Nat)) :=
  if lrGraph h.r.lr then some [] else placement s h.r.lr h.prio (h.r.home.getD (qcHome (queueOf s h.q)))

/-- Serve a function at a priority: the state, how many records were placed, and whether DISPATCH stops. -/
def serve (f p : Nat) (alone : Bool) : Nat → State × Nat → (State × Nat) × Bool
  | 0, x => (x, false)
  | fuel + 1, (s, n) => match nextHead (tget 0 s.hub.lastQueue (defKey f p)) (headsOf s f p) with
    | none => ((s, n), false)
    | some h =>
      let d := tget 0 s.hub.deficit (defKey f p)
      if alone || lrNcore h.r.lr ≤ d then match placeable s h with
        | none => ((s, n), true)
        | some l =>
          let s := placeRecord h.q p h.r l s
          let s := modHub (fun x => { x with
            deficit := tset 0 x.deficit (defKey f p) (tget 0 x.deficit (defKey f p) - lrNcore h.r.lr)
            lastFunc := tset 0 x.lastFunc p (f + 1)
            lastQueue := tset 0 x.lastQueue (defKey f p) (h.q + 1) }) s
          serve f p alone fuel (s, n + 1)
      else ((s, n), false)

/-- Serve the functions in turn; each gains its weight first. -/
def serveAll (p : Nat) (alone : Bool) : List Nat → State × Nat → (State × Nat) × Bool
  | [], x => (x, false)
  | f :: t, (s, n) =>
    let s := modHub (fun x => { x with deficit := tset 0 x.deficit (defKey f p) (tget 0 x.deficit (defKey f p) + fblk s f 15 8) }) s
    match serve f p alone (1 + (s.hub.queues.map fun q => q.2.recs.length).sum) (s, n) with
    | (x, true) => (x, true)
    | (x, false) => serveAll p alone t x

/-- The functions with a ready head at a priority, ascending from the one after the last served. -/
def turnOrder (s : State) (p : Nat) : List Nat :=
  let fs := (List.range 17).filter fun f => !(headsOf s f p).isEmpty
  let last := tget 0 s.hub.lastFunc p
  fs.filter (fun f => last ≤ f) ++ fs.filter fun f => f < last

/-- One run of DISPATCH: the state, the records placed, and whether it stopped at one that cannot be placed. -/
def dispatchRun (s : State) : (State × Nat) × Bool :=
  match (readyHeads s).map (·.prio) with
  | [] => ((s, 0), true)
  | l =>
    let p := l.foldl max 0
    let fs := turnOrder s p
    match serveAll p (fs.length == 1) fs (s, 0) with
    | (x, true) => (x, true)
    | ((s, n), false) =>
      let none_ := (List.range 17).filter fun f => (headsOf s f p).isEmpty
      ((modHub (fun x => { x with deficit := tsetMany 0 x.deficit (none_.map fun f => (defKey f p, 0)) }) s, n), false)

/-- DISPATCH (R124). -/
def execDispatch (s : State) : Result := .next (dispatchRun s).1.1

/-! ## The save area (Table 6-9) -/

/-- Bytes of the save area whose layout the table does not give: free values (log entry 9). -/
def freeBytes (n off len : Nat) : List Byte := (List.range len).map fun i => Config.saveByte (n * 65536 + off + i)

/-- The context part of the save area, by offset. DESIGN CHOICE: V, M and W register by register, section within register, each W with its lineage behind its lanes (log entry 9). -/
def saveImage (n : Nat) (x : Context) : List (Nat × List Byte) :=
  let words (l : List Nat) (f : Nat → Nat) (w : Nat) : List Byte := l.flatMap fun i => leBytes (f i) w
  [(0, freeBytes n 0 64),
   (0x40, words (List.range 64) (fun i => (x.G i).toNat) 8),
   (0x240, freeBytes n 0x240 448),
   (0x400, words (List.range 16) (fun i => (x.Q i).toNat) 16),
   (0x500, words (List.range 16) (fun i => (x.H i).toNat) 8),
   (0x580, words (List.range 8) (fun i => (x.B i).toNat) 8),
   (0x5C0, words (List.range 16) (fun i => (x.XP i).toNat) 8),
   (0x640, words (List.range 16) (fun i => (x.ES i).toNat) 8),
   (0x6C0, freeBytes n 0x6C0 128),
   (0x800, freeBytes n 0x800 16384),
   (0x4800, words (List.range 256) (fun i => (x.V (i / 8) (i % 8)).toNat) 64),
   (0x8800, words (List.range 64) (fun i => (x.M (i / 8) (i % 8)).toNat) 8),
   (0x8A00, words (List.range 64) (fun i => (x.W (i / 8) (i % 8)).toNat) 33)]

/-- SFIRST and the end of the statistics entries that SAVECFG names (Table 6-8). -/
def statRange (x : Context) : Nat × Nat := (bits x.savecfg.toNat 45 36 * 16, (bits x.savecfg.toNat 45 36 + min (bits x.savecfg.toNat 56 46) 1024) * 16)

/-- The tiles and accumulators that context `k` of a core owns. -/
def ownedTiles (co : Core) (k : Nat) : List Nat := (List.range 16).filter fun t => tileOwner co t == k
/-- The accumulators that context `k` owns. -/
def ownedAccs (co : Core) (k : Nat) : List Nat := (List.range 12).filter fun a => accOwner co a == k

/-- The storage part of the save area: owned tiles, accumulators and named statistics entries. -/
def saveStore (co : Core) (k : Nat) (x : Context) : List (Nat × List Byte) :=
  let ts := ownedTiles co k
  let as := ownedAccs co k
  let base := 0x10000 + 65536 * ts.length
  let st := statRange x
  (ts.zipIdx.map fun p => (0x10000 + 65536 * p.2, (List.range 65536).map fun i => tget 0 co.tile (p.1 * 65536 + i)))
  ++ (as.zipIdx.map fun p => (base + 262144 * p.2, (List.range 65536).flatMap fun i => leBytes (tget 0 co.acc (p.1 * 65536 + i)).toNat 4))
  ++ [(base + 262144 * as.length, (List.range (st.2 - st.1)).flatMap fun i => leBytes (tget 0 co.stats (st.1 + i)).toNat 16)]

/-- Write a context's save area (R130). -/
def writeSave (c k : Nat) (s : State) : State :=
  let x := getCtx s c k
  let va := bits x.savecfg.toNat 35 0 <<< 16
  let l := saveImage s.fresh x ++ saveStore (getCore s c) k x
  State.bump (l.foldl (fun s p => vstore x.func.toNat (va + p.1) p.2 s) s)

/-! ## Saving and restoring (R130, R131, R381) -/

/-- What is saved of context `k` of core `c`. -/
def savedOf (s : State) (c k : Nat) (faulted : Bool) : Saved :=
  let co := getCore s c
  let x := getCtx s c k
  let ts := ownedTiles co k
  let as := ownedAccs co k
  let st := statRange x
  { core := c, ctxId := k, ctx := { x with readySince := 0, saving := false }, faulted := faulted,
    tile := co.tile.filter (fun p => ts.contains (p.1 / 65536)), shapes := co.shapes.filter (fun p => ts.contains p.1),
    acc := co.acc.filter (fun p => as.contains (p.1 / 65536)), peaks := co.peaks.filter (fun p => as.contains p.1),
    tilePoison := ts.foldl (fun m t => if co.tilePoison.getLsbD t then m ||| (1 <<< t) else m) 0,
    accPoison := as.foldl (fun m a => if co.accPoison.getLsbD a then m ||| (1 <<< a) else m) 0,
    stats := co.stats.filter fun p => decide (st.1 ≤ p.1) && decide (p.1 < st.2)
    tshare := co.tshare }

/-- Rename a context in the queues of its core: `a` becomes `b`. -/
def renameCtx (c a b task : Nat) (s : State) : State :=
  let s := modCore c (fun k => { k with
    cmds := k.cmds.map fun m => if m.ctx = a ∧ m.task = task then { m with ctx := b } else m
    window := k.window.map fun w => if w.ctx = a then { w with ctx := b } else w
    refDrops := k.refDrops.map fun r => if r.ctx = a then { r with ctx := b } else r }) s
  modHub (fun h => { h with ringMsgs := h.ringMsgs.map fun m => match m with
    | .ret f l c' k q i id => if c' = c ∧ k = a then .ret f l c' b q i id else m
    | m => m }) s

/-- A context may be saved: none of its matrix operations are queued, and none of its window accesses are still to perform. -/
def maySave (s : State) (c k : Nat) : Bool :=
  (getCtx s c k).life == .running && (getCore s c).mqueue.all (fun e => e.ctx != k) && (getCore s c).window.all fun a => a.ctx != k

/-- Save a context (R130, R381): pins and bindings stay held, and its place becomes free. DESIGN CHOICE: no flit of a save or of a restore fails for good, for which R331 gives no outcome (log entry 84). -/
def saveCtx (c k : Nat) (s : State) : State :=
  let x := getCtx s c k
  let t := taskOf s x.task
  let sv := savedOf s c k x.frozen.isSome
  let s := writeSave c k s
  let s := modCtx c k (Context.vacated c) (keepBubble c k (renameCtx c k (k + 4 * x.task) x.task s))
  let s := modHub (fun h => { h with saved := h.saved ++ [sv] }) s
  match t with
  | some t => dropLine t (dieOf c) s
  | none => s

/-- The head that cannot be placed and for which a context may be pre-empted (R130). -/
def needy (s : State) : Option Head :=
  let l := readyHeads s
  let p := l.foldl (fun m h => max m h.prio) 0
  l.find? fun h => h.prio == p && (placeable s h).isNone

/-- May a context of lower priority, not taken yet, give way to the head: its cluster is the head's function's, or is taken whole, every context in it of lower priority and none of a team? -/
def givesWay (s : State) (h : Head) (c k : Nat) : Bool :=
  let x := getCtx s c k
  let low (y : Context) : Bool := y.life != .running || (prioOf s y.task < h.prio && !((taskOf s y.task).any (·.team)))
  !isSupCore c && x.life == .running && !x.saving && prioOf s x.task < h.prio && !((taskOf s x.task).any (·.team))
    && (x.func.toNat == lrVf h.r.lr || (coresOf (c / 4)).all fun d => [0, 1, 2, 3].all fun j => low (getCtx s d j))

/-- Is context (c, k) next to be pre-empted: of the lowest priority, and of those the most recently started (R130)? -/
def nextVictim (s : State) (h : Head) (c k : Nat) : Bool :=
  let order (x : Context) : Nat := ((taskOf s x.task).map (·.order)).getD 0
  let x := getCtx s c k
  givesWay s h c k && (ctxIds s).all fun p =>
    let y := getCtx s p.1 p.2
    !givesWay s h p.1 p.2 || decide (prioOf s x.task < prioOf s y.task) || (prioOf s x.task == prioOf s y.task && decide (order y ≤ order x))

/-- A pre-emption counts once for a task, at the first of its contexts to be saved (Table 6-5). -/
def countPreempt (t : Nat) (s : State) : State :=
  if s.hub.saved.any fun v => v.ctx.task == t then s else modTask t (fun x => { x with npre := x.npre + 1 }) s

/-- Save every member of a team (R130, R385). -/
def saveTeam (t : TaskSt) (s : State) : State := t.places.foldl (fun s p => if (getCtx s p.1 p.2).life = .running ∧ (getCtx s p.1 p.2).task = t.id then saveCtx p.1 p.2 s else s) s

/-- A member of a team is frozen by a fault. -/
def teamFaulted (s : State) (t : TaskSt) : Bool := t.places.any fun p => (memberCtx s t p).frozen.isSome

/-- Every running member of a team may be saved. -/
def maySaveTeam (s : State) (t : TaskSt) : Bool := t.places.all fun p => (getCtx s p.1 p.2).life != .running || maySave s p.1 p.2

/-- The placed teams of lower priority than a head. -/
def lowTeams (s : State) (h : Head) : List TaskSt := s.hub.tasks.filter fun t =>
  t.team && decide (t.prio < h.prio) && t.places.any fun p => (getCtx s p.1 p.2).life == .running && (getCtx s p.1 p.2).task == t.id

/-- The package once the contexts and teams that wait for their save are gone (R130). -/
def afterSaves (s : State) : State :=
  let gone := (s.hub.tasks.filter fun t => t.team && t.preempt).map (·.id)
  let out (x : Context) : Bool := x.saving || gone.contains x.task
  mapCores (fun c k => { k with
      window := k.window.filter fun a => !out (getCtx s c a.ctx)
      mqueue := k.mqueue.filter fun e => !out (getCtx s c e.ctx) })
    (mapCtxs (fun _ _ x => if out x then { x with life := .idle } else x) s)

/-- The head fits once they are gone: no more need give way. -/
def fitsThen (s : State) (h : Head) : Bool := (placeable (afterSaves s) h).isSome

/-- Is the team next to be pre-empted: of the lowest priority of those not waiting for it, and of them the most recently started (R130)? -/
def nextTeam (s : State) (h : Head) (t : TaskSt) : Bool :=
  !t.preempt && !fitsThen s h && (lowTeams s h).all fun u =>
    u.preempt || decide (t.prio < u.prio) || (t.prio == u.prio && decide (u.order ≤ t.order))

/-- Pre-empt a team for the head: at once with a faulted member, else at its next STEP (R130, R385). -/
def preemptTeam (h : Head) (t : TaskSt) (s : State) : State :=
  if (t.preempt || nextTeam s h t) && teamFaulted s t && maySaveTeam s t then
    modTask t.id (fun x => { x with preempt := false }) (saveTeam t (countPreempt t.id s))
  else if nextTeam s h t then modTask t.id (fun x => { x with preempt := true }) s
  else s

/-- A context that has been taken is saved, once none of its window accesses and matrix operations are left (R130). -/
def saveTaken (c k : Nat) (s : State) : State := if maySave s c k then saveCtx c k (countPreempt (getCtx s c k).task s) else s

/-- PREEMPT_SAVE (R130, R131, R384, R385): a free-mode context is taken at the bundle boundary where it stands, outside delay bundles, one resumed after a fault only once the faulting bundle has issued; it issues no more, and is saved. Where none gives way, a team is. -/
def execPreemptSave (c k : Nat) (s : State) : Result := atCtx c k (fun s => .next (
  let x := getCtx s c k
  if x.saving then saveTaken c k s
  else match needy s, taskOf s x.task with
    | some h, some t =>
      if t.team then
        if x.life == .running && t.prio < h.prio && !((ctxIds s).any fun p => givesWay s h p.1 p.2) then preemptTeam h t s else s
      else if nextVictim s h c k && !fitsThen s h && x.delay == 0 && (x.frozen.isSome || !x.retrying) then
        saveTaken c k (modCtx c k (fun x => { x with saving := true }) s)
      else s
    | _, _ => s)) s

/-- SAVE_FAULTED (R381, R385): the supervisor saves a faulted context, or its whole team. -/
def execSaveFaulted (c k : Nat) (s : State) : Result := atCtx c k (fun s => .next (
  let x := getCtx s c k
  if x.frozen.isNone || x.life != .running then s
  else match taskOf s x.task with
    | some t => if t.team then (if maySaveTeam s t then saveTeam t s else s) else if maySave s c k then saveCtx c k s else s
    | none => s)) s

/-- Replace the entries of a table that a test selects. -/
def putBack {α : Type} (sel : Nat → Bool) (old new : Tab α) : Tab α := new.foldl (fun t p => tput t p.1 p.2) (old.filter fun p => !sel p.1)

/-- Registers of the save area as it stands in memory, where it is mapped and sound: number `i` of `l`, of `w` bytes each, at the offset (Table 6-9). -/
def readBack (s : State) (x : Context) (off w : Nat) (l : List Nat) : List (Nat × Nat) :=
  l.filterMap fun i => (vread s x.func.toNat (saveBase x + off + w * i) w).map fun v => (i, v)

/-- A saved context with the registers of Table 6-9 as its save area holds them; fields that the table gives no layout for come from what the save engine holds (R131, log entry 9). -/
def fromSave (s : State) (x : Context) : Context :=
  let r64 (off : Nat) (l : List Nat) : List (Nat × BitVec 64) := (readBack s x off 8 l).map fun p => (p.1, .ofNat 64 p.2)
  { x with
    g := tsetMany 0 x.g (r64 0x40 ((List.range 63).map (· + 1)))
    q := tsetMany 0 x.q ((readBack s x 0x400 16 (List.range 16)).map fun p => (p.1, .ofNat 128 p.2 &&& qMask))
    h := tsetMany 0 x.h ((r64 0x500 (List.range 16)).map fun p => (p.1, p.2 &&& hMask))
    b := tsetMany 0 x.b (r64 0x580 (List.range 8))
    xp := tsetMany 0 x.xp (r64 0x5C0 (List.range 16))
    es := tsetMany 0 x.es (r64 0x640 (List.range 16))
    v := tsetMany 0 x.v ((readBack s x 0x4800 64 (List.range 256)).map fun p => (p.1, .ofNat 512 p.2))
    m := tsetMany 0 x.m (r64 0x8800 ((List.range 56).map (· + 8)))
    w := tsetMany 0 x.w ((readBack s x 0x8A00 33 (List.range 64)).map fun p => (p.1, .ofNat 264 p.2)) }

/-- The cells of `n` bytes of a save area in memory, line by line where it is mapped and sound, keyed from `key` on. -/
def areaCells (s : State) (x : Context) (off n key : Nat) : List (Nat × Byte) := (List.range (n / 64)).flatMap fun i =>
  match vread s x.func.toNat (saveBase x + off + 64 * i) 64 with
  | some v => Memory.cellsOf (key + 64 * i) (leBytes v 64)
  | none => []

/-- The numbers of `w` bytes, `n` of them, of a save area in memory where it is mapped and sound, keyed from `key` on. -/
def areaWords (s : State) (x : Context) (off w n key : Nat) : List (Nat × Nat) :=
  (List.range n).filterMap fun i => (vread s x.func.toNat (saveBase x + off + w * i) w).map fun v => (key + i, v)

/-- A saved context's tiles, accumulators and statistics entries as its save area in memory holds them (R131, Table 6-9); peak registers, for which the table has no room, come from what the save engine holds (log entry 9). -/
def storeFrom (s : State) (v : Saved) : Saved :=
  let k : Core := { tshare := v.tshare }
  let ts := ownedTiles k v.ctxId
  let as := ownedAccs k v.ctxId
  let base := 0x10000 + 65536 * ts.length
  let st := statRange v.ctx
  { v with
    tile := tsetMany 0 v.tile (ts.zipIdx.flatMap fun p => areaCells s v.ctx (0x10000 + 65536 * p.2) 65536 (p.1 * 65536))
    acc := tsetMany 0 v.acc ((as.zipIdx.flatMap fun p => areaWords s v.ctx (base + 262144 * p.2) 4 65536 (p.1 * 65536)).map fun p => (p.1, .ofNat 32 p.2))
    stats := tsetMany 0 v.stats ((areaWords s v.ctx (base + 262144 * as.length) 16 (st.2 - st.1) st.1).map fun p => (p.1, .ofNat 128 p.2)) }

/-- Bring a saved context back to its core (R131; log entry 84). -/
def restoreCtx (w : Saved) (s : State) : State :=
  let v := storeFrom s w
  let c := v.core
  let k := v.ctxId
  let y := fromSave s v.ctx
  let s := modHub (fun h => { h with saved := h.saved.erase w }) s
  let s := loadCluster (c / 4) v.ctx.func.toNat s
  let s := modCore c (fun co =>
    let ts := ownedTiles { tshare := v.tshare } k
    let as := ownedAccs { tshare := v.tshare } k
    let st := statRange v.ctx
    { co with
      tile := putBack (fun i => ts.contains (i / 65536)) co.tile v.tile
      shapes := putBack (fun i => ts.contains i) co.shapes v.shapes
      acc := putBack (fun i => as.contains (i / 65536)) co.acc v.acc
      peaks := putBack (fun i => as.contains i) co.peaks v.peaks
      tilePoison := ts.foldl (fun m t => m &&& ~~~((1 : BitVec 16) <<< t)) co.tilePoison ||| v.tilePoison
      accPoison := as.foldl (fun m a => m &&& ~~~((1 : BitVec 12) <<< a)) co.accPoison ||| v.accPoison
      stats := putBack (fun i => decide (st.1 ≤ i) && decide (i < st.2)) co.stats v.stats }) s
  let s := renameCtx c (k + 4 * v.ctx.task) k v.ctx.task s
  let s := runOn c k s
  let s := modCtx c k (fun x => { y with frozen := none, block := if v.ctx.frozen.isSome then none else v.ctx.block, savecfg := x.savecfg }) s
  let s := match v.ctx.frozen with
    | some e => forgetFetch c v.ctx e s
    | none => s
  match taskOf s v.ctx.task with
  | some t => giveLine t (dieOf c) s
  | none => s

/-- May a saved context come back: its place is free, its cluster the function's or idle, its save area marked normal, its die has a line, and no record of higher priority waits for cores (R125, R131, R381)? -/
def mayRestore (s : State) (v : Saved) : Bool :=
  let p := prioOf s v.ctx.task
  let t := taskOf s v.ctx.task
  !v.faulted && v.ctx.life == .running && (getCtx s v.core v.ctxId).life == .idle && !teamHolds s v.core
    && clusterOk s (v.core / 4) v.ctx.func.toNat
    && (t.any fun t => (lineOf t (dieOf v.core)).isSome || (freeLine s (dieOf v.core)).isSome)
    && (!(t.any (·.team)) || [0, 1, 2, 3].all fun k => (getCtx s v.core k).life == .idle)
    && (match needy s with
      | some h => h.prio ≤ p
      | none => true)

/-- The skew of a team from cycle `r` on, its lead's next bundle standing first (R108, R385). -/
def skewFrom (t : TaskSt) (r : Nat) (s : State) : State :=
  let m0 := ((t.places.head?).map fun p => (memberCtx s t p).teamIdx).getD 0
  t.places.zipIdx.foldl (fun s p => modCore p.1.1 (fun k => { k with freeAt := r + 2 * p.2 + (memberCtx s t p.1).teamIdx - m0 }) s) s

/-- CONTEXT_RESTORE (R131, R385): a context saved from this place, or its whole team. -/
def execContextRestore (c k : Nat) (s : State) : Result := atCtx c k (fun s => .next (
  match s.hub.saved.find? fun v => v.core == c && v.ctxId == k && mayRestore s v with
  | none => s
  | some v => match taskOf s v.ctx.task with
    | none => s
    | some t =>
      if t.team then
        let l := s.hub.saved.filter fun v => v.ctx.task == t.id
        if l.all fun v => v.ctx.life != .running || mayRestore s v then
          let s := (l.filter fun v => v.ctx.life == .running).foldl (fun s v => restoreCtx v s) s
          skewFrom t (allFree s t.places) s
        else s
      else restoreCtx v s)) s

end Sys2Proof.Machine
end

