-- ==== Sys2Proof/Machine/Barriers.lean ====
section
/-! DEFINITION. Switching contexts, resuming faulted contexts and teams, and the release of barriers, steps and SYNC lines (R52, R105, R106, R108 to R115, R326, R386). -/

namespace Sys2Proof.Machine

/-! ## Switching (R105, R106) -/

/-- Bring a core into focus, act, and bring the focus back. -/
def inFocus (c : Nat) (f : State → State) (s : State) : State := focusCore s.coreId (f (focusCore c s))

/-- The contexts of the core in focus other than its running one that stand in its order: ready, and since an earlier cycle (R105). -/
def inLine (s : State) : List Nat := (switchOrder s.ctxId).filter fun k => ready s s.coreId k && (getCtx s s.coreId k).readySince != 0

/-- The context that the core in focus issues next of those in its order and of its running one, whose block has cleared: those that became ready on one cycle while the core had nothing ready go by CTXID, else the order counts from the running one, which comes last (R105). One that yields gives way to any other (R213). DESIGN CHOICE: behind an EXIT the order counts from the retired context, and what became ready on one cycle is judged against the last block or fault; R105 speaks of neither (log entry 65). -/
def firstReady (s : State) : Option Nat :=
  let own := if s.ctx.block.isSome && s.ctx.readySince != 0 && ready s s.coreId s.ctxId && (s.ctx.block != some .yield || (inLine s).isEmpty) then [s.ctxId] else []
  match inLine s ++ own with
  | [] => none
  | k :: t =>
    let since (j : Nat) : Nat := (getCtx s s.coreId j).readySince
    if since k ≠ 0 ∧ s.core.blockAt < since k ∧ t.all fun j => since j == since k then some (t.foldl min k) else some k

/-- The context that the core in focus switches to. -/
def nextReady (s : State) : Option Nat := (firstReady s).filter (· != s.ctxId)

/-- May the core in focus switch: its running context has nothing to issue, or is being saved, and the two-cycle bubble after a block or a fault has passed, which stands also where the context that met it has left the core (`keepBubble`); SYNC and a team never switch. DESIGN CHOICE: behind an EXIT, and behind a context that is taken for pre-emption while nothing blocks it, there is no bubble (log entry 65). -/
def maySwitch (s : State) : Bool :=
  s.core.freeAt ≤ s.cycle && (if s.ctx.life == .running then
    (s.ctx.frozen.isSome || s.ctx.saving || s.ctx.block.any fun b => b != .sync) && !inTeam s && s.core.blockAt + 2 ≤ s.cycle
  else true)

/-- The core in focus runs context `k`, whose block has cleared. -/
def runReady (k : Nat) (s : State) : State :=
  let s := switchTo k s
  { s with ctx := { s.ctx with block := none, readySince := 0 }, core := { s.core with agedIn := false } }

/-- CONTEXT_SWITCH (R105). -/
def execContextSwitch (c : Nat) (s : State) : Result := atCore c (fun s => .next (inFocus c (fun s => match nextReady s with
  | some k => if maySwitch s then runReady k s else s
  | none => s) s)) s

/-- The context of the core in focus that has been ready and not running longest, of those aged (R106). -/
def oldestAged (s : State) : Option Nat :=
  (switchOrder s.ctxId).foldl (fun m k =>
    let since (j : Nat) : Nat := (getCtx s s.coreId j).readySince
    if since k ≠ 0 ∧ since k - 1 + 4096 ≤ s.cycle ∧ ready s s.coreId k then
      (match m with
        | some j => if since k < since j then some k else m
        | none => some k)
    else m) none

/-- AGING_SWITCH (R106): at a bundle boundary outside delay bundles; the two-cycle bubble stands between the bundles of the two contexts, and the next aged context is taken at the boundary after that. -/
def execAgingSwitch (c : Nat) (s : State) : Result := atCore c (fun s => .next (inFocus c (fun s => match oldestAged s with
  | some k => if s.ctx.life == .running && s.ctx.block.isNone && s.ctx.frozen.isNone && s.ctx.delay == 0 && !inTeam s && !s.core.agedIn then
      let s := runReady k { s with core := { s.core with freeAt := max s.core.freeAt s.cycle + 2, blockAt := s.cycle } }
      { s with core := { s.core with agedIn := true } }
    else s
  | none => s) s)) s

/-! ## Resuming (R326, R381, R394) -/

/-- SUPERVISOR_RESUME (R326): the faulting bundle issues again from its first syllable. -/
def execSupervisorResume (c k : Nat) (s : State) : Result := atCtx c k (fun s => .next (thaw c k s)) s

/-- Is the block of a member other than the wait at a barrier or for its team? -/
def halts (s : State) (c k : Nat) : Bool := match (getCtx s c k).block with
  | some (.bar _) => false
  | some (.step _) => false
  | some .sync => false
  | some .team => false
  | some b => blockHolds s c k b
  | none => false

/-- A member that waits at a barrier. -/
def atBarrier (x : Context) : Bool := match x.block with
  | some (.bar _) => true
  | some (.step _) => true
  | some .sync => true
  | _ => false

/-- A member is stopped by the freeze of its team. -/
def frozenWithTeam (x : Context) : Bool := x.life == .running && !atBarrier x && x.block.isSome

/-- The team is whole on its cores. -/
def teamPlaced (s : State) (t : TaskSt) : Bool := t.places.all fun p => !isSaved s p.1 p.2 t.id

/-- TEAM_RESUME (R108, R386): on the second cycle after the last condition has cleared, the members go on with their skew unchanged; the first member that is not at a barrier sets the pace. -/
def resumeTeam (t : TaskSt) (s : State) : State :=
  let l := t.places.zipIdx.filter fun p => let x := memberCtx s t p.1; x.life == .running && !atBarrier x
  match l with
  | [] => s
  | j :: _ =>
    let idx (p : Nat × Nat) : Nat := (memberCtx s t p).teamIdx
    l.foldl (fun s p =>
      let s := modCore p.1.1 (fun k => { k with freeAt := s.cycle + 2 + 2 * (p.2 - j.2) + idx p.1 - idx j.1 }) s
      modMember t p.1 (fun x => { x with block := none }) s) s

/-- TEAM_RESUME. -/
def execTeamResume (t : Nat) (s : State) : Result := .next (match taskOf s t with
  | some x =>
    if x.team && teamPlaced s x && x.places.any (fun p => frozenWithTeam (memberCtx s x p))
        && x.places.all (fun p => (memberCtx s x p).frozen.isNone && !halts s p.1 p.2) then resumeTeam x s
    else s
  | none => s)

/-! ## Participants (R109, R110, R112) -/

/-- Do two members of a task stand in one domain of a level below 4? -/
def sameDomain (t : TaskSt) (l : Nat) (p q : Nat × Nat) : Bool := match l with
  | 0 => p.1 == q.1
  | 1 => p.1 / 4 == q.1 / 4
  | 2 => t.team || p.1 / 4 == q.1 / 4
  | 3 => dieOf p.1 == dieOf q.1
  | _ => true

/-- The tasks of a barrier group of a function that have started and not completed. -/
def groupTasks (s : State) (f g : Nat) : List TaskSt := s.hub.tasks.filter fun t => t.func == f && lrGroup t.lr == g && !t.finished && !t.places.isEmpty

/-- The participants of a barrier at a level that member `p` of a task issues: contexts that have not retired and whose MEMB has the level's bit. -/
def participants (s : State) (t : TaskSt) (p : Nat × Nat) (l : Nat) : List (TaskSt × (Nat × Nat)) :=
  let ts := if 4 ≤ l ∧ lrGroup t.lr ≠ 0 then groupTasks s t.func (lrGroup t.lr) else [t]
  ts.flatMap fun u => (u.places.filter fun q =>
    let x := memberCtx s u q
    (4 ≤ l || sameDomain t l p q) && x.life == .running && x.domain.getLsbD l).map fun q => (u, q)

/-- A participant has arrived: it waits at the barrier, and everything it issued before has performed (R112). -/
def arrived (s : State) (b : Block) (u : TaskSt × (Nat × Nat)) : Bool :=
  let x := memberCtx s u.1 u.2
  x.block == some b && x.frozen.isNone && x.release == .no && settledAt s u.2.1 u.2.2 u.1.id

/-- Enough tasks of a group take part (R109, R111): at level 5 those of other packages that have arrived are counted by their arrivals (R321, log entry 45). -/
def groupFull (s : State) (t : TaskSt) (l : Nat) : Bool :=
  let g := lrGroup t.lr
  l < 4 || g == 0 || (!s.hub.bgBroken.contains (t.func * 64 + g)
    && bits (groupEntry s t.func g) 19 4 ≤ (groupTasks s t.func g).length + tget 0 s.hub.bgDone (t.func * 64 + g)
        + if l = 5 then tget 0 s.hub.bgPeers (t.func * 64 + g) else 0)

/-- Every read that a participant issued before has been made: a window access waits for its cycle, a queued matrix operation that reads a scratchpad for its start (R141). -/
def readsMade (s : State) (u : TaskSt × (Nat × Nat)) : Bool :=
  let co := getCore s u.2.1
  let j := ctxKey s u.2.1 u.2.2 u.1.id
  (co.window.all fun a => a.ctx != j) && co.mqueue.all fun e => e.ctx != j || e.runsR.2.isEmpty || !e.reading

/-- All participants have arrived, and the accesses that they issued before are ordered before the release (R141). -/
def allArrived (s : State) (t : TaskSt) (p : Nat × Nat) (l : Nat) (b : Block) : Bool :=
  groupFull s t l && (participants s t p l).all fun u => arrived s b u && readsMade s u

/-! ## Steps (R110, R115, R52) -/

/-- The key of the step counter of a member's domain at a level. -/
def stepKey (t : TaskSt) (l : Nat) (p : Nat × Nat) : Nat := l * 256 + (match l with
  | 0 => p.1
  | 1 => p.1 / 4
  | 2 => if t.team then 0 else p.1 / 4
  | 3 => dieOf p.1
  | _ => 0)

/-- The step counter of a member's domain at a level. -/
def stepCount (s : State) (t : TaskSt) (p : Nat × Nat) (l : Nat) : BitVec 64 :=
  if 4 ≤ l ∧ lrGroup t.lr ≠ 0 then tget 0 s.hub.bgSteps ((t.func * 64 + lrGroup t.lr) * 8 + l)
  else ((taskOf s t.id).map fun t => tget 0 t.steps (stepKey t l p)).getD 0

/-- Advance the step counter of a member's domain at a level. -/
def advanceStep (t : TaskSt) (p : Nat × Nat) (l : Nat) (s : State) : State :=
  let n := stepCount s t p l + 1
  if 4 ≤ l ∧ lrGroup t.lr ≠ 0 then modHub (fun h => { h with bgSteps := tset 0 h.bgSteps ((t.func * 64 + lrGroup t.lr) * 8 + l) n }) s
  else modTask t.id (fun x => { x with steps := tset 0 x.steps (stepKey t l p) n }) s

/-- A context of a core with its function and task, running or saved: whose bindings re-resolve. -/
structure Seat where
  f : Nat
  c : Nat
  k : Nat
  task : Nat
deriving DecidableEq, Repr

/-- The context at a seat. -/
def Seat.ctx (p : Seat) (s : State) : Context := taskCtx s p.c p.k p.task

/-- Change the context at a seat. -/
def Seat.mod (p : Seat) (g : Context → Context) (s : State) : State := modTaskCtx p.c p.k p.task g s

/-- The seat of a member of a task. -/
def seatOf (t : TaskSt) (p : Nat × Nat) : Seat := ⟨t.func, p.1, p.2, t.id⟩

/-- The cause of slot E (R328). -/
def Cause.ofE (e : Cause) : Cause := { e with slots := 0x80 }

/-- Why the floating bindings of a context cannot re-resolve: a directory entry, or the header of a later version, cannot be read (R88, R332; log entry 57). -/
def resolveCause (p : Seat) (s : State) : Option Cause := ([0, 1, 2, 3, 4, 5, 6, 7].findSome? fun i =>
  let b := (p.ctx s).B i
  if bValid b && bFloat b then (entryCause s p.f (bId b)).orElse fun _ => match latestSlot s p.f (bId b) with
    | some j => let x := slotWord s p.f (bId b) j; if svVer x = bVer b then none else readCause s p.f (svHdr x) 64
    | none => none
  else none).map Cause.ofE

/-- Re-resolve binding `i` of a context at a STEP (R52): the state, and whether its array reloads. -/
def resolveOne (p : Seat) (i : Nat) (s : State) : State × Bool :=
  let b := (p.ctx s).B i
  if bValid b && bFloat b then match latestSlot s p.f (bId b) with
    | none => (s, false)
    | some j =>
      let x := slotWord s p.f (bId b) j
      if svVer x = bVer b then (s, false)
      else
        let new := mkBinding (bId b) (svVer x) (header s p.f (svHdr x)) true (bits b.toNat 63 50)
        (dropRef p.f (bId b) (bVer b) (addRef p.f (bId b) (svVer x) (p.mod (fun y => y.setB i new) s)), true)
  else (s, false)

/-- Re-resolve every floating binding of a context: those whose arrays reload. -/
def resolveAll (p : Seat) (s : State) : State × List Nat :=
  [0, 1, 2, 3, 4, 5, 6, 7].foldl (fun r i => match resolveOne p i r.1 with
    | (s, true) => (s, r.2 ++ [i])
    | (s, false) => (s, r.2)) (s, [])

/-- The virtual address of the array of the version that binding `i` names. -/
def arrayVa (p : Seat) (i : Nat) (s : State) : Option Nat :=
  let b := (p.ctx s).B i
  (liveSlot s p.f (bId b) (bVer b)).map fun j => svHdr (slotWord s p.f (bId b) j) + 64

/-- Why the array of one of these bindings cannot be reloaded: its page is not mapped, or is in the reserve zone. -/
def reloadCause (p : Seat) (l : List Nat) (s : State) : Option Cause := (l.findSome? fun i => match arrayVa p i s with
  | none => none
  | some a => (walk s p.f a).cause false a).map Cause.ofE

/-- What the reload of these bindings' arrays reads, by physical address, in order: for each the entries of the walk, then its lines. -/
def reloadReads (p : Seat) (l : List Nat) (s : State) : List Nat := l.flatMap fun i => match arrayVa p i s with
  | none => []
  | some a => walkReads s p.f a ++ (match vphys s p.f a with
    | some (x, _) => (lineChunks 64 x (bBytes ((p.ctx s).B i))).map (·.1)
    | none => [])

/-- Reload the codeword array of a binding at its BASE; an error in the stored array stays with the copy (R332). -/
def reloadOne (p : Seat) (i : Nat) (s : State) : State :=
  let b := (p.ctx s).B i
  match liveSlot s p.f (bId b) (bVer b) with
  | none => s
  | some j => match vphys s p.f (svHdr (slotWord s p.f (bId b) j) + 64) with
    | none => s
    | some (a, _) =>
      let bad := (List.range ((bBytes b + 15) / 16)).filter fun w => (lineError s 0 (a + 16 * w)).isSome
      onStore p.c p.f (fun s => modCore p.c (fun k => { k with scratchPoison := bad.map (fun w => bBase b / 16 + w) ++ k.scratchPoison })
        (localOut p.c false (bBase b) (devRead s a (bBytes b)) s)) s

/-! ## The release reaches a core (R108, R114, R115) -/

/-- A context takes part in barriers of a level (Table 6-3, R10). -/
def takesPartAt (x : Context) (c l : Nat) : Bool := x.domain.getLsbD l && !isSupCore c

/-- The release of a member that nothing more holds: its own, or for a team the step towards that of all (R108). -/
def released (t : TaskSt) : Release := if t.team then .reached else .here

/-- The release of a barrier reaches a member, whose floating bindings of `rs` then reload. At a STEP it reads the counter of its TOP domain anew. -/
def reach (t : TaskSt) (step : Option Nat) (rs : List Nat) (p : Nat × Nat) (s : State) : State :=
  let n := (step.map (stepCount s t p)).getD 0
  modMember t p (fun x => { x with
    stepno := if step = some (bits x.domain.toNat 8 6) then n else x.stepno
    release := if rs.isEmpty then released t else .reloading rs }) s

/-- A queued operation of a context still has to read a codeword array at a BASE (R59, R61): a reload waits for its start. -/
def arrayRead (s : State) (c k : Nat) : Bool := (getCore s c).mqueue.any fun e => e.ctx == k && (e.op == .mpart || e.op == .mlut2) && e.res.isNone

/-- The reload of a context has landed; its release is then `next`. -/
def landReload (p : Seat) (next : Release) (s : State) : State := match (p.ctx s).release with
  | .reloading l => p.mod (fun x => { x with release := next }) (l.foldl (fun s i => reloadOne p i s) s)
  | _ => s

/-- The release is decided for one participant: at a STEP its floating bindings re-resolve against what was published before the barrier (R52). -/
def decideOne (step : Bool) (u : TaskSt × (Nat × Nat)) (s : State) : State :=
  let r := if step then resolveAll (seatOf u.1 u.2) s else (s, [])
  modMember u.1 u.2 (fun x => { x with release := .decided r.2 }) r.1

/-- A saved participant takes a decided release at once, or when it is back where an array cannot be reloaded. -/
def reachSaved (step : Option Nat) (u : TaskSt × (Nat × Nat)) (s : State) : State := match (memberCtx s u.1 u.2).release with
  | .decided rs => if (reloadCause (seatOf u.1 u.2) rs s).isSome then s else modMember u.1 u.2 (fun x => { x with release := .here }) (landReload (seatOf u.1 u.2) .here (reach u.1 step rs u.2 s))
  | _ => s

/-- All participants have arrived: the release is decided, the counter of a STEP advances, and the arrivals of other packages are used up. -/
def decideRelease (t : TaskSt) (p : Nat × Nat) (l : Nat) (step : Bool) (s : State) : State :=
  let ps := participants s t p l
  let s := if step then advanceStep t p l s else s
  let s := if l = 5 ∧ lrGroup t.lr ≠ 0 then modHub (fun h => { h with bgPeers := tset 0 h.bgPeers (t.func * 64 + lrGroup t.lr) 0 }) s else s
  let s := ps.foldl (fun s u => decideOne step u s) s
  ps.foldl (fun s u => if isSaved s u.2.1 u.2.2 u.1.id then reachSaved (if step then some l else none) u s else s) s

/-- A member of a team is ready for the release of all: it has retired, takes no part, or the release has reached it. -/
def memberReached (s : State) (t : TaskSt) (l : Nat) (p : Nat × Nat) : Bool :=
  let x := memberCtx s t p
  x.life != .running || !takesPartAt x p.1 l || x.release == .reached

/-- The release becomes that of every member that it has reached. -/
def releaseAll (t : TaskSt) (s : State) : State := t.places.foldl (fun s p =>
  modMember t p (fun x => if x.release = .reached then { x with release := .here } else x) s) s

/-- The bundle that the members of a team hold retires them: an EXIT whose guard reads true in its first running member (R183, R212). -/
def exitsNext (t : TaskSt) (s : State) : Bool := match t.places.find? fun p => (memberCtx s t p).life == .running with
  | none => false
  | some p =>
    let x := (memberCtx s t p).landDue
    match bundleAt (getCore s p.1) x.func.toNat x.pc with
    | .whole ws => ws.any fun w => match decodeSyll w with
      | .ok (.exit o) => sguard o.guard x
      | _ => false
    | _ => false

/-- The release has reached every running member of a team: the lead issues, and member `k` two cycles later each (R108); a pending pre-emption is taken at a STEP, where its bundle is no EXIT (R115, R130). -/
def releaseTeam (t : TaskSt) (step : Bool) (l : Nat) (s : State) : State :=
  if t.places.all (memberReached s t l) && t.places.any fun p => (memberCtx s t p).release == .reached then
    if step && t.preempt && !exitsNext t s then
      if maySaveTeam s t then modTask t.id (fun x => { x with preempt := false }) (saveTeam t (countPreempt t.id (releaseAll t s))) else s
    else t.places.zipIdx.foldl (fun s p => modCore p.1.1 (fun k => { k with freeAt := s.cycle + 2 * p.2 }) s) (releaseAll t s)
  else s

/-- A release on its way reaches the core of member `p`, or those of its whole team. -/
def arriveRelease (t : TaskSt) (p : Nat × Nat) (step : Option Nat) (l : Nat) (s : State) : State :=
  let one (q : Nat × Nat) (s : State) : State := match (memberCtx s t q).release with
    | .decided rs => reach t step rs q s
    | _ => s
  if t.team then releaseTeam t step.isSome l (t.places.foldl (fun s q => one q s) s) else one p s

/-- A participant whose bindings cannot re-resolve faults before the release (R332, R362); a saved one holds the release back until they can (log entry 57). -/
def unresolved (u : TaskSt × (Nat × Nat)) (s : State) : State := match resolveCause (seatOf u.1 u.2) s with
  | some e => if isSaved s u.2.1 u.2.2 u.1.id then s else faultAt u.2.1 u.2.2 e (e.met s)
  | none => s

/-- The release of the barrier at which context (c, k) waits. -/
def releaseAt (c k l : Nat) (step : Bool) (b : Block) (s : State) : State := match taskOf s (getCtx s c k).task with
  | none => s
  | some t =>
    if (getCtx s c k).release = .no ∧ allArrived s t (c, k) l b then
      match (if step then (participants s t (c, k) l).find? fun u => (resolveCause (seatOf u.1 u.2) s).isSome else none) with
      | some u => unresolved u s
      | none => arriveRelease t (c, k) (if step then some l else none) l (decideRelease t (c, k) l step s)
    else arriveRelease t (c, k) (if step then some l else none) l s

/-- A STEP at which the context takes no part completes on it alone, once its floating bindings have moved and reloaded (R52, log entry 36). -/
def stepAlone (p : Seat) (s : State) : State :=
  if (p.ctx s).release = .no then match resolveCause p s with
    | some e => faultAt p.c p.k e (e.met s)
    | none =>
      let r := resolveAll p s
      p.mod (fun x => { x with release := if r.2.isEmpty then .here else .reloading r.2 }) r.1
  else s

/-- BAR_RELEASE (R114, R321). -/
def execBarRelease (c k : Nat) (s : State) : Result := atCtx c k (fun s => .next (match (getCtx s c k).block with
  | some (.bar l) => releaseAt c k l false (.bar l) s
  | _ => s)) s

/-- The seat of a context that is not saved. -/
def seatAt (s : State) (c k : Nat) : Seat := ⟨(getCtx s c k).func.toNat, c, k, (getCtx s c k).task⟩

/-- STEP_RELEASE (R115, R321). -/
def execStepRelease (c k : Nat) (s : State) : Result := atCtx c k (fun s => .next (match (getCtx s c k).block with
  | some (.step l) => if takesPartAt (getCtx s c k) c l then releaseAt c k l true (.step l) s else stepAlone (seatAt s c k) s
  | _ => s)) s

/-- The reload of the context at a seat lands, once no queued operation still reads the arrays; one that cannot be read faults the context (R52, R88). -/
def reloads (p : Seat) (next : Release) (s : State) : State := match (p.ctx s).release with
  | .reloading l =>
    if arrayRead s p.c p.k then s
    else match reloadCause p l s with
      | some e => faultAt p.c p.k e (e.met s)
      | none => landReload p next s
  | _ => s

/-- Request `n` of the reload at a STEP fails (R331, R375): by its flits, or by a CXL device that does not answer. -/
def reloadFails (p : Seat) (n : Nat) (cxl : Bool) (s : State) : State := match (p.ctx s).release with
  | .reloading l => requestFails p.c p.k 0x80 (reloadReads p l s) n cxl s
  | _ => s

/-- A request that a waiting context makes by a walk, a fetch or a reload fails. -/
def fetchFails (c k n : Nat) (cxl : Bool) (s : State) : Result := atCtx c k (fun s => .next (match (getCtx s c k).block with
  | some (.xlat va) => failFetch c k va n false cxl s
  | some (.icache va) => failFetch c k va n true cxl s
  | some (.step _) => reloadFails (seatAt s c k) n cxl s
  | _ => s)) s

/-- BINDING_RELOAD_LANDS (R52). -/
def execBindingReloadLands (c k : Nat) (s : State) : Result := atCtx c k (fun s => .next (match (getCtx s c k).block with
  | some (.step l) =>
    if takesPartAt (getCtx s c k) c l then match taskOf s (getCtx s c k).task with
      | none => s
      | some t =>
        let s := reloads (seatAt s c k) (released t) s
        if t.team then releaseTeam t true l s else s
    else reloads (seatAt s c k) .here s
  | _ => s)) s

/-! ## SYNC (R113) -/

/-- The participants of a SYNC: the task's contexts on the die of the issuer. -/
def syncGroup (s : State) (t : TaskSt) (die : Nat) : List (TaskSt × (Nat × Nat)) :=
  ((onDie t die).filter fun q => (memberCtx s t q).life == .running).map fun q => (t, q)

/-- The cycle on which the last participant arrived, once all have. -/
def syncTime (s : State) (t : TaskSt) (die : Nat) : Option Nat :=
  let l := syncGroup s t die
  if !l.isEmpty && l.all (arrived s .sync) then some (l.foldl (fun m u => max m (memberCtx s t u.2).arrivedAt) 0) else none

/-- Every participant issues its next bundle on cycle a + 6, a team's member `k` on a + 6 + 2k. -/
def releaseSync (t : TaskSt) (die a : Nat) (s : State) : State :=
  (syncGroup s t die).foldl (fun s u =>
    let x := memberCtx s t u.2
    let s := modMember t u.2 (fun x => { x with release := .here }) s
    if isSaved s u.2.1 u.2.2 t.id then s
    else modCore u.2.1 (fun k => { k with freeAt := a + 6 + if t.team then 2 * x.teampos.toNat else 0 }) s) s

/-- SYNC_RELEASE (R113). -/
def execSyncRelease (c k : Nat) (s : State) : Result := atCtx c k (fun s => .next (match (getCtx s c k).block, taskOf s (getCtx s c k).task with
  | some .sync, some t => (match syncTime s t (dieOf c) with
    | some a => releaseSync t (dieOf c) a s
    | none => s)
  | _, _ => s)) s

end Sys2Proof.Machine
end

