-- ==== Sys2Proof/Machine/Remote.lean ====
section
/-! DEFINITION. Remote rings in motion (R77, R261, R308, R309, R392) and the supervisor's reply to a call (R216). -/

namespace Sys2Proof.Machine

/-! ## Calls to the supervisor (R216) -/

/-- The ring that a call named, as its context holds it now. -/
def callRing (s : State) (x : Call) : BitVec 128 := (taskCtx s x.core x.ctxId x.task).Q x.ring

/-- May a call be answered? It is posted, no earlier call of the context on the ring stands, and the ring has room beside what has started on it. -/
def answerable (s : State) (before : List Call) (x : Call) : Bool :=
  x.posted && before.all (fun y => !(y.core == x.core && y.ctxId == x.ctxId && y.task == x.task && y.ring == x.ring))
    && qLocal (callRing s x)
    && startedOn (getCore s x.core) (ctxKey s x.core x.ctxId x.task) x.ring + 1
        ≤ producerFree (getCore s x.core) (taskCtx s x.core x.ctxId x.task) x.ring

/-- The first call of a die that may be answered. DESIGN CHOICE: of several, the one posted first (log entry 63). -/
def nextCall (s : State) (die : Nat) : List Call → List Call → Option Call
  | _, [] => none
  | seen, x :: t => if dieOf x.core == die && answerable s seen x then some x else nextCall s die (x :: seen) t

/-- SVC_REPLY (R216): the reply goes into the ring's next slot, and then PROD advances. -/
def execSvcReply (die : Nat) (reply : BitVec 512) (s : State) : Result :=
  .next (match nextCall s die [] s.hub.calls with
  | none => s
  | some x =>
    let q := callRing s x
    let f := (taskCtx s x.core x.ctxId x.task).func.toNat
    let s := onStore x.core f (localOut x.core (qWin q) (qSlot q (qProd q)) (leBytes reply.toNat 64)) s
    modTaskCtx x.core x.ctxId x.task (fun y => y.setQ x.ring (qAdvProd (y.Q x.ring) 1)) (modHub (fun h => { h with calls := h.calls.erase x }) s))

/-! ## Data (R309) -/

/-- The data message of the consumer end (f, link) that was sent first: sender's core and command, and its bytes. -/
def firstData (s : State) (f link : Nat) : Option (Nat × Nat × List Byte) :=
  s.hub.ringMsgs.foldl (fun r m => match m with
    | .data f' l' bs c _ id => if f' = f ∧ l' = link then (match r with
        | some (c', id', bs') => if id < id' then some (c, id, bs) else some (c', id', bs')
        | none => some (c, id, bs)) else r
    | _ => r) none

/-- A send before this one on its ring has not sent its data (R309). -/
def sendBehind (s : State) (c : Nat) (m : Cmd) : Bool := (getCore s c).cmds.any fun x =>
  x.op == .cpyw && x.ctx == m.ctx && x.ring == m.ring && decide (x.id < m.id) && (x.phase == .started || x.cause.isSome)

/-- Remove the data message of a command. -/
def dropData (id : Nat) (s : State) : State := modHub (fun h => { h with ringMsgs := h.ringMsgs.filter fun m => match m with
  | .data _ _ _ _ _ id' => id' != id
  | _ => true }) s

/-- Bytes go into the slot of count `n` of a consumer end (R77, R309). DESIGN CHOICE: where the two ends differ in SZ, no byte goes past the consumer's slot, and where they differ in NM1, the counts of the consumer's own slots are taken (R308 only forbids both; log entry 78). -/
def putSlot (b : Bound) (n : Nat) (bs : List Byte) (s : State) : State :=
  let x := taskCtx s b.core b.ctxId b.task
  let q := x.Q b.ring
  onStore b.core x.func.toNat (localOut b.core (qWin q) (qSlot q n) (bs.take (qSize q))) s

/-- A consumer end's PROD advances by one (R77, R309). -/
def passSlot (b : Bound) (s : State) : State := modTaskCtx b.core b.ctxId b.task (fun y => y.setQ b.ring (qAdvProd (y.Q b.ring) 1)) s

/-- Data arrives whole in the next slot of a consumer end, and its PROD advances (R77, R140). -/
def fillSlot (b : Bound) (bs : List Byte) (s : State) : State :=
  passSlot b (putSlot b (qProd ((taskCtx s b.core b.ctxId b.task).Q b.ring)) bs s)

/-- A send before this one on its ring has been discarded: the counts of the pair stand still (R309, R380). -/
def behindLost (s : State) (c : Nat) (m : Cmd) : Bool := (ownerCtx s c m).dropped.any fun d => m.ring == some d.ring && decide (d.id < m.id)

/-- The data of a send arrives in its own slot. PROD follows it and the sender hears of it, unless a send before it never came: then the send has performed and counts for nothing. -/
def landData (f link : Nat) (b : Bound) (c : Nat) (m : Cmd) (bs : List Byte) (s : State) : State :=
  let e := rrEntry s f link
  let t := putSlot b m.aux bs s
  if behindLost s c m then finishCmd c m t
  else modHub (fun h => { h with ringMsgs := h.ringMsgs ++ [.accept (rrFn e) (rrLink e)] }) (passSlot b t)

/-- The data message of a command: its consumer end and its bytes. -/
def dataOf (s : State) (id : Nat) : Option (Nat × Nat × List Byte) := s.hub.ringMsgs.findSome? fun m => match m with
  | .data f l bs _ _ id' => if id' = id then some (f, l, bs) else none
  | _ => none

/-- The write of a send is lost on its way: the bytes of its slot are undefined (R391). -/
def loseData (m : Cmd) (s : State) : State := match dataOf s m.id with
  | none => s
  | some (f, link, bs) => match boundEnd s f link false with
    | some b => State.bump (putSlot b m.aux ((List.range bs.length).map (lostByte s)) (dropData m.id s))
    | none => dropData m.id s

/-- REMOTE_DATA_ARRIVE (R309, R392): data of this package's sends in send order; or, where the entry names another package, the bytes that its fabric brings, once the slot is free and what was issued before its release has read it (R140). -/
def execRemoteDataArrive (f link : Nat) (data : List Byte) (s : State) : Result :=
  .next (match firstData s f link with
  | some (c, id, bs) => match findCmd s c id with
    | none => dropData id s
    | some m =>
      if sendBehind s c m then s
      else match boundEnd s f link false with
        | some b => landData f link b c m bs (dropData id s)
        | none => suspendCmd c m { cls := 7, code := 1, addr := .ofNat 64 link } (dropData id s)
  | none => match boundEnd s f link false with
    | some b => if !rrHere s (rrEntry s f link) && decide (1 ≤ producerFree (getCore s b.core) (taskCtx s b.core b.ctxId b.task) b.ring) then fillSlot b data s else s
    | none => s)

/-- The first send of a producer end whose data has gone. -/
def firstSent (s : State) (b : Bound) : Option Cmd := (getCore s b.core).cmds.find? fun m =>
  m.op == .cpyw && m.phase == .sent && m.ring == some b.ring && m.ctx == ctxKey s b.core b.ctxId b.task

/-- The first accept of a producer end is on its way; it is taken off the way. -/
def takeAccept (f link : Nat) : List RingMsg → Option (List RingMsg)
  | [] => none
  | m :: t => if m = .accept f link then some t else (takeAccept f link t).map (m :: ·)

/-- The producer end learns that the consumer accepted its oldest send, which completes (R309). -/
def completeSend (f link : Nat) (s : State) : State := match boundEnd s f link true with
  | some b => match firstSent s b with
    | some m => finishCmd b.core m s
    | none => s
  | none => s

/-- REMOTE_SEND_ACCEPT (R309, R261). -/
def execRemoteSendAccept (f link : Nat) (s : State) : Result :=
  .next (match takeAccept f link s.hub.ringMsgs with
  | some l => completeSend f link (modHub (fun h => { h with ringMsgs := l }) s)
  | none => if !rrHere s (rrEntry s f link) then completeSend f link s else s)

/-- The consumer end of a send lies on another package, which finds it not valid, not bound or not paired: the CPYW is suspended, and writes no byte (R392). -/
def farRefuses (c id : Nat) (s : State) : Result := atCore c (fun s => .next (match findCmd s c id with
  | some m =>
    let e := rrEntry s m.func (qLink ((ownerCtx s c m).Q (m.ring.getD 0)))
    if m.op = .cpyw ∧ m.phase = .sent ∧ !rrHere s e then suspendCmd c m { cls := 7, code := 1, addr := .ofNat 64 (rrLink e) } s else s
  | none => s)) s

/-! ## Slot returns (R77, R140, R392) -/

/-- The first slot return of a producer end: the core and command that send it, and the messages without it. -/
def takeReturn (f link : Nat) : List RingMsg → Option ((Nat × Nat) × List RingMsg)
  | [] => none
  | m :: t => match m with
    | .ret f' l' c _ _ _ id => if f' = f ∧ l' = link then some ((c, id), t) else (takeReturn f link t).map fun p => (p.1, m :: p.2)
    | _ => (takeReturn f link t).map fun p => (p.1, m :: p.2)

/-- May the slot return of command `id` of core `c` leave (R139, R140)? -/
def mayLeave (s : State) (c id : Nat) : Bool := (findCmd s c id).all (mayReturn s c)

/-- A slot return reaches the producer end, or is dropped with a unit record of source `src` (R392). -/
def returnSlot (f link src die : Nat) (s : State) : State := match boundEnd s f link true with
  | some b => modTaskCtx b.core b.ctxId b.task (fun y => y.setQ b.ring (qAdvCons (y.Q b.ring) 1)) s
  | none => toSupervisor die (faultRecord s src f 0 { cls := 7, code := 1, addr := .ofNat 64 link }) s

/-- The fabric ports whose links are up. -/
def portsUp (s : State) : List Nat := (List.range 16).filter fun p => !s.hub.portsDown.contains p

/-- Sends of a producer end that are on their way, or whose accept is. -/
def sentOn (s : State) (b : Bound) : Nat := (getCore s b.core).cmds.countP fun m =>
  m.op == .cpyw && m.phase == .sent && m.ring == some b.ring && m.ctx == ctxKey s b.core b.ctxId b.task

/-- A slot return from another package names a slot that it holds: fewer have come back than were sent (R309). -/
def returnable (s : State) (b : Bound) : Bool :=
  let q := (taskCtx s b.core b.ctxId b.task).Q b.ring
  (qAvail q + sentOn s b) % 2 ^ 32 != 0

/-- A slot return from another package arrives by a fabric port that is up: at its producer end, or as the record of that port, which is a free value (R392, Table 1-4; log entry 35). -/
def farReturn (f link : Nat) (s : State) : State :=
  let ports := portsUp s
  match ports[Config.returnPort s.fresh % ports.length]?, boundEnd s f link true with
  | none, _ => s
  | some _, some b => if returnable s b then returnSlot f link 0 0 s else s
  | some p, none => State.bump (returnSlot f link (0x4000 + p) 0 s)

/-- A slot return that has arrived leaves its engine. -/
def leaveId (c id : Nat) (s : State) : State := match findCmd s c id with
  | some m => leave c m s
  | none => s

/-- SLOT_RETURN_ARRIVE (R77, R392). A return comes from another package unless the entry is valid and names this one. -/
def execSlotReturnArrive (f link : Nat) (s : State) : Result :=
  .next (match takeReturn f link s.hub.ringMsgs with
  | some ((c, id), l) =>
    if mayLeave s c id then returnSlot f link (srcEngine c 0) (dieOf c) (leaveId c id (modHub (fun h => { h with ringMsgs := l }) s)) else s
  | none =>
    let e := rrEntry s f link
    if bits e 0 0 == 1 && rrHere s e then s else farReturn f link s)

end Sys2Proof.Machine
end

