-- ==== Sys2Proof/Machine/Scalar.lean ====
section
/-! DEFINITION. The meanings of the S-slot instructions (10_scalar): arithmetic, predicates, control flow, special and staging registers, and the hint. -/

namespace Sys2Proof.Machine

/-- A scalar register operand. -/
def gpr (s : State) (r : BitVec 6) : BitVec 64 := s.ctx.G r.toNat

/-- Write the result of an S-R instruction to its destination after `l` bundles. -/
def aluR (o : SR) (l : Nat) (r : BitVec 64) (s : State) : Result :=
  issueFlights 0 (sguard o.guard s.ctx) [] (putG o.gd.toNat r l) s

/-- Write the result of an S-I instruction to its destination in the next bundle. -/
def aluI (o : SI) (r : BitVec 64) (s : State) : Result :=
  issueFlights 0 (sguard o.guard s.ctx) [] (putG o.gd.toNat r 1) s

/-! ## Integer results (R201, R202) -/

/-- Low 64 bits of an integer (WRAP_64, R25). -/
def wrap64 (x : Int) : BitVec 64 := .ofInt 64 x

/-- Count of leading zero bits, 64 for 0. -/
def clz64 (a : BitVec 64) : Nat := if a = 0 then 64 else 63 - Nat.log2 a.toNat

/-- Count of one bits of the low `n` bits. -/
def popc (a : Nat) : Nat → Nat
  | 0 => 0
  | n + 1 => (if a.testBit n then 1 else 0) + popc a n

/-- DIV and DIVX (R202). -/
def divide (signed : Bool) (a b : BitVec 64) : BitVec 64 :=
  if b = 0 then BitVec.allOnes 64
  else if signed then wrap64 ((sx a).tdiv (sx b)) else .ofNat 64 (nx a / nx b)

/-- REM and REMX (R202). -/
def remainder (signed : Bool) (a b : BitVec 64) : BitVec 64 :=
  if b = 0 then a
  else if signed then wrap64 (sx a - sx b * (sx a).tdiv (sx b)) else .ofNat 64 (nx a % nx b)

/-- Write a quotient or remainder after 20 bundles, and set DIVZ for a zero divisor (R202). -/
def divOp (o : SR) (r : BitVec 64) (s : State) : Result :=
  let fs := putG o.gd.toNat r 20
  issueCtx 0 (sguard o.guard s.ctx) [] (clashes s.ctx fs) (fun c => (c.fly fs).flag fDIVZ (gpr s o.gb == 0)) s

/-- The conditions of Table 10-3. -/
def intCond (sub : Nat) (a b : BitVec 64) : Bool :=
  match sub with
  | 0 => a == b
  | 1 => a != b
  | 2 => sx a < sx b
  | 3 => sx b ≤ sx a
  | 4 => nx a < nx b
  | _ => nx b ≤ nx a

/-- The two-input logic functions of R206. -/
def logicFn (sub : Nat) (a b : Bool) : Bool :=
  match sub with
  | 0 => a && b
  | 1 => a || b
  | 2 => xor a b
  | 3 => a && !b
  | 4 => a || !b
  | 5 => !(a && b)
  | 6 => !(a || b)
  | _ => !(xor a b)

/-- Write a condition and its complement, each ANDed with P[pa] (R205). -/
def compareR (o : SR) (l : Nat) (cond : Bool) (s : State) : Result :=
  let pa := s.ctx.P o.pa.toNat
  issueFlights 0 (sguard o.guard s.ctx) [] (putP o.pd.toNat (cond && pa) l ++ putP o.pb.toNat (!cond && pa) l) s

/-! ## Scalar FP32 (R207 to R209) -/

/-- F32 of R199. -/
def f32 (x : BitVec 64) : Val := val32 (x.toNat % 2 ^ 32)

/-- Write an FP32 code to gd[31:0] after four bundles, clearing gd[63:32]. -/
def fpR (o : SR) (code : Nat) (s : State) : Result := aluR o 4 (.ofNat 64 (code % 2 ^ 32)) s

/-- The conditions of FCMP and VFCMP (R208). -/
def fpCond (sub : Nat) (a b : Val) : Bool :=
  match sub with
  | 0 => a.eqv b
  | 1 => a.lt b
  | 2 => a.lt b || a.eqv b
  | _ => a.isNaN || b.isNaN

/-- The result of an FCVT and whether it saturated (Table 10-4). -/
def fcvtResult (sub : Nat) (a : BitVec 64) : BitVec 64 × Bool :=
  let lo := a.toNat % 2 ^ 32
  let code (r : Rounded) : BitVec 64 × Bool := (.ofNat 64 r.code, r.satur)
  match sub with
  | 0 => (.ofNat 64 (rne32 (.ofInt (intOf 32 true lo))), false)
  | 1 => (.ofNat 64 (rne32 (.ofInt lo)), false)
  | 2 => (.ofNat 64 (rne32 (FFmt.f16.value (a.toNat % 2 ^ 16))), false)
  | 3 => (.ofNat 64 (rne32 (FFmt.bf16.value (a.toNat % 2 ^ 16))), false)
  | 4 => let r := toInt 32 true false (f32 a); ((BitVec.ofNat 32 r.code).signExtend 64, r.satur)
  | 5 => code (toInt 32 false false (f32 a))
  | 6 => let r := toInt 32 true true (f32 a); ((BitVec.ofNat 32 r.code).signExtend 64, r.satur)
  | 7 => code (toInt 32 false true (f32 a))
  | 8 => (.ofNat 64 (round .f16 .rne (f32 a)).code, false)
  | _ => (.ofNat 64 (round .bf16 .rne (f32 a)).code, false)

/-! ## Branches (R181, R210) and loops (R182, R211) -/

/-- The guard of a branch, LOOP or EXIT: in a team member behind the lead, the lead's decides (R107, R210, R212). -/
def leadGuard (g : Guard) (s : State) : Bool := s.ctx.leadGuard.getD (sguard g s.ctx)

/-- A branch or LOOP in a delay bundle is a cause whatever its guard holds (R348). -/
def notInDelay (i : Instr) (s : State) : List Cause := chk (s.ctx.delay == 0) 1 8 (encode i) s.ctx.delay

/-- The address of the bundle after the second delay bundle (R181). -/
def linkAddr (c : Context) : BitVec 64 := c.pc + .ofNat 64 (c.len + c.delayLen)

/-- Branch to `target`, writing the link into G[link]; a link of G0 is discarded (R181, R210). -/
def branchTo (i : Instr) (g : Guard) (link : Nat) (target : BitVec 64) (s : State) : Result :=
  let fs := putG link (linkAddr s.ctx) 1
  issueCtx 0 (leadGuard g s || s.ctx.delay != 0) [] (notInDelay i s ++ clashes s.ctx fs)
    (fun c => ({ c with target := some target } : Context).fly fs) s

/-- The target of a relative branch (R181). -/
def relTarget (o : SB) (s : State) : BitVec 64 := s.ctx.pc + 8 * o.off.signExtend 64

/-- Set up loop level `n` (R182). -/
def Context.setLoop (c : Context) (n : Nat) (cnt : BitVec 32) (le : BitVec 64) (after : BitVec 64) : Context :=
  let on := cnt != 0
  let c := { c with jump := if on then c.jump else some after }
  let ls := c.pc + .ofNat 64 c.len
  if n = 0 then { c with ls0 := ls, le0 := le, lc0 := if on then cnt else c.lc0, act0 := on }
  else { c with ls1 := ls, le1 := le, lc1 := if on then cnt else c.lc1, act1 := on }

/-! ## Special registers (R174 to R176, R214) -/

/-- The value that SRD reads (Table 8-5). -/
def specialRead (s : State) (n : Nat) : BitVec 64 :=
  let c := s.ctx
  match n with
  | 0x00 => c.status.setWidth 64
  | 0x01 => c.tmpr.setWidth 64
  | 0x02 => c.rseed
  | 0x03 => c.rcnt.setWidth 64
  | 0x04 => .ofNat 64 s.ctxId
  | 0x05 => .ofNat 64 s.coreId
  | 0x06 => .ofNat 64 (clusterOf s.coreId)
  | 0x07 => .ofNat 64 (dieOf s.coreId)
  | 0x08 => c.teampos.setWidth 64
  | 0x09 => c.domain
  | 0x0A => c.stepno
  | 0x0B => 1
  | 0x0C => c.backoff.setWidth 64
  | 0x0D => s.core.tshare
  | 0x0E => s.core.cachecfg
  | 0x0F => c.savecfg
  | 0x10 => c.lc0.setWidth 64
  | _ => c.lc1.setWidth 64

/-- Is the access of the special register RWS (Tables 6-1, 6-3, 6-8, 4-1)? -/
def isRws (n : Nat) : Bool := n == 0x09 || n == 0x0D || n == 0x0E || n == 0x0F

/-- The bits of a special register that a write sets; reserved and RO bits ignore writes (R5). DESIGN CHOICE: NSLOT and SUPSLOT of CACHECFG are taken as written outside the ranges of Table 4-1 too, for which R71 gives no outcome (log entry 83). -/
def specialMask (n : Nat) : BitVec 64 :=
  match n with
  | 0x01 | 0x03 | 0x0C => 0xFFFFFFFF
  | 0x02 => BitVec.allOnes 64
  | 0x09 => 0x7FFFF
  | 0x0D => 0x00FFFFFFFFFFFFFF
  | 0x0E => 0x000007FF07FF0003
  | 0x0F => 0x01FFFFFFFFFFFFFF
  | _ => 0

/-- The effect of an SWR on the issuing context: STATUS clears its flags and a loop counter takes its value in the bundle, the other registers from the next bundle on (R174, R211, R214). -/
def Context.swr (c : Context) (n : Nat) (v : BitVec 64) : Context :=
  if n = 0 then c.clearFlags v
  else if n = 0x10 then { c with lc0 := v.setWidth 32 }
  else if n = 0x11 then { c with lc1 := v.setWidth 32 }
  else if specialMask n = 0 then c
  else c.fly (putReg (.spec n) (v &&& specialMask n) 1)

/-- The privilege record of an SWR to an RWS field from a task (R353): written, and the context does not freeze. -/
def privilegeRecord (n : Nat) (v : BitVec 64) (s : State) : State :=
  report (srcCtx s.coreId s.ctxId) s.ctx.func.toNat (dieOf s.coreId) s.ctx.pc
    { cls := 3, code := 3, slots := 1, addr := .ofNat 64 n, info := v.setWidth 32 } s

/-! ## The meanings -/

/-- NOP (R200). -/
def execNop (_o : SR) (s : State) : Result := .next s

/-- A hint executes as NOP (R185, R347). -/
def execHint (_o : HF) (s : State) : Result := .next s

/-- ADD (R201). -/
def execAdd (o : SR) (s : State) : Result :=
  aluR o 1 (gpr s o.ga + gpr s o.gb) s

/-- ADDI (R201). -/
def execAddi (o : SI) (s : State) : Result :=
  aluI o (gpr s o.ga + o.imm.signExtend 64) s

/-- SUB (R201). -/
def execSub (o : SR) (s : State) : Result :=
  aluR o 1 (gpr s o.ga - gpr s o.gb) s

/-- MUL (R201). -/
def execMul (o : SR) (s : State) : Result :=
  aluR o 3 (gpr s o.ga * gpr s o.gb) s

/-- MULH (R201). -/
def execMulh (o : SR) (s : State) : Result :=
  aluR o 3 (wrap64 (sx (gpr s o.ga) * sx (gpr s o.gb) / 2 ^ 64)) s

/-- MULHX (R201). -/
def execMulhx (o : SR) (s : State) : Result :=
  aluR o 3 (.ofNat 64 (nx (gpr s o.ga) * nx (gpr s o.gb) / 2 ^ 64)) s

/-- DIV (R202). -/
def execDiv (o : SR) (s : State) : Result :=
  divOp o (divide true (gpr s o.ga) (gpr s o.gb)) s

/-- DIVX (R202). -/
def execDivx (o : SR) (s : State) : Result :=
  divOp o (divide false (gpr s o.ga) (gpr s o.gb)) s

/-- REM (R202). -/
def execRem (o : SR) (s : State) : Result :=
  divOp o (remainder true (gpr s o.ga) (gpr s o.gb)) s

/-- REMX (R202). -/
def execRemx (o : SR) (s : State) : Result :=
  divOp o (remainder false (gpr s o.ga) (gpr s o.gb)) s

/-- AND (R201). -/
def execAnd (o : SR) (s : State) : Result :=
  aluR o 1 (gpr s o.ga &&& gpr s o.gb) s

/-- ANDI (R201). -/
def execAndi (o : SI) (s : State) : Result :=
  aluI o (gpr s o.ga &&& o.imm.setWidth 64) s

/-- OR (R201). -/
def execOr (o : SR) (s : State) : Result :=
  aluR o 1 (gpr s o.ga ||| gpr s o.gb) s

/-- ORI (R201). -/
def execOri (o : SI) (s : State) : Result :=
  aluI o (gpr s o.ga ||| o.imm.setWidth 64) s

/-- XOR (R201). -/
def execXor (o : SR) (s : State) : Result :=
  aluR o 1 (gpr s o.ga ^^^ gpr s o.gb) s

/-- XORI (R201). -/
def execXori (o : SI) (s : State) : Result :=
  aluI o (gpr s o.ga ^^^ o.imm.setWidth 64) s

/-- SHL (R201). -/
def execShl (o : SR) (s : State) : Result :=
  aluR o 1 ((gpr s o.ga) <<< ((gpr s o.gb).toNat % 64)) s

/-- SHLI (R201). -/
def execShli (o : SI) (s : State) : Result :=
  aluI o ((gpr s o.ga) <<< (o.imm.toNat % 64)) s

/-- SHR (R201). -/
def execShr (o : SR) (s : State) : Result :=
  aluR o 1 ((gpr s o.ga) >>> ((gpr s o.gb).toNat % 64)) s

/-- SHRI (R201). -/
def execShri (o : SI) (s : State) : Result :=
  aluI o ((gpr s o.ga) >>> (o.imm.toNat % 64)) s

/-- SRA (R201). -/
def execSra (o : SR) (s : State) : Result :=
  aluR o 1 ((gpr s o.ga).sshiftRight ((gpr s o.gb).toNat % 64)) s

/-- SRAI (R201). -/
def execSrai (o : SI) (s : State) : Result :=
  aluI o ((gpr s o.ga).sshiftRight (o.imm.toNat % 64)) s

/-- MIN (R201). -/
def execMin (o : SR) (s : State) : Result :=
  aluR o 1 (if sx (gpr s o.ga) ≤ sx (gpr s o.gb) then gpr s o.ga else gpr s o.gb) s

/-- MAX (R201). -/
def execMax (o : SR) (s : State) : Result :=
  aluR o 1 (if sx (gpr s o.gb) ≤ sx (gpr s o.ga) then gpr s o.ga else gpr s o.gb) s

/-- MINX (R201). -/
def execMinx (o : SR) (s : State) : Result :=
  aluR o 1 (if nx (gpr s o.ga) ≤ nx (gpr s o.gb) then gpr s o.ga else gpr s o.gb) s

/-- MAXX (R201). -/
def execMaxx (o : SR) (s : State) : Result :=
  aluR o 1 (if nx (gpr s o.gb) ≤ nx (gpr s o.ga) then gpr s o.ga else gpr s o.gb) s

/-- CLZ (R201). -/
def execClz (o : SR) (s : State) : Result :=
  aluR o 1 (.ofNat 64 (clz64 (gpr s o.ga))) s

/-- POPC (R201). -/
def execPopc (o : SR) (s : State) : Result :=
  aluR o 1 (.ofNat 64 (popc (gpr s o.ga).toNat 64)) s

/-- LI (R203). -/
def execLi (o : SL) (s : State) : Result :=
  issueFlights 0 (sguard o.guard s.ctx) [] (putG o.gd.toNat (o.imm.signExtend 64) 1) s

/-- LIH (R203). -/
def execLih (o : SL) (s : State) : Result :=
  issueFlights 0 (sguard o.guard s.ctx) []
    (putG o.gd.toNat (o.imm.extractLsb' 0 23 ++ (s.ctx.G o.gd.toNat).extractLsb' 0 41) 1) s

/-- SELPRED (R204). -/
def execSelPred (o : SR) (s : State) : Result :=
  aluR o 1 (if s.ctx.P o.pa.toNat then gpr s o.ga else gpr s o.gb) s

/-- SELBITS (R204). -/
def execSelBits (o : SR) (s : State) : Result :=
  aluR o 1 ((gpr s o.ga &&& gpr s o.gc) ||| (gpr s o.gb &&& ~~~(gpr s o.gc))) s

/-- CMP (R205). -/
def execCmp (o : SR) (s : State) : Result :=
  compareR o 1 (intCond o.sub.toNat (gpr s o.ga) (gpr s o.gb)) s

/-- CMPI (R205). -/
def execCmpi (o : SI) (s : State) : Result :=
  issueFlights 0 (sguard o.guard s.ctx) []
    (putP (o.gd.toNat % 16) (intCond o.sub.toNat (gpr s o.ga) (o.imm.signExtend 64)) 1) s

/-- PLOGIC (R206). -/
def execPlogic (o : SR) (s : State) : Result :=
  issueFlights 0 (sguard o.guard s.ctx) []
    (putP o.pd.toNat (logicFn o.sub.toNat (s.ctx.P o.pa.toNat) (s.ctx.P o.pb.toNat)) 1) s

/-- FADD (R207). -/
def execFadd (o : SR) (s : State) : Result :=
  fpR o (rne32 ((f32 (gpr s o.ga)).add (f32 (gpr s o.gb)))) s

/-- FSUB (R207). -/
def execFsub (o : SR) (s : State) : Result :=
  fpR o (rne32 ((f32 (gpr s o.ga)).sub (f32 (gpr s o.gb)))) s

/-- FMUL (R207). -/
def execFmul (o : SR) (s : State) : Result :=
  fpR o (rne32 ((f32 (gpr s o.ga)).mul (f32 (gpr s o.gb)))) s

/-- FFMA (R207). -/
def execFfma (o : SR) (s : State) : Result :=
  fpR o (rne32 (((f32 (gpr s o.ga)).mul (f32 (gpr s o.gb))).add (f32 (gpr s o.gc)))) s

/-- FMIN (R207, R31). -/
def execFmin (o : SR) (s : State) : Result :=
  fpR o (minmaxCode false FFmt.f32.canonNaN (f32 (gpr s o.ga)) (f32 (gpr s o.gb)) ((gpr s o.ga).toNat % 2 ^ 32) ((gpr s o.gb).toNat % 2 ^ 32)) s

/-- FMAX (R207, R31). -/
def execFmax (o : SR) (s : State) : Result :=
  fpR o (minmaxCode true FFmt.f32.canonNaN (f32 (gpr s o.ga)) (f32 (gpr s o.gb)) ((gpr s o.ga).toNat % 2 ^ 32) ((gpr s o.gb).toNat % 2 ^ 32)) s

/-- FCMP (R208). -/
def execFcmp (o : SR) (s : State) : Result :=
  compareR o 2 (fpCond o.sub.toNat (f32 (gpr s o.ga)) (f32 (gpr s o.gb))) s

/-- FCVT (R209). -/
def execFcvt (o : SR) (s : State) : Result :=
  let r := fcvtResult o.sub.toNat (gpr s o.ga)
  let fs := putG o.gd.toNat r.1 4
  issueCtx 0 (sguard o.guard s.ctx) [] (clashes s.ctx fs) (fun c => (c.fly fs).flag fSATUR r.2) s

/-- BR (R181, R210). -/
def execBr (o : SB) (s : State) : Result :=
  branchTo (.br o) o.guard 0 (relTarget o s) s

/-- BRL (R181, R210). -/
def execBrl (o : SB) (s : State) : Result :=
  branchTo (.brl o) o.guard o.link.toNat (relTarget o s) s

/-- JR (R181, R210). -/
def execJr (o : SR) (s : State) : Result :=
  branchTo (.jr o) o.guard o.gd.toNat ((gpr s o.ga) &&& ~~~7) s

/-- LOOP (R182, R211). -/
def execLoop (o : SI) (s : State) : Result :=
  let cnt : BitVec 32 := (gpr s o.ga).setWidth 32
  let le := s.ctx.pc + 8 * o.imm.signExtend 64
  let end_ := bundleLen s.core s.ctx.func.toNat le
  issueCtx 0 (leadGuard o.guard s || s.ctx.delay != 0)
    (await (cnt != 0 || end_.isSome || s.ctx.delay != 0 || s.ctx.leadGuard.isSome) (.icache (bundleMiss s.core s.ctx.func.toNat le)))
    (notInDelay (.loop o) s)
    (fun c => c.setLoop o.gd.toNat cnt le (le + .ofNat 64 (end_.getD 8))) s

/-- EXIT (R183, R212). -/
def execExit (o : SR) (s : State) : Result :=
  issueCtx 0 (leadGuard o.guard s) [] [] (fun c => { c with exiting := true }) s

/-- YIELD (R213). -/
def execYield (o : SR) (s : State) : Result :=
  issueCtx 0 (sguard o.guard s.ctx) (await (s.ctx.yielded || inTeam s || !otherReady s) .yield) [] id s

/-- SRD (R214). -/
def execSrd (o : SI) (s : State) : Result :=
  aluI o (specialRead s (o.imm.toNat % 256)) s

/-- SWR (R174, R214, R353). -/
def execSwr (o : SI) (s : State) : Result :=
  let n := o.imm.toNat % 256
  issueOp 0 (sguard o.guard s.ctx) [] []
    (fun s => if isRws n && !s.ctx.supv then privilegeRecord n (gpr s o.ga) s
      else { s with ctx := s.ctx.swr n (gpr s o.ga) }) s

/-- STG (R178, R214). -/
def execStg (o : SR) (s : State) : Result :=
  issueFlights 0 (sguard o.guard s.ctx) [] (putReg (.es (o.gd.toNat % 16)) (gpr s o.ga) 1) s

/-- TSET (R177, R214). DEDUCED: INFO of CODE 0x000C names T[gd], the register that the word shapes, and not G[ga] that holds it (log entry 24). -/
def execTset (o : SR) (s : State) : Result :=
  let t := o.gd.toNat % 16
  issueFlights 0 (sguard o.guard s.ctx)
    (chk (shFmt (gpr s o.ga) ≤ 12 && shBytes (gpr s o.ga) ≤ 65536) 1 0xC (encode (.tset o)) (matWord false t).toNat ++ ownsTile s t)
    (putReg (.shape t) (gpr s o.ga &&& 0x7FFFFF) 1) s

/-- XPSET (R178, R214). -/
def execXpset (o : SR) (s : State) : Result :=
  issueFlights 0 (sguard o.guard s.ctx) [] (putReg (.xp (o.gd.toNat % 16)) (gpr s o.ga) 1) s

/-- The call record of Table 10-5, its SLOT still to come. -/
def callRecord (o : SI) (s : State) : BitVec 512 :=
  .ofNat 512 (s.tick.toNat + place (srcCtx s.coreId s.ctxId) 64 16 + place s.ctx.func.toNat 80 5
    + place (if s.ctx.supv then 1 else 0) 85 1 + place o.gd.toNat 86 4 + place o.imm.toNat 96 32 + place (gpr s o.ga).toNat 128 64)

/-- SVC (R216): the record is posted at once where no earlier access still has to perform. -/
def execSvc (o : SI) (s : State) : Result :=
  let r := o.gd.toNat % 16
  let q := s.ctx.Q r
  issueOp 0 (sguard o.guard s.ctx) [] (chk (qLocal q && 64 ≤ qSize q) 1 0xD (encode (.svc o)) r)
    (fun s => modHub (fun h => { h with calls := h.calls ++ [postCall s
      ⟨callRecord o s, s.coreId, s.ctxId, r, s.ctx.task, (s.core.window.filter fun a => a.ctx == s.ctxId).map (·.id), false⟩] }) s) s

/-- TICK (R215). -/
def execTick (o : SR) (s : State) : Result :=
  aluR o 1 s.tick s

end Sys2Proof.Machine
end

