-- ==== Sys2Proof/Machine/Sha.lean ====
section
/-! DEFINITION. SHA-256, which chains the stud book's pages and measures configuration blocks (R323, R335). PRESUMED: the manual names the function and not its steps; they are those of FIPS 180-4 (log entry 15). -/

namespace Sys2Proof.Machine.Sha

/-- Round constants. -/
def k1 : List (BitVec 32) := [0x428A2F98, 0x71374491, 0xB5C0FBCF, 0xE9B5DBA5, 0x3956C25B, 0x59F111F1, 0x923F82A4, 0xAB1C5ED5,
  0xD807AA98, 0x12835B01, 0x243185BE, 0x550C7DC3, 0x72BE5D74, 0x80DEB1FE, 0x9BDC06A7, 0xC19BF174]
/-- Round constants. -/
def k2 : List (BitVec 32) := [0xE49B69C1, 0xEFBE4786, 0x0FC19DC6, 0x240CA1CC, 0x2DE92C6F, 0x4A7484AA, 0x5CB0A9DC, 0x76F988DA,
  0x983E5152, 0xA831C66D, 0xB00327C8, 0xBF597FC7, 0xC6E00BF3, 0xD5A79147, 0x06CA6351, 0x14292967]
/-- Round constants. -/
def k3 : List (BitVec 32) := [0x27B70A85, 0x2E1B2138, 0x4D2C6DFC, 0x53380D13, 0x650A7354, 0x766A0ABB, 0x81C2C92E, 0x92722C85,
  0xA2BFE8A1, 0xA81A664B, 0xC24B8B70, 0xC76C51A3, 0xD192E819, 0xD6990624, 0xF40E3585, 0x106AA070]
/-- Round constants. -/
def k4 : List (BitVec 32) := [0x19A4C116, 0x1E376C08, 0x2748774C, 0x34B0BCB5, 0x391C0CB3, 0x4ED8AA4A, 0x5B9CCA4F, 0x682E6FF3,
  0x748F82EE, 0x78A5636F, 0x84C87814, 0x8CC70208, 0x90BEFFFA, 0xA4506CEB, 0xBEF9A3F7, 0xC67178F2]

/-- The eight working words. -/
structure Words where
  a : BitVec 32
  b : BitVec 32
  c : BitVec 32
  d : BitVec 32
  e : BitVec 32
  f : BitVec 32
  g : BitVec 32
  h : BitVec 32
deriving DecidableEq, Repr

/-- The initial hash value. -/
def start : Words := ⟨0x6A09E667, 0xBB67AE85, 0x3C6EF372, 0xA54FF53A, 0x510E527F, 0x9B05688C, 0x1F83D9AB, 0x5BE0CD19⟩

/-- One round. -/
def round (s : Words) (kw : BitVec 32 × BitVec 32) : Words :=
  let s1 := s.e.rotateRight 6 ^^^ s.e.rotateRight 11 ^^^ s.e.rotateRight 25
  let ch := (s.e &&& s.f) ^^^ (~~~s.e &&& s.g)
  let t1 := s.h + s1 + ch + kw.1 + kw.2
  let s0 := s.a.rotateRight 2 ^^^ s.a.rotateRight 13 ^^^ s.a.rotateRight 22
  let maj := (s.a &&& s.b) ^^^ (s.a &&& s.c) ^^^ (s.b &&& s.c)
  ⟨t1 + (s0 + maj), s.a, s.b, s.c, s.d + t1, s.e, s.f, s.g⟩

/-- Extend a message schedule, newest word first, by `n` words. -/
def extend : Nat → List (BitVec 32) → List (BitVec 32)
  | 0, l => l
  | n + 1, l =>
    let x := l.getD 14 0
    let y := l.getD 1 0
    let s0 := x.rotateRight 7 ^^^ x.rotateRight 18 ^^^ (x >>> 3)
    let s1 := y.rotateRight 17 ^^^ y.rotateRight 19 ^^^ (y >>> 10)
    extend n ((s1 + l.getD 6 0 + s0 + l.getD 15 0) :: l)

/-- Compress one block of sixteen words. -/
def block (s : Words) (m : List (BitVec 32)) : Words :=
  let r := ((k1 ++ k2 ++ k3 ++ k4).zip (extend 48 m.reverse).reverse).foldl round s
  ⟨s.a + r.a, s.b + r.b, s.c + r.c, s.d + r.d, s.e + r.e, s.f + r.f, s.g + r.g, s.h + r.h⟩

/-- The number whose bytes are given, most significant first. -/
def ofBe (l : List Byte) : Nat := ofLeBytes l.reverse

/-- Compress a padded message of `n` blocks. -/
def blocks : Nat → Words → List Byte → Words
  | 0, s, _ => s
  | n + 1, s, l => blocks n (block s ((List.range 16).map fun i => .ofNat 32 (ofBe ((l.drop (4 * i)).take 4)))) (l.drop 64)

/-- The padding of a message of `n` bytes. -/
def pad (n : Nat) : List Byte := 0x80 :: List.replicate ((119 - n % 64) % 64) 0 ++ (leBytes (8 * n) 8).reverse

/-- SHA-256 of bytes, as the number whose bytes, most significant first, are the digest. -/
def sha256 (l : List Byte) : BitVec 256 :=
  let m := l ++ pad l.length
  let s := blocks (m.length / 64) start m
  s.a ++ s.b ++ s.c ++ s.d ++ s.e ++ s.f ++ s.g ++ s.h

/-- The bytes of a digest. -/
def digest (x : BitVec 256) : List Byte := (leBytes x.toNat 32).reverse

end Sys2Proof.Machine.Sha
end

