-- ==== Sys2Proof/Machine/Hub.lean ====
section
/-! DEFINITION. The host's windows, functions, resets, alignment, links, the stud book and the security processor (R313 to R324, R332 to R337, R372, R375, R390, R391). -/

namespace Sys2Proof.Machine

/-! ## Functions (R317, R336) -/

/-- The bits of a configuration block that hold fields (Table 19-1). -/
def blockMask : Nat := 0xFF0F + place 0xFFFFFFFF 16 32 + place (2 ^ 465 - 1) 64 465 + place (2 ^ 80 - 1) 576 80

/-- EN of a block. -/
def blkEn (b : BitVec 1024) : Bool := b.getLsbD 0

/-- A function number exists. -/
def atFunc (f : Nat) (g : State → State) (s : State) : Result := if f ≤ 16 then .next (g s) else .fault .absentAgent

/-- Write a function's block. -/
def setBlock (f : Nat) (b : BitVec 1024) (s : State) : State := modHub (fun h => { h with funcs := tset 0 h.funcs f b }) s

/-- A step of bring-up has failed: the steps behind it do not come (R324, R337). -/
def broughtDown (s : State) : Bool := bits s.hub.status.toNat 3 0 != 0

/-- The host may take a step of bring-up behind step `n`: that one is complete, and none has failed (R324, Table 19-3). -/
def broughtTo (s : State) (n : Nat) : Bool := !broughtDown s && decide (n ≤ s.hub.bringUp)

/-- An action completes step `n` of bring-up, or the step fails in its place: nothing of the action happens, and its report stands (R324; log entry 68). -/
def completeStep (n : Nat) (act : State → State) (s : State) : State := match s.hub.bringFail with
  | some (f, c) => if f = n then modHub (fun h => { h with status := .ofNat 64 (n + place c 8 8), bringFail := none }) s
    else modHub (fun h => { h with bringUp := max h.bringUp n }) (act s)
  | none => modHub (fun h => { h with bringUp := max h.bringUp n }) (act s)

/-- FUNCTION_ENABLE (R317): EN = 1 written to a disabled function enables it with every field, behind step 6 of bring-up; the first one completes step 7 (R324). SCLIM 3 is never valid, so such a block enables nothing. DESIGN CHOICE: a value outside its range in Table 19-1 (WEIGHT 0, FQN below 16, RRN above 65,536, an address that is not aligned) is taken as written; R317 gives no outcome for it (log entry 80). -/
def execFunctionEnable (f : Nat) (blk : BitVec 1024) (s : State) : Result := atFunc f (fun s =>
  if broughtTo s 6 && !fEnabled s f && blkEn blk && bits blk.toNat 2 1 != 3 then
    completeStep 7 (setBlock f (.ofNat 1024 (blk.toNat &&& blockMask))) s else s) s

/-- FUNCTION_UPDATE (R317): EN = 1 written to an enabled function changes only WEIGHT and QUOTA. -/
def execFunctionUpdate (f : Nat) (blk : BitVec 1024) (s : State) : Result := atFunc f (fun s =>
  if fEnabled s f && blkEn blk then
    let old := (tget 0 s.hub.funcs f).toNat
    setBlock f (.ofNat 1024 (bits old 7 0 + place (bits blk.toNat 15 8) 8 8 + place (bits blk.toNat 47 16) 16 32 + (old >>> 48) <<< 48)) s
  else s) s

/-- The function's queues stop accepting records, those in them are discarded, and records on their way to them get a negative acknowledgement (R336 step 1, R123). -/
def resetQueues (f : Nat) (s : State) : State :=
  let mine (q : Nat) : Bool := qcVf (queueOf s q) == f
  let s := (s.hub.inbox.filter fun x => mine x.queue).foldl (fun s x => nack x s) s
  modHub (fun h => { h with queues := h.queues.map fun p => if qcVf p.2 = f then (p.1, { conf := p.2.conf &&& ~~~1 }) else p }) s

/-- The function's contexts are abandoned without completion records, and their commands discarded (R336 step 2). Matrix operations that have started run to their end. What R336 clears of such a context (its handles, bindings, pins and ring handles) is gone, and its other registers keep their values (R5; log entry 46). -/
def resetContexts (f : Nat) (s : State) : State :=
  let s := mapCores (fun _ k => { k with
    cmds := k.cmds.filter (fun m => m.func != f)
    refDrops := k.refDrops.filter (fun r => r.func != f)
    tlb := k.tlb.filter (fun e => e.func != f)
    icache := k.icache.filter fun l => l.1 != f }) s
  let gone := (ctxIds s).filter fun p => (getCtx s p.1 p.2).func.toNat == f && (getCtx s p.1 p.2).life != .idle
  let s := gone.foldl (fun s p => modCore p.1 (fun k => k.dropQueued fun e => e.ctx == p.2)
    (modCtx p.1 p.2 (Context.vacated p.1) (keepBubble p.1 p.2 s))) s
  let ids := (s.hub.tasks.filter fun t => t.func == f).map (·.id)
  modHub (fun h => { h with
    tasks := h.tasks.filter (fun t => t.func != f)
    graphs := h.graphs.filter (fun g => g.func != f)
    saved := h.saved.filter (fun v => v.ctx.func.toNat != f)
    clusterSaves := h.clusterSaves.filter (fun v => v.func != f)
    calls := h.calls.filter (fun x => !ids.contains x.task)
    bound := h.bound.filter (fun b => b.key / 65536 != f)
    bgSteps := h.bgSteps.filter (fun p => p.1 / 512 != f)
    bgDone := h.bgDone.filter (fun p => p.1 / 64 != f)
    bgPeers := h.bgPeers.filter (fun p => p.1 / 64 != f)
    bgBroken := h.bgBroken.filter fun g => g / 64 != f }) s

/-- The pages of a function in the reserve zone are gone. -/
def emptyReserve (f : Nat) (s : State) : State :=
  let gone := s.hub.reserve.filter fun r => r.1 == f
  gone.foldl (fun s r => { s with mem := Memory.zero s.mem (reservePfn f r.2 * 65536) 65536 })
    (modHub (fun h => { h with
      reserve := h.reserve.filter (fun r => r.1 != f)
      heads := h.heads.filter (fun a => !gone.any fun r => reservePfn f r.2 == a / 65536)
      prepared := h.prepared.filter fun p => !gone.any fun r => reservePfn f r.2 == p.1 }) s)

/-- The function's handles and counters are cleared, and its pages leave it at once, with the epoch of the reset (R336 step 3, R120). -/
def resetPages (f : Nat) (s : State) : State :=
  let s := emptyReserve f (dropHandles (fun h => bits h.toNat 11 7 == f) s)
  let pfns := (s.hub.pages.filter fun p => dState p.2.toNat != 0 && dOwner p.2.toNat == f).map (·.1)
  modHub (fun h => { h with
    counters := h.counters.filter (fun p => p.1 / 4096 != f)
    pages := h.pages.filter (fun p => !pfns.contains p.1)
    resetPages := h.resetPages ++ pfns.map fun p => (p, h.epoch)
    prepared := h.prepared.filter (fun p => !pfns.contains p.1)
    linked := h.linked.filter (fun l => !l.pages.any pfns.contains)
    heads := h.heads.filter (fun a => !pfns.contains (a / 65536))
    copies := h.copies.filter (fun p => !pfns.contains p.1)
    revokes := h.revokes.filter (fun r => r.func != f)
    staged := h.staged.filter (fun p => p.f != f)
    epoch := h.epoch + 1 }) s

/-- A function reset in its order (R336): at its end the function reads as disabled, its other fields as they stood until the next EN = 1 (log entry 66); the fault queue numbers from 0 again (R329). -/
def resetFunction (f : Nat) (s : State) : State :=
  let s := resetPages f (resetContexts f (resetQueues f s))
  modHub (fun h => { h with funcs := tset 0 h.funcs f (tget 0 h.funcs f &&& ~~~1), fqSeq := h.fqSeq.filter (fun p => p.1 != f), fqRecent := h.fqRecent.filter fun p => p.1 != f }) s

/-- FUNCTION_RESET (R336): for an enabled function. -/
def execFunctionReset (f : Nat) (s : State) : Result := atFunc f (fun s => if fEnabled s f then resetFunction f s else s) s

/-! ## Management writes (R315) -/

/-- QUEUE_CONFIG_WRITE (R123): SEQ is read-only. Behind step 6 of bring-up the words are written, and behind step 7 their EN, which completes step 8 (R324). -/
def execQueueConfigWrite (q : Nat) (w : BitVec 64) (s : State) : Result :=
  if q < 256 then .next (
    if broughtTo s 7 then
      (let set := modQueue q fun x => { x with conf := w.setWidth 32 &&& 0x3FF }
       if w.getLsbD 0 then completeStep 8 set s else set s)
    else if broughtTo s 6 then modQueue q (fun x => { x with conf := w.setWidth 32 &&& 0x3FE }) s
    else s) else .fault .absentAgent

/-- REMOTE_RING_ENTRY_WRITE (R318): an entry of the function's table. DESIGN CHOICE: where the index is RRN or above, or the table's page is not mapped, nothing is written; R318 does not say (log entry 35). -/
def execRemoteRingEntryWrite (f i : Nat) (w : BitVec 128) (s : State) : Result := atFunc f (fun s =>
  if i < fblk s f 528 512 then match vphys s f (fblk s f 511 448 + 16 * i) with
    | some (a, _) => devPut s a (w.toNat &&& 0x1FFFFF0FFF0003) 16
    | none => s
  else s) s

/-- A barrier-group entry is written: the group is whole again, and its step counters read 0 (R110, R111, R387). -/
def writeGroup (f g : Nat) (e : BitVec 64) (s : State) : State :=
  let s := match vphys s f (fblk s f 383 320 + 8 * g) with
    | some (a, _) => devPut s a (e.toNat &&& 0xFFFFF) 8
    | none => s
  let key := f * 64 + g
  let s := mapCtxs (fun _ _ x => if x.func.toNat = f ∧ groupOf x = g ∧ 4 ≤ bits x.domain.toNat 8 6 then { x with stepno := 0 } else x) s
  modHub (fun h => { h with
    bgBroken := h.bgBroken.filter (· ≠ key)
    bgDone := h.bgDone.filter (fun p => p.1 != key)
    bgPeers := h.bgPeers.filter fun p => p.1 != key
    bgSteps := h.bgSteps.filter fun p => p.1 / 8 != key }) s

/-- A page of HBM that has not been withdrawn enters the pool, zeroed with fresh check bits (R83, R84, R373). -/
def addPage (pfn : Nat) (s : State) : State :=
  if dState (desc s pfn) = 0 ∧ !s.hub.free.contains pfn ∧ !s.hub.withdrawn.contains pfn ∧ (hbmPlace s (pfn * 65536)).isSome then
    modHub (fun h => { h with free := h.free ++ [pfn] }) (scrubPage pfn s)
  else s

/-- The bits of an address-range entry that hold fields (Table 4-6). -/
def rangeMask : BitVec 256 := .ofNat 256 (1 + place (2 ^ 36 - 1) 16 36 + place (2 ^ 36 - 1) 80 36 + place 63 128 6 + place (2 ^ 48 - 1) 144 48 + place 0x1FFFF 192 17)

/-- The bytes of the valid ranges of a tier. -/
def tierBytes (rs : Tab (BitVec 256)) (tier : Nat) : Nat :=
  ((rs.filter fun e => bits e.2.toNat 0 0 == 1 && bits e.2.toNat 133 132 == tier).map fun e => bits e.2.toNat 115 80 * 65536).sum

/-- The bytes of an HBM entry that lie in stack `st`: its units go round the listed stacks in ascending order (R82). -/
def stackBytes (e st : Nat) : Nat :=
  let ss := listed (bits e 159 144) 16
  let g := bits e 131 128 + 8
  let n := bits e 115 80 * 65536
  let i := ss.idxOf st
  if i < ss.length then (n >>> g + ss.length - 1 - i) / ss.length <<< g + (if n >>> g % ss.length = i then n % 2 ^ g else 0) else 0

/-- The valid HBM ranges hold no more of a stack than it has (R12): 80 GB, a decimal unit (R3). -/
def stackFits (rs : Tab (BitVec 256)) (st : Nat) : Bool :=
  ((rs.filter fun e => bits e.2.toNat 0 0 == 1 && bits e.2.toNat 133 132 == 0).map fun e => stackBytes e.2.toNat st).sum ≤ 80 * 10 ^ 9

/-- The ranges hold no more HBM and flash than the package has (R12): 16 stacks of 80 GB and 8 TB, in decimal units (R3). -/
def rangesFit (rs : Tab (BitVec 256)) : Bool :=
  tierBytes rs 0 ≤ 1280 * 10 ^ 9 && tierBytes rs 1 ≤ 8 * 10 ^ 12 && (List.range 16).all (stackFits rs)

/-- Step 5 of bring-up, the part's own, follows step 4. -/
def followStep (s : State) : State := if broughtTo s 4 ∧ s.hub.bringUp < 5 then completeStep 5 id s else s

/-- Write an address-range entry (R81), behind step 3 of bring-up; the first valid one completes step 4, which step 5 follows (R324; log entry 68). Its reserved bits read zero (R5). DESIGN CHOICE: entries that overlap, a GRAN above 8 and a table without an HBM entry are taken as written, for which R81 and R322 give no outcome (log entry 67). -/
def writeRange (i : Nat) (e : BitVec 256) (s : State) : State :=
  let rs := tset 0 s.hub.ranges i (e &&& rangeMask)
  let load := modHub fun h => { h with ranges := rs }
  if i < 16 ∧ broughtTo s 3 ∧ rangesFit rs then (if e.getLsbD 0 then followStep (completeStep 4 load s) else load s) else s

/-- A flash range holds the pages of a log. -/
def onFlash (s : State) (base pages : Nat) : Bool := match rangeOf s base with
  | some e => bits e 133 132 == 1 && base + 4096 * pages ≤ rangeEnd e
  | none => false

/-- A core's register that the supervisor writes, where the package has the core. -/
def manageCore (c : Nat) (g : Core → Core) (s : State) : State := if isCore c then modCore c g s else s

/-- A context's register that the supervisor writes, where the package has the context. -/
def manageCtx (c k : Nat) (g : Context → Context) (s : State) : State := if isCore c && k < 4 then modCtx c k g s else s

/-- A register of a file takes a value by a management write; the hard-wired ones do not, nor do handles and bindings, whose fields are all RO (R5, Tables 3-3 and 4-5). -/
def Context.setReg (x : Context) (file : RegFile) (r sec : Nat) (v : BitVec 512) : Context :=
  let f (d : Dest) : Context := x.land { dest := d, val := v, mask := BitVec.allOnes 512, cnt := 0 }
  match file with
  | .g => f (.g (r % 64))
  | .p => f (.p (r % 16))
  | .v => f (.v (r % 32) (sec % 8))
  | .m => f (.m (r % 8) (sec % 8))
  | .w => f (.w (r % 8) (sec % 8))
  | .xp => f (.xp (r % 16))
  | .h => x
  | .es => f (.es (r % 16))
  | .q => x.setQ (r % 16) (v.setWidth 128 &&& qMask)
  | .b => x

/-- Step 3 of bring-up is complete once every supervisor core has a context that runs firmware (Table 19-3; log entry 68). -/
def supsStarted (s : State) : State :=
  if ((List.range 8).all fun i => (List.range 4).any fun k => (getCtx s (0x100 + i) k).life != .idle) then
    completeStep 3 id s
  else s

/-- An idle context of a supervisor core starts firmware of a function at an address, behind step 2 of bring-up (R10, R324, Table 19-3; log entry 61). -/
def startSup (c k f : Nat) (pc : BitVec 64) (s : State) : State :=
  if broughtTo s 2 && isCore c && isSupCore c && k < 4 && f ≤ 16 && (getCtx s c k).life == .idle then
    supsStarted (modCtx c k (fun x => { resetContext c with life := .running, func := .ofNat 5 f, pc := pc, savecfg := x.savecfg }) (runOn c k s))
  else s

/-- A page of a step window and its second copy, which the page engine allocates together; a page that is mapped already becomes copy 0 (R116; log entry 27). -/
def backPage (f va : Nat) (s : State) : Option State :=
  let pair (p0 p1 : Nat) : State → State := modHub fun h => { h with copies := tset 0 h.copies p0 (p1 + 1) }
  match pfnOf s f va with
  | some p => if tget 0 s.hub.copies p != 0 then some s else (takePage f s).map fun x => pair p x.1 x.2
  | none => match pte3Addr s f va, takePages f 2 s with
    | some _, some ([p0, p1], t) => some (pair p0 p1 (mapPage f va p0 t))
    | _, _ => none

/-- All the pages of a step window, or none (R83, R116). -/
def backPages (f : Nat) : List Nat → State → Option State
  | [], s => if ownedPages s f ≤ fQuota s f then some s else none
  | a :: t, s => (backPage f a s).bind (backPages f t)

/-- Write a step-window entry of a function (R116); a valid one backs its pages first, and is not written where the pool or the quota does not give them. -/
def writeWindow (f i : Nat) (e : BitVec 128) (s : State) : State :=
  let x := e.toNat
  let pages := (List.range (bits x 84 64)).map fun j => bits x 51 16 * 65536 + 65536 * j
  match vphys s f (fblk s f 447 384 + 16 * i), (if bits x 0 0 = 1 then backPages f pages s else some s) with
  | some (a, _), some t => devMerge a (leBytes (bits x 0 0 + place (bits x 51 16) 16 36 + place (bits x 84 64) 64 21) 16) t
  | _, _ => s

/-- The package number is assigned: step 6 of bring-up, behind step 5. The tick is then aligned, and the host's steps may follow (R324; log entry 68). -/
def assignPackage (n : BitVec 12) (s : State) : State :=
  if broughtTo s 5 ∧ s.hub.bringUp < 6 then completeStep 6 (modHub fun h => { h with package := n, aligned := true, lastFlit := s.tick }) s else s

/-- What a management write without a row of its own does. -/
def manage (m : Mgmt) (s : State) : State := match m with
  | .mem pa bs => devMerge pa bs s
  | .range i e => writeRange i e s
  | .tshare c w => manageCore c (fun k => { k with tshare := w &&& specialMask 0xD }) s
  | .cachecfg c w => manageCore c (fun k => { k with cachecfg := w &&& specialMask 0xE }) s
  | .domain c k w => manageCtx c k (fun x => { x with domain := w &&& specialMask 9 }) s
  | .savecfg c k w => manageCtx c k (fun x => { x with savecfg := w &&& specialMask 0xF }) s
  | .markNormal c k => modHub (fun h => { h with saved := h.saved.map fun v => if v.core = c ∧ v.ctxId = k then { v with faulted := false } else v }) s
  | .barrierGroup f g e => if 1 ≤ g ∧ g < 64 then writeGroup f g e s else s
  | .level5 f g n => modHub (fun h => { h with bgSteps := tset 0 h.bgSteps ((f * 64 + g) * 8 + 5) n, step5Bad := h.step5Bad.filter (· != f * 64 + g) }) s
  | .pool l => l.foldl (fun s p => addPage p s) s
  | .reg c k file r sec v => manageCtx c k (fun x => if x.frozen.isSome then x.setReg file r sec v else x) s
  | .logSize f log n base =>
    if onFlash s base n then modHub (fun h => { h with logs := tput h.logs (f * 16 + log % 16) { tget {} h.logs (f * 16 + log % 16) with base := base, pages := n } }) s else s
  | .stage f va l => modHub (fun h => { h with staged := ⟨f, va, l⟩ :: h.staged }) s
  | .stepWindow f i e => if f ≤ 16 ∧ i < 8 then writeWindow f i e s else s
  | .package n => assignPackage n s
  | .supQueue d n => if d < 4 ∧ 1 ≤ n then modHub (fun h => { h with supFaults := tput h.supFaults d { tget {} h.supFaults d with size := n } }) s else s
  | .startSup c k f pc => startSup c k f pc s
  | .copyPage p q => if p ≠ q ∧ dState (desc s p) = 1 ∧ dState (desc s q) = 1 then copyFrame p q (scrubPage q s) else s

/-- MANAGEMENT_WRITE (R315). -/
def execManagementWrite (m : Mgmt) (s : State) : Result := .next (manage m s)

/-! ## Package reset (R324, R337) -/

/-- A physical address lies in a range of flash, CXL or host memory. -/
def outsideHbm (s : State) (a : Nat) : Bool := (rangeOf s a).any fun e => bits e 133 132 != 0

/-- PACKAGE_RESET (R337): everything to its Reset value, but for what stands outside HBM, the stud book and its counters on flash, and what is known of bad pages; then bring-up: its first two steps, behind which the start of the supervisor cores, the loads of tables and number and the host's steps come as writes. A step that is to fail stops bring-up in its place, with its report (R324, log entry 68). -/
def execPackageReset (failStep cause : Nat) (s : State) : Result :=
  let own := 1 ≤ failStep && failStep ≤ 2
  .next { State.reset with
    cycle := s.cycle, phase := s.phase, tick := s.tick, agenda := s.agenda, fresh := s.fresh
    mem := s.mem.filter fun p => outsideHbm s p.1
    hub := { resetHub with
      studBook := { s.hub.studBook with buffer := [], ring := [], missed := [] }
      logs := s.hub.logs
      poison := s.hub.poison.filter fun l => outsideHbm s (64 * l)
      badLines := s.hub.badLines.filter fun l => outsideHbm s (64 * l)
      withdrawn := s.hub.withdrawn
      oncePoisoned := s.hub.oncePoisoned
      portsDown := s.hub.portsDown
      cxlDown := s.hub.cxlDown
      cxlRevoked := s.hub.cxlRevoked
      bringUp := if own then failStep - 1 else 2
      bringFail := if 3 ≤ failStep && failStep ≤ 8 then some (failStep, cause) else none
      lastFlit := s.tick
      lastSent := s.tick
      status := if own then .ofNat 64 (failStep + place cause 8 8) else 0 } }

/-! ## Alignment (R320, R390) -/

/-- The level-5 step counters of the package's barrier groups. -/
def level5Counters (s : State) : List (Nat × BitVec 64) := (s.hub.bgSteps.filter fun p => p.1 % 8 == 5).map fun p => (p.1 / 8, p.2)

/-- ALIGN_FLIT_SEND (R320): every 1,024 ticks, one on every link. -/
def execAlignFlitSend (s : State) : Result := when (decide (s.hub.lastSent.toNat + 1024 ≤ s.tick.toNat)) (fun s =>
  modHub (fun h => { h with lastSent := s.tick, flits := h.flits ++ (portsUp s).map fun p => (p, h.package, s.tick, level5Counters s) }) s) s

/-- A unit record of the tick source: alignment is lost (CODE 0x0003 of CLASS 0x08). -/
def alignLost (dev : BitVec 64) (s : State) : State :=
  toSupervisor 0 (faultRecord s 0x4013 16 0 { cls := 8, code := 3, addr := dev }) (modHub (fun h => { h with aligned := false, inRange := 0 }) s)

/-- The deviation of the tick from the root's. -/
def deviation (a b : BitVec 64) : Nat := if a ≤ b then b.toNat - a.toNat else a.toNat - b.toNat

/-- No correction in the last 1,024 ticks. -/
def maySteer (s : State) : Bool := s.hub.steerAt == 0 || s.hub.steerAt + 1023 ≤ s.tick.toNat

/-- Steer toward the root by one tick, never backward and no more than once in 1,024 ticks (R320). -/
def steer (root : BitVec 64) (s : State) : State :=
  if !maySteer s || s.tick == root then s
  else
    let s := modHub (fun h => { h with steerAt := s.tick.toNat + 1 }) s
    if s.tick < root then { s with tick := s.tick + 1 } else modHub (fun h => { h with slow := true }) s

/-- ALIGN_FLIT_RECEIVE (R320, R390). The tick root, package 0, is within one tick of itself and steers toward no one. -/
def execAlignFlitReceive (rootTick : BitVec 64) (steps : List (Nat × BitVec 64)) (s : State) : Result :=
  let root := if s.hub.package = 0 then s.tick else rootTick
  let d := deviation s.tick root
  let s := modHub (fun h => { h with
    lastFlit := s.tick
    step5Bad := ((steps.filter fun p => tget 0 h.bgSteps (p.1 * 8 + 5) != p.2 && !h.step5Bad.contains p.1).map (·.1)).dedup ++ h.step5Bad
    inRange := if d ≤ 1 then (if h.inRange = 0 then s.tick.toNat + 1 else h.inRange) else 0 }) s
  .next (steer root (if 1 < d ∧ s.hub.aligned then alignLost (.ofNat 64 d) s else s))

/-- ALIGN_TIMEOUT (R390): no flit for 65,536 ticks; the deviation is then not known, and ADDR is open (log entry 14). -/
def execAlignTimeout (s : State) : Result :=
  when (s.hub.aligned && decide (s.hub.lastFlit.toNat + 65536 ≤ s.tick.toNat)) (fun s => alignLost (Config.openAddr s.fresh) s) s

/-- ALIGN_REJOIN (R390): 1,024 consecutive ticks within one tick of the root. -/
def execAlignRejoin (s : State) : Result :=
  when (!s.hub.aligned && s.hub.inRange != 0 && decide (s.hub.inRange - 1 + 1024 ≤ s.tick.toNat)) (modHub fun h => { h with aligned := true }) s

/-! ## The stud book (R333 to R335) -/

/-- A stud-book record (Table 20-3). -/
def studRecord (s : State) (src kind : Nat) (loc syn : BitVec 64) : BitVec 256 :=
  .ofNat 256 (s.tick.toNat + place src 64 16 + place kind 80 8 + place loc.toNat 128 64 + place syn.toNat 192 64)

/-- The order of stud-book records: (TICK, SRC). -/
def studBefore (a b : BitVec 256) : Bool :=
  let k (x : BitVec 256) : Nat := bits x.toNat 63 0 * 65536 + bits x.toNat 79 64
  k a < k b

/-- Insert a record in order. -/
def studInsert (r : BitVec 256) : List (BitVec 256) → List (BitVec 256)
  | [] => [r]
  | x :: t => if studBefore r x then r :: x :: t else x :: studInsert r t

/-- A source number that Table 1-4 assigns: the class, and an index with a unit or engine that exists (R15, R16). -/
def assigned (src : Nat) : Bool :=
  let i := src % 4096
  match src / 4096 with
  | 0 => i < 768
  | 1 => i < 1536 && i % 8 != 7
  | 2 => i < 32
  | 3 => i < 64 && i % 16 ≤ 5
  | 4 => i ≤ 20
  | _ => false

/-- The unit that can correct an error of a kind (Table 20-3): the controller of the stack that holds the HBM address (R82), a unit on an on-chip hop, a die-to-die link controller, a context or engine at a scratchpad, a fabric port or the CXL port, an engine end to end, the flash controller. KIND 8 is no error. -/
def corrects (s : State) (src kind : Nat) (loc : BitVec 64) : Bool := assigned src && (match kind with
  | 1 => (hbmPlace s loc.toNat).any fun p => src == srcHbm p.stack
  | 2 => true
  | 3 => src / 4096 == 3 && src % 16 == 5
  | 4 => src / 4096 ≤ 2
  | 5 => 0x4000 ≤ src && src ≤ 0x4010
  | 6 => src / 4096 == 1
  | 7 => src == 0x4011
  | _ => false)

/-- A corrected error: one record, or a count while the buffer is full (R333, R334). -/
def correctError (src kind : Nat) (loc syn : BitVec 64) (s : State) : State := modHub (fun h =>
  let b := h.studBook
  if b.buffer.length < 1024 then { h with studBook := { b with buffer := studInsert (studRecord s src kind loc syn) b.buffer } }
  else { h with studBook := { b with missed := tset 0 b.missed src (tget 0 b.missed src + 1) } }) s

/-- The next one-time key: its counter reaches flash before the signature is released; where that write fails there is no signature (R323). -/
def sign (b : StudBook) (msg : List Byte) : StudBook × Option (List Byte) :=
  if b.keyBad then ({ b with keyBad := false }, none) else ({ b with lms := b.lms + 1 }, some (Config.signature (b.lms + 1) msg))

/-- Append a record to the open page; the 127th closes it with its chain word, and every 1,024th closed page is signed (R335). -/
def studAppend (b : StudBook) (r : BitVec 256) : StudBook :=
  let page := b.page ++ [r]
  if page.length < 127 then { b with page := page }
  else
    let chain := Sha.sha256 (Sha.digest b.chain ++ page.flatMap fun x => leBytes x.toNat 32)
    let b : StudBook := { b with page := [], closed := b.closed ++ [(page, chain)], chain := chain }
    if b.closed.length % 1024 = 0 then
      let r := sign b (Sha.digest chain)
      { r.1 with signed := r.1.signed ++ (r.2.map (fun x => (chain, x))).toList }
    else b

/-- STUD_BOOK_DRAIN (R334): the ring in the device memory of the system function drains to the log (DESIGN CHOICE: no rule gives that ring an address or a size, so it stands in the stud book and not in the bytes of device memory; log entry 81), and the buffer to the ring; then each unit that counted writes its KIND 8 record while the buffer has space, and the others keep their counts. -/
def execStudBookDrain (s : State) : Result :=
  let b := s.hub.studBook
  let b' := b.ring.foldl studAppend { b with ring := b.buffer, missed := b.missed.drop 1024 }
  let counts := (b.missed.take 1024).map fun p => studRecord s p.1 8 0 (.ofNat 64 p.2)
  .next (modHub (fun h => { h with studBook := { b' with buffer := counts.foldl (fun l r => studInsert r l) [] } }) s)

/-- SECURE_ERASE (R335): only a command that Azraica's root key signed clears the log; the chain restarts. -/
def execSecureErase (rootSigned : Bool) (s : State) : Result := when rootSigned (modHub fun h =>
  { h with studBook := { h.studBook with page := [], closed := [], chain := 0 } }) s

/-- ATTESTATION_REPORT (R323): its fields in the order in which the rule lists them, then the signature; the layout is the model's (log entry 8). -/
def execAttestationReport (nonce : BitVec 256) (s : State) : Result :=
  let blocks := ((List.range 17).filter (fEnabled s)).flatMap fun f => Sha.digest (Sha.sha256 (leBytes (tget 0 s.hub.funcs f).toNat 128))
  let body := Sha.digest nonce ++ leBytes s.tick.toNat 8 ++ leBytes s.hub.package.toNat 2 ++ [1]
    ++ Sha.digest (Config.measurement 0) ++ Sha.digest (Config.measurement 1) ++ blocks ++ Sha.digest s.hub.studBook.chain
  let r := sign s.hub.studBook body
  .next (modHub (fun h => { h with studBook := r.1, reports := h.reports ++ (r.2.map (body ++ ·)).toList }) s)

/-! ## Links (R375, R391) -/

/-- Port and lane of a link in LOC: lane in bits 7:0, port above (DESIGN CHOICE, log entry 16). -/
def linkLoc (port lane : Nat) : BitVec 64 := .ofNat 64 (lane % 256 + 256 * port)

/-- LINK_FLIT_RESEND (R391): a corrected error of KIND 5, on a fabric port or the CXL port, which is port 16. -/
def execLinkFlitResend (port lane : Nat) (syn : BitVec 64) (s : State) : Result :=
  when (port ≤ 16) (correctError (0x4000 + port) 5 (linkLoc port lane) syn) s

/-- The device bytes that a command writes: first byte and length. -/
def devWrites (s : State) (c : Nat) (m : Cmd) : List (Nat × Nat) :=
  let dev (l : List Span) : List (Nat × Nat) := (l.filter fun x => x.1 == 0).map fun x => (x.2.1, x.2.2)
  match m.op with
  | .cpy => if m.sub = 1 then dev (sideSpan s m (copySide m (word m.es 1) true) (bits (word m.es 2).toNat 31 0)) else []
  | .cpya => ((cpyaRuns m.es).drop m.runs).flatMap fun i => match cpyaSides s c m i with
      | .ok (some (_, b)) => dev (sideSpan s m b (bits (word m.es 2).toNat 31 0))
      | _ => []
  | .rmw => [(hBase m.h + m.ga.toNat, if m.sub.testBit 3 then 8 else 4)]
  | .splice => [(m.ga.toNat, 320)]
  | .pin => [(vslotPa m.ga.toNat (hdSlot (headAt s m.ga.toNat)), 32)]
  | .unpin => if m.sub = 1 then (ownerCtx s c m).pins.flatMap fun p => (vslots.filter fun j => vsVer (vslot s p.head j) == p.ver).map fun j => (vslotPa p.head j, 32) else (vslots.filter fun j => vsVer (vslot s m.ga.toNat j) == m.pinVer).map fun j => (vslotPa m.ga.toNat j, 32)
  | .enc => dev (sideSpan s m (.dev m.h2 (devOff (word m.es 1))) (codedTensor (bW m.b2) (bits (word m.es 2).toNat 47 24) (bits (word m.es 2).toNat 23 0)))
  | .cbrev => ((slotPa s m.func (bId m.ga) 0).map fun a => (a, 64)).toList
  | _ => []

/-- A record of a command is on its way to a queue of this package. -/
def recordOf (s : State) (c : Nat) (m : Cmd) : Option Inbound := s.hub.inbox.find? fun x => m.sends && x.cmd == m.id && x.sender == .ctx c (m.ctx % 4) m.task

/-- A request of a command is on its way: it is at work, or what it has sent has not arrived. -/
def inFlight (s : State) (c : Nat) (m : Cmd) : Bool := m.phase == .started || (m.phase == .sent && (match m.op with
  | .cpyw => (fabricDest s c m).isSome || (dataOf s m.id).isSome
  | .msg | .task => (fabricDest s c m).isSome || (recordOf s c m).isSome
  | _ => true))

/-- What a command has sent is lost: the bytes of a slot are undefined (R391), and a record leaves the way, with those behind it held back for their order (R143, R389). -/
def loseSent (c : Nat) (m : Cmd) (s : State) : State := match recordOf s c m with
  | some x => holdBack c m x.queue (takeInbound x s)
  | none => loseData m s

/-- The writes that are lost with a request: of a request to device memory those at its address, of a remote command all that it has still to perform (R375, R391). -/
def lostSpans (s : State) (c : Nat) (m : Cmd) (e : Cause) : List (Nat × Nat) :=
  (devWrites s c m).filter fun p => e.cls != 9 || (decide (p.1 ≤ e.addr.toNat) && decide (e.addr.toNat < p.1 + p.2))

/-- A request failed for good: a write leaves its bytes undefined (R375, R391; log entry 11), and the command is suspended. -/
def failRequest (c : Nat) (m : Cmd) (e : Cause) (s : State) : State :=
  suspendCmd c m e (loseSent c m ((lostSpans s c m e).foldl (fun s p => lostWrite p.1 p.2 s) s))

/-- The destination package of a command's request, where the manual gives it one (CODE 0x0006 of CLASS 0x08): of a send or a slot return that of the end that its ring's entry names. -/
def destPackage (s : State) (c : Nat) (m : Cmd) : BitVec 64 := match m.op with
  | .slotReturn => .ofNat 64 (rrPkg (rrEntry s m.func (qLink ((ownerCtx s c m).Q m.sub))))
  | .cpyw => .ofNat 64 (rrPkg (rrEntry s m.func (qLink ((ownerCtx s c m).Q (m.ring.getD 0)))))
  | .msg => .ofNat 64 (bits m.ga.toNat 19 8)
  | _ => Config.openAddr s.fresh &&& 0xFFF

/-- The physical address that a command's remote request names; a record or a ring slot has none, and the field is open (log entry 14). -/
def farAddress (s : State) (c : Nat) (m : Cmd) : BitVec 64 := match deviceByte s c m (2 ≤ ·) with
  | some a => .ofNat 64 a
  | none => Config.openAddr s.fresh

/-- END_TO_END_RETRY (R391): a retry that succeeds is a corrected error of KIND 6, whose syndrome the spec does not name and is a free value (R333; log entry 14); the third that fails suspends the command. -/
def execEndToEndRetry (c id : Nat) (ok : Bool) (s : State) : Result := atCore c (fun s => .next (match findCmd s c id with
  | none => s
  | some m =>
    if m.remote && inFlight s c m then
      if ok then correctError (srcEngine c m.unit) 6 (farAddress s c m) (Config.openSyndrome s.fresh) (State.bump <| setCmd c id (fun x => { x with retries := 0 }) s)
      else if 3 ≤ m.retries + 1 then failRequest c m { cls := 8, code := 6, addr := destPackage s c m } s
      else setCmd c id (fun x => { x with retries := x.retries + 1 }) s
    else s)) s

/-- A started command of core `c`, acted upon by its number. -/
def onStarted (c id : Nat) (g : Cmd → State → State) (s : State) : Result := atCore c (fun s => .next (match findCmd s c id with
  | none => s
  | some m => if m.phase == .started then g m s else s)) s

/-- A request of a started command to device memory of a tier ends with a cause at its address; a command that asks for nothing there goes on. -/
def endRequest (c : Nat) (tier : Nat → Bool) (code : Nat) (m : Cmd) (s : State) : State := match deviceByte s c m tier with
  | some a => failRequest c m { cls := 9, code := code, addr := .ofNat 64 a } s
  | none => s

/-- CXL_TIMEOUT (R375): a request to CXL memory that has no answer within 2 ms ends with CODE 0x0004. -/
def execCxlTimeout (c id : Nat) (s : State) : Result := onStarted c id (endRequest c (· == 2) 4) s

/-- A command sends a message over the hub and not to device memory alone: its flits' place, a port and lane, is open (log entry 14). -/
def Cmd.messages (m : Cmd) : Bool := m.phase == .sent || m.op == .msg || m.op == .task || m.op == .evsig || m.op == .pgalloc || m.op == .pgfree

/-- A command whose message goes to the stitch engine and may ask for no device byte. -/
def Cmd.stitchOnly (m : Cmd) : Bool := m.op == .share || (m.op == .unpin && m.sub == 1)

/-- The check of an on-chip or die-to-die flit of a request or message fails after its resend (R331, CODE 0x0005 of Table 22-6). -/
def flitError (c id : Nat) (s : State) : Result := atCore c (fun s => .next (match findCmd s c id with
  | some m =>
    if !inFlight s c m then s
    else if m.messages || (m.stitchOnly && (deviceByte s c m fun _ => true).isNone) then failRequest c m { cls := 9, code := 5, addr := Config.openAddr s.fresh } s.bump
    else endRequest c (fun _ => true) 5 m s
  | none => s)) s

/-- The home agent of host memory refuses an RMW (R365): the word is unchanged. -/
def homeRefuses (c id : Nat) (s : State) : Result := onStarted c id (fun m s =>
  if m.op = .rmw ∧ hTier m.h = 3 then suspendCmd c m { cls := 5, code := 6, addr := m.ga } s else s) s

/-- A page of a flash log that has not been appended yet is bad (R374). -/
def spoilFlash (key page : Nat) (s : State) : State :=
  let l := tget {} s.hub.logs key
  if page < l.pages ∧ !l.bad.contains page ∧ goodPage l.bad l.ptr l.bad.length ≤ page then
    modHub (fun h => { h with logs := tput h.logs key { l with bad := page :: l.bad } }) s
  else s

/-- A task of another package arrives at the level-5 barrier of a group (R321). -/
def peerArrives (key : Nat) (s : State) : State := modHub (fun h => { h with bgPeers := tput h.bgPeers key (tget 0 h.bgPeers key + 1) }) s

/-- LINK_DOWN (R375, R391): a fabric port, or the CXL port, which is port 16. -/
def execLinkDown (port : Nat) (s : State) : Result := when (port ≤ 16) (modHub fun h =>
  if port = 16 then { h with cxlDown := true, cxlRevoked := [] } else { h with portsDown := if h.portsDown.contains port then h.portsDown else port :: h.portsDown }) s

/-! ## Row throttling (R372) -/

/-- ROW_THROTTLE (R372). -/
def execRowThrottle (bank row : Nat) (s : State) : Result :=
  when (s.hub.rows.all fun r => !(r.1 == bank && r.2.1 == row)) (fun s => modHub (fun h => { h with rows := (bank, row, s.tick) :: h.rows }) s) s

/-- THROTTLE_RELEASE (R372): 200 ns after the throttle. -/
def execThrottleRelease (bank row : Nat) (s : State) : Result := .next (modHub (fun h =>
  { h with rows := h.rows.filter fun r => !(r.1 == bank && r.2.1 == row && decide (r.2.2.toNat + 200 ≤ s.tick.toNat)) }) s)

/-! ## The cluster window (R69, R136) -/

/-- WINDOW_ACCESS_PERFORM (R69): every due access of the cluster of a core performs, in the order of R136. -/
def execWindowAccessPerform (c : Nat) (s : State) : Result :=
  atCore c (fun s => .next (if isSupCore c then s else performDue (coresOf (c / 4)) s)) s

end Sys2Proof.Machine
end

