-- ==== Sys2Proof/Machine/Vector.lean ====
section
/-! DEFINITION. The meanings of the integer, floating-point, conversion, reduction and mask instructions of V0 and V1 (11_vector, R218 to R227). -/

namespace Sys2Proof.Machine

open Encoding (xa xb vsub src imm16 fmtWidth fmtCount cvtSrc casJ casK)

/-! ## How a vector operation writes (R218) -/

/-- The slot of a V syllable. -/
def vslotOf (o : VF) : Nat := if o.v1 then 2 else 1

/-- Is element `e` of section `sec` enabled (R162)? -/
def ven (o : VF) (s : State) (sec e : Nat) : Bool := (vguard o.guard s.ctx sec).getLsbD e

/-- Element `e` of a V register in a section, at width `w`. -/
def velt (s : State) (r : BitVec 5) (w sec e : Nat) : Nat := elt (s.ctx.V r.toNat sec) w e

/-- Results for a V register in every section: element `e` of width `w` takes `f sec e` where `en sec e` holds. -/
def vresults (vd w n : Nat) (en : Nat → Nat → Bool) (f : Nat → Nat → Nat) (l : Nat) : List Flight :=
  sections.flatMap fun sec => putSec (.v vd sec) (packE w (f sec) n) (maskE w (en sec) n) l

/-- Results for a mask register: bit `e` takes `f sec e` where `en sec e` holds for e < n; bits n to 63 clear in every section (R221). A write to M0 is discarded. -/
def mresults (md n : Nat) (en : Nat → Nat → Bool) (f : Nat → Nat → Bool) (l : Nat) : List Flight :=
  if md = 0 then []
  else sections.flatMap fun sec =>
    putSec (.m md sec) (packE 1 (fun e => if f sec e then 1 else 0) n) (maskE 1 (en sec) n + (2 ^ 64 - 2 ^ n)) l

/-- Some enabled element of the `n` of some section has the property. -/
def anyEn (n : Nat) (en : Nat → Nat → Bool) (p : Nat → Nat → Bool) : Bool :=
  sections.any fun sec => (List.range n).any fun e => en sec e && p sec e

/-- The number of a mask or W destination (R219). -/
def vd3 (o : VF) : Nat := o.vd.toNat % 8

/-- Issue an operation of V0 or V1 whose only effect is results in flight. -/
def vissue (o : VF) (fs : List Flight) (s : State) : Result := issueFlights (vslotOf o) true [] fs s

/-- Issue an elementwise operation on the operand elements a, b and c at the width of FMT (R220). -/
def velem (o : VF) (l : Nat) (f : Nat → Nat → Nat → Nat) (s : State) : Result :=
  let w := fmtWidth o.fmt.toNat
  let b (sec e : Nat) : Nat := if o.i then ((imm16 o).signExtend 32).toNat % 2 ^ w else velt s o.vb w sec e
  vissue o (vresults o.vd.toNat w (512 / w) (ven o s)
    (fun sec e => f (velt s o.va w sec e) (b sec e) (velt s o.vc w sec e)) l) s

/-- The code of an element that an instruction takes from one place and writes to another: a NaN becomes the canonical one of its format (R21). DEDUCED: the rows of VSEL, VMOV and WBLEND alone say 'bit for bit' (log entry 69). A PF16 code above 0x8000 reads as 1.0 and is written as 0x8000 (R27); the instructions of Table 11-1 raise no flag for it (R220). -/
def movedCode (fmt code : Nat) : Nat :=
  if [6, 7, 9, 10, 11].contains fmt && (elemVal fmt code).isNaN then (fmtOf fmt).canonNaN
  else if fmt = 12 then (pfRead code).1 else code

/-- Element `e` of a register, as an instruction that moves elements of format `fmt` writes it. -/
def melt (s : State) (fmt : Nat) (r : BitVec 5) (sec e : Nat) : Nat := movedCode fmt (velt s r (fmtWidth fmt) sec e)

/-! ## Integer elements (R220, R221) -/

/-- The signed integer formats of Table 8-3. -/
def fmtSigned (c : Nat) : Bool := c % 2 == 0

/-- The value of an element code of an integer format. -/
def intVal (fmt c : Nat) : Int := intOf (fmtWidth fmt) (fmtSigned fmt) c

/-- Issue an integer operation: the exact result is wrapped to the width (R220). -/
def vint (o : VF) (f : Int → Int → Int → Int) (s : State) : Result :=
  let c := o.fmt.toNat
  velem o 2 (fun x y z => wrapI (fmtWidth c) (f (intVal c x) (intVal c y) (intVal c z))) s

/-- Issue a shift: `f` takes the code, the width and the count mod w (R220). -/
def vshift (o : VF) (f : Nat → Nat → Nat → Nat) (s : State) : Result :=
  let w := fmtWidth o.fmt.toNat
  velem o 2 (fun x y _ => f x w (y % w)) s

/-- VMIN or VMAX: the integer order, or on floating formats the canonical NaN where either operand is NaN (R220). -/
def vminmax (mx : Bool) (o : VF) (s : State) : Result :=
  let c := o.fmt.toNat
  velem o 2 (fun x y _ =>
    if 6 ≤ c then
      (if (elemVal c x).isNaN || (elemVal c y).isNaN then (fmtOf c).canonNaN
        else minmaxCode mx (fmtOf c).canonNaN (elemVal c x) (elemVal c y) x y)
    else if (if mx then decide (intVal c x < intVal c y) else decide (intVal c y < intVal c x)) then y else x) s

/-- The conditions of VCMP (R221). -/
def vcond (sub : Nat) (a b : Int) : Bool := match sub with
  | 0 => a == b
  | 1 => a != b
  | 2 => a < b
  | _ => a ≤ b

/-- Issue a compare that writes a mask. -/
def vcompare (o : VF) (l : Nat) (cond : Nat → Nat → Bool) (s : State) : Result :=
  let w := fmtWidth o.fmt.toNat
  let b (sec e : Nat) : Nat := if o.i then ((imm16 o).signExtend 32).toNat % 2 ^ w else velt s o.vb w sec e
  vissue o (mresults (vd3 o) (512 / w) (ven o s) (fun sec e => cond (velt s o.va w sec e) (b sec e)) l) s

/-! ## Floating-point elements (R222, R31) -/

/-- Issue a floating operation rounded once by RNE of the element format (R31). -/
def vfp (o : VF) (f : Val → Val → Val → Val) (s : State) : Result :=
  let c := o.fmt.toNat
  velem o 4 (fun x y z => (round (fmtOf c) .rne (f (elemVal c x) (elemVal c y) (elemVal c z))).code) s

/-- VFMIN or VFMAX (R31). -/
def vfminmax (mx : Bool) (o : VF) (s : State) : Result :=
  let c := o.fmt.toNat
  velem o 4 (fun x y _ => minmaxCode mx (fmtOf c).canonNaN (elemVal c x) (elemVal c y) x y) s

/-! ## Conversion (R223, R224) -/

/-- The result of one conversion and the flags it raises. -/
structure Converted where
  code : Nat
  satur : Bool := false
  unenc : Bool := false
  pfrng : Bool := false
deriving DecidableEq, Repr

/-- PF16 of a value, NaN giving 0 with SATUR (R27, Table 11-2); the clamp sets no flag (Table 8-6). -/
def toPf16 (v : Val) : Converted :=
  { code := pf16Val v, satur := v.isNaN }

/-- Convert an element code from format `fs` to format `fd` in a rounding direction (Table 11-2). -/
def convert (fs fd : Nat) (m : RMode) (c : Nat) : Converted :=
  let p := pfRead c
  let v : Val := if fs < 6 then .ofInt (intVal fs c) else if fs = 12 then .fin false p.1 (-15) else elemVal fs c
  let bad := fs == 12 && p.2
  if fd = 8 then let r := toDs8 v; ⟨r.code, r.satur, r.unenc, bad⟩
  else if fd = 12 then { toPf16 v with pfrng := bad }
  else if fd < 6 then
    let r := if fs < 6 then satI (fmtWidth fd) (fmtSigned fd) (intVal fs c) else toInt (fmtWidth fd) (fmtSigned fd) (m == .rz) v
    ⟨r.code, r.satur, false, bad⟩
  else let r := round (fmtOf fd) m v; ⟨r.code, r.satur, false, bad⟩

/-- The rounding direction of a VCVT for a draw. -/
def cvtMode (r u : Nat) : RMode := if r = 1 then .rz else if r = 2 then .sr u else .rne

/-- The draw of element `e` of a section in VCVT.sr (R223, R232). -/
def cvtDraw (s : State) (sec e : Nat) : Nat :=
  if e < 16 then draw s.ctx.rseed s.ctx.rcnt s.coreId sec e else draw2 s.ctx.rseed s.ctx.rcnt s.coreId sec (e % 16)

/-- BCVT's scale exponent after the retries left: a block whose rounded elements pass the largest magnitude is halved (R36). -/
def bcvtScale (f : FFmt) (v : List Val) : Nat → Int → Int
  | 0, x => x
  | n + 1, x =>
    let past := v.any fun a => match a.scale (-x) with
      | .fin _ m e => m != 0 && (
          let num := if 0 ≤ e then m <<< e.toNat else m
          let den := if 0 ≤ e then 1 else 1 <<< (-e).toNat
          let u := ulpOf f num den
          beyond f (RMode.rne.choose (cut num den u) num den u) u)
      | _ => false
    if !past || x = 127 then x else bcvtScale f v n (x + 1)

/-- BCVT of 32 values: the element codes, the scale code and SATUR (R36). -/
def bcvt (f : FFmt) (v : List Val) : List Nat × Nat × Bool :=
  let amax := v.foldl (fun a x => if x.isFin && a.lt x.abs then x.abs else a) Val.zero
  let emax : Int := if f = .e4m3 then 8 else 15
  let x : Int := match amax with
    | .fin _ (m + 1) e => max (-127) (min 127 (e + Nat.log2 (m + 1) - emax))
    | _ => 0
  let x := bcvtScale f v 3 x
  let r := v.map fun a => round f .rne (a.scale (-x))
  (r.map (·.code), (x + 127).toNat, r.any (·.satur))

/-! ## Reductions and compare-and-swap (R225, R226) -/

/-- One level of the pairwise tree (R37). -/
def treeLevel (f : Nat → Nat → Nat) : List Nat → List Nat
  | a :: b :: t => f a b :: treeLevel f t
  | l => l

/-- The pairwise tree over the elements (R37). -/
def tree (f : Nat → Nat → Nat) : Nat → List Nat → Nat
  | 0, l => l.headD 0
  | n + 1, l => tree f n (treeLevel f l)

/-- The node of VRSUM (R37). -/
def sumNode (c x y : Nat) : Nat :=
  if c < 6 then (x + y) % 2 ^ fmtWidth c else (round (fmtOf c) .rne ((elemVal c x).add (elemVal c y))).code

/-- The node of VRMAX (R37). -/
def maxNode (c x y : Nat) : Nat :=
  if c < 6 then (if intVal c x < intVal c y then y else x)
  else minmaxCode true (fmtOf c).canonNaN (elemVal c x) (elemVal c y) x y

/-- Issue a reduction: element 0 takes the tree of all elements, the others 0. -/
def vreduce (node : Nat → Nat → Nat → Nat) (o : VF) (s : State) : Result :=
  let w := fmtWidth o.fmt.toNat
  let n := 512 / w
  vissue o (vresults o.vd.toNat w n (ven o s)
    (fun sec e => if e = 0 then tree (node o.fmt.toNat) (Nat.log2 n) ((List.range n).map (velt s o.va w sec)) else 0) 6) s

/-- The order of VCAS: key and companion codes (R226). -/
def precedes (desc : Bool) (c : Nat) (kx cx ky cy : Nat) : Bool :=
  if c < 6 then
    (if kx = ky then decide (cx < cy) else if desc then decide (intVal c ky < intVal c kx) else decide (intVal c kx < intVal c ky))
  else
    let x := elemVal c kx
    let y := elemVal c ky
    if x.isNaN then y.isNaN && cx < cy
    else if y.isNaN then true
    else if x.eqv y then decide (cx < cy) else if desc then y.lt x else x.lt y

/-- The element that position `e` takes in one stage (R226): itself or its partner. -/
def casPick (n j k : Nat) (before : Nat → Nat → Bool) (e : Nat) : Nat :=
  let lo := if e.testBit (Nat.log2 j) then e - j else e
  let hi := lo + j
  let first := if before lo hi then lo else if before hi lo then hi else lo
  let second := lo + hi - first
  let swap := k != 0 && lo &&& k != 0
  if n ≤ hi then e
  else if (e == lo) == swap then second else first

/-! ## The meanings -/

/-- VADD (R220). -/
def execVadd (o : VF) (s : State) : Result :=
  vint o (fun a b _ => a + b) s

/-- VSUB (R220). -/
def execVsub (o : VF) (s : State) : Result :=
  vint o (fun a b _ => a - b) s

/-- VMUL (R220). -/
def execVmul (o : VF) (s : State) : Result :=
  vint o (fun a b _ => a * b) s

/-- VMULH (R220). -/
def execVmulh (o : VF) (s : State) : Result :=
  vint o (fun a b _ => a * b / (2 ^ fmtWidth o.fmt.toNat : Nat)) s

/-- VMAC (R220). -/
def execVmac (o : VF) (s : State) : Result :=
  vint o (fun a b c => a * b + c) s

/-- VSHL (R220). -/
def execVshl (o : VF) (s : State) : Result :=
  vshift o (fun x w n => (x <<< n) % 2 ^ w) s

/-- VSHR (R220). -/
def execVshr (o : VF) (s : State) : Result :=
  vshift o (fun x _ n => x >>> n) s

/-- VSRA (R220). -/
def execVsra (o : VF) (s : State) : Result :=
  vshift o (fun x w n => wrapI w (intOf w true x / (2 ^ n : Nat))) s

/-- VAND (R220). -/
def execVand (o : VF) (s : State) : Result :=
  velem o 2 (fun x y _ => x &&& y) s

/-- VOR (R220). -/
def execVor (o : VF) (s : State) : Result :=
  velem o 2 (fun x y _ => x ||| y) s

/-- VXOR (R220). -/
def execVxor (o : VF) (s : State) : Result :=
  velem o 2 (fun x y _ => x ^^^ y) s

/-- VNOT (R220). -/
def execVnot (o : VF) (s : State) : Result :=
  velem o 2 (fun x _ _ => 2 ^ fmtWidth o.fmt.toNat - 1 - x) s

/-- VMIN (R220). -/
def execVmin (o : VF) (s : State) : Result :=
  vminmax false o s

/-- VMAX (R220). -/
def execVmax (o : VF) (s : State) : Result :=
  vminmax true o s

/-- VABS (R220). -/
def execVabs (o : VF) (s : State) : Result :=
  vint o (fun a _ _ => a.natAbs) s

/-- VNEG (R220). -/
def execVneg (o : VF) (s : State) : Result :=
  vint o (fun a _ _ => -a) s

/-- VCMP (R221). -/
def execVcmp (o : VF) (s : State) : Result :=
  vcompare o 2 (fun x y => vcond (vsub o) (intVal o.fmt.toNat x) (intVal o.fmt.toNat y)) s

/-- VSEL (R220). -/
def execVsel (o : VF) (s : State) : Result :=
  let w := fmtWidth o.fmt.toNat
  vissue o (vresults o.vd.toNat w (512 / w) (ven o s)
    (fun sec e => if (s.ctx.M (xa o) sec).getLsbD e then velt s o.va w sec e else velt s o.vb w sec e) 2) s

/-- VMOV (R220). -/
def execVmov (o : VF) (s : State) : Result :=
  velem o 2 (fun x _ _ => x) s

/-- VBCAST of an element (R220, R21; log entry 69). -/
def execVbcastElem (o : VF) (s : State) : Result :=
  let w := fmtWidth o.fmt.toNat
  vissue o (vresults o.vd.toNat w (512 / w) (ven o s) (fun sec _ => melt s o.fmt.toNat o.va sec ((imm16 o).toNat % 64)) 2) s

/-- VBCASTIMM (R220). -/
def execVbcastImm (o : VF) (s : State) : Result :=
  let w := fmtWidth o.fmt.toNat
  vissue o (vresults o.vd.toNat w (512 / w) (ven o s) (fun _ _ => ((imm16 o).signExtend 32).toNat) 2) s

/-- VBCASTHI (R220). -/
def execVbcastHi (o : VF) (s : State) : Result :=
  let w := fmtWidth o.fmt.toNat
  vissue o (vresults o.vd.toNat w (512 / w) (ven o s) (fun _ _ => (imm16 o).toNat * 2 ^ (w - 16)) 2) s

/-- VINS (R220, R21; log entry 69). -/
def execVins (o : VF) (s : State) : Result :=
  let w := fmtWidth o.fmt.toNat
  let k := (imm16 o).toNat % 64
  vissue o (vresults o.vd.toNat w (512 / w) (fun sec e => ven o s sec e && e == k) (fun sec _ => melt s o.fmt.toNat o.va sec 0) 2) s

/-- VEXT (R220, R21; log entry 69). -/
def execVext (o : VF) (s : State) : Result :=
  let w := fmtWidth o.fmt.toNat
  vissue o (vresults o.vd.toNat w (512 / w) (ven o s)
    (fun sec e => if e = 0 then melt s o.fmt.toNat o.va sec ((imm16 o).toNat % 64) else 0) 3) s

/-- VIOTA (R220). -/
def execViota (o : VF) (s : State) : Result :=
  let w := fmtWidth o.fmt.toNat
  vissue o (vresults o.vd.toNat w (512 / w) (ven o s) (fun _ e => ((imm16 o).signExtend 32).toNat + e) 2) s

/-- VFADD (R222). -/
def execVfadd (o : VF) (s : State) : Result :=
  vfp o (fun a b _ => a.add b) s

/-- VFSUB (R222). -/
def execVfsub (o : VF) (s : State) : Result :=
  vfp o (fun a b _ => a.sub b) s

/-- VFMUL (R222). -/
def execVfmul (o : VF) (s : State) : Result :=
  vfp o (fun a b _ => a.mul b) s

/-- VFMA (R222). -/
def execVfma (o : VF) (s : State) : Result :=
  vfp o (fun a b c => (a.mul b).add c) s

/-- VFMIN (R222). -/
def execVfmin (o : VF) (s : State) : Result :=
  vfminmax false o s

/-- VFMAX (R222). -/
def execVfmax (o : VF) (s : State) : Result :=
  vfminmax true o s

/-- VFCMP (R222). -/
def execVfcmp (o : VF) (s : State) : Result :=
  vcompare o 4 (fun x y => fpCond (vsub o) (elemVal o.fmt.toNat x) (elemVal o.fmt.toNat y)) s

/-- VCVT (R223). -/
def execVcvt (o : VF) (s : State) : Result :=
  let fs := cvtSrc o
  let fd := o.fmt.toNat
  let ws := fmtWidth fs
  let wd := fmtWidth fd
  let r := vsub o % 4
  let part := vsub o / 4 % 4
  let m := 512 / max ws wd
  let x (sec e : Nat) : Converted :=
    convert fs fd (cvtMode r (cvtDraw s sec e)) (velt s o.va ws sec (if ws < wd then part * m + e else e))
  let base := if ws < wd then 0 else part * m
  let inRun (e : Nat) : Bool := decide (base ≤ e) && decide (e < base + m)
  let fs := vresults o.vd.toNat wd (512 / wd) (fun sec e => inRun e && ven o s sec (e - base)) (fun sec e => (x sec (e - base)).code) 3
  issueCtx (vslotOf o) true [] (clashes s.ctx fs)
    (fun c =>
      let c := (((c.fly fs).flag fSATUR (anyEn m (ven o s) fun sec e => (x sec e).satur)).flag fUNENC
        (anyEn m (ven o s) fun sec e => (x sec e).unenc)).flag fPFRNG (anyEn m (ven o s) fun sec e => (x sec e).pfrng)
      if r = 2 then c.advanceRcnt else c) s

/-- VBCVT (R224, R36). -/
def execVbcvt (o : VF) (s : State) : Result :=
  let f := fmtOf o.fmt.toNat
  let r (sec : Nat) := bcvt f ((List.range 32).map fun i => val32 (if i < 16 then velt s o.va 32 sec i else velt s o.vb 32 sec (i - 16)))
  let on (sec : Nat) : Bool := ven o s sec 0
  let fs := vresults o.vd.toNat 8 64 (fun sec _ => on sec)
    (fun sec e => if e < 32 then (r sec).1.getD e 0 else if e = 32 then (r sec).2.1 else 0) 3
  issueCtx (vslotOf o) true [] (clashes s.ctx fs)
    (fun c => (c.fly fs).flag fSATUR (sections.any fun sec => on sec && (r sec).2.2)) s

/-- VRSUM (R225). -/
def execVrsum (o : VF) (s : State) : Result :=
  vreduce sumNode o s

/-- VRMAX (R225). -/
def execVrmax (o : VF) (s : State) : Result :=
  vreduce maxNode o s

/-- VCAS (R226): a NaN key that moves is canonical (R21; log entry 69), and a companion is a natural number of any bits. -/
def execVcas (o : VF) (s : State) : Result :=
  let w := fmtWidth o.fmt.toNat
  let n := 512 / w
  let key (sec e : Nat) := velt s o.va w sec e
  let comp (sec e : Nat) := velt s (o.va + 1) w sec e
  let pick (sec e : Nat) := casPick n (casJ o) (casK o)
    (fun x y => precedes (vsub o == 1) o.fmt.toNat (key sec x) (comp sec x) (key sec y) (comp sec y)) e
  vissue o (vresults o.vd.toNat w n (ven o s) (fun sec e => movedCode o.fmt.toNat (key sec (pick sec e))) 2
    ++ vresults (o.vd.toNat + 1) w n (ven o s) (fun sec e => comp sec (pick sec e)) 2) s

/-- MLOGIC (R227, R206). -/
def execMlogic (o : VF) (s : State) : Result :=
  vissue o (mresults (vd3 o) 64 (ven o s)
    (fun sec e => logicFn (vsub o) ((s.ctx.M (xa o) sec).getLsbD e) ((s.ctx.M (xb o) sec).getLsbD e)) 2) s

/-- MCNT (R227). -/
def execMcnt (o : VF) (s : State) : Result :=
  vissue o (vresults o.vd.toNat 32 16 (ven o s)
    (fun sec e => if e = 0 then popc (s.ctx.M (xa o) sec).toNat 64 else 0) 2) s

/-- MFIRST (R227). -/
def execMfirst (o : VF) (s : State) : Result :=
  vissue o (mresults (vd3 o) 64 (ven o s)
    (fun sec e => (s.ctx.M (xa o) sec &&& (0 - s.ctx.M (xa o) sec)).getLsbD e) 2) s

end Sys2Proof.Machine
end

