-- ==== Sys2Proof/Machine/Prob.lean ====
section
/-! DEFINITION. The meanings of the probability instructions, the special functions, VSTAT and VNEAR (11_vector, R228 to R238), and of the exchange instructions of the X slot (R239, R240). -/

namespace Sys2Proof.Machine

open Encoding (xa xb vsub src imm16 fmtWidth)

/-! ## W registers (R228) -/

/-- The code of lane `l` of a W register's section. -/
def lane (s : State) (r sec l : Nat) : Nat := ((s.ctx.W r sec).toNat >>> (16 * l)) % 65536

/-- The lineage of a W register's section. -/
def lineage (s : State) (r sec : Nat) : Nat := (s.ctx.W r sec).toNat >>> 256

/-- A lane as read: a code above 0x8000 reads as 1.0 (R27). -/
def laneRead (s : State) (r sec l : Nat) : Nat := (pfRead (lane s r sec l)).1

/-- Reading the lane sets PFRNG (R27). -/
def laneBad (s : State) (r sec l : Nat) : Bool := (pfRead (lane s r sec l)).2

/-- Results for a W register: enabled lanes take their codes; with all lanes enabled the lineage becomes `lin sec`, with some enabled it takes the new bits on top of the old ones (R228). -/
def wresults (wd : Nat) (en : Nat → Nat → Bool) (code : Nat → Nat → Nat) (lin : Nat → Nat) (l : Nat) : List Flight :=
  sections.flatMap fun sec =>
    let full := (List.range 16).all (en sec)
    let none_ := (List.range 16).all fun e => !en sec e
    if none_ then []
    else putSec (.w wd sec) (packE 16 (code sec) 16 + place (lin sec) 256 8)
      (maskE 16 (en sec) 16 + place (if full then 0xFF else lin sec) 256 8) l

/-- Issue an operation of V0 or V1 that puts results in flight and raises flags: PFRNG where `pf` holds of an enabled lane, PDEP where `pd` holds. -/
def wissue (o : VF) (fs : List Flight) (pf : Nat → Nat → Bool) (pd : Bool) (s : State) : Result :=
  issueCtx (vslotOf o) true [] (clashes s.ctx fs)
    (fun c => ((c.fly fs).flag fPFRNG (anyEn 16 (ven o s) pf)).flag fPDEP pd) s

/-- κ' of R228. -/
def kappa (s : State) : Val := match val32 s.ctx.tmpr.toNat with
  | .nan => .inf false
  | v => v.abs

/-- The conditions of WCMP. -/
def wcond (sub : Nat) (a b : Val) : Bool := match sub with
  | 0 => b.lt a
  | 1 => b.lt a || a.eqv b
  | 2 => a.lt b
  | _ => a.lt b || a.eqv b

/-- The fraction of WCMP before PF16 (R229). -/
def wcmpVal (sub : Nat) (k a b : Val) : Val :=
  let one : Val := .fin false 1 0
  let crisp : Val := if wcond sub a b then one else .zero
  if a.isNaN || b.isNaN then .zero
  else match k with
    | .fin _ m _ =>
      match rv32 (if sub < 2 then a.sub b else b.sub a) with
      | .nan => crisp
      | .inf neg => if neg then .zero else one
      | d => if m = 0 then .fin false 1 (-1) else (Val.fin false 1 (-1)).add (rv32 (d.mul k))
    | _ => crisp

/-- WAND or WOR: the product rules where the lineages do not meet, else min or max with PDEP (R230). -/
def wlogic (or_ : Bool) (o : VF) (s : State) : Result :=
  let a (sec l : Nat) := laneRead s (xa o) sec l
  let b (sec l : Nat) := laneRead s (xb o) sec l
  let indep (sec : Nat) : Bool := vsub o % 2 == 1 || (lineage s (xa o) sec &&& lineage s (xb o) sec) == 0
  let code (sec l : Nat) : Nat :=
    if indep sec then pf16 (if or_ then 32768 * (a sec l + b sec l : Nat) - (a sec l * b sec l : Nat) else (a sec l * b sec l : Nat)) (2 ^ 30)
    else if or_ then max (a sec l) (b sec l) else min (a sec l) (b sec l)
  wissue o (wresults (vd3 o) (ven o s) code (fun sec => lineage s (xa o) sec ||| lineage s (xb o) sec) 2)
    (fun sec l => laneBad s (xa o) sec l || laneBad s (xb o) sec l)
    (anyEn 16 (ven o s) fun sec _ => !indep sec) s

/-- Elements 0 to 15 of a V destination whose FMT has width `w` (R228). -/
def lanesOnly (o : VF) (s : State) (sec e : Nat) : Bool := e < 16 && ven o s sec e

/-- Issue a special function of V1 (R236). -/
def vspecial (fn : SFun) (o : VF) (s : State) : Result :=
  velem o 8 (fun x _ _ => special (fmtOf o.fmt.toNat) fn x) s

/-- Issue a VSTAT: the sections whose guard bit 0 holds update their entries at the end of the bundle (R237). -/
def vstat (lse : Bool) (o : VF) (s : State) : Result :=
  let l := (sections.filter fun sec => ven o s sec 0).map fun sec => (velt s o.vb 32 sec 0 % 16384, (lse, s.ctx.V o.va.toNat sec))
  issueCtx (vslotOf o) true [] [] (fun c => { c with vstat := c.vstat ++ l }) s

/-! ## Exchange (R239, R240, R351) -/

/-- Is element `e` of section `sec` enabled? -/
def xen (o : XF) (s : State) (sec e : Nat) : Bool := (vguard o.guard s.ctx sec).getLsbD e

/-- Results of an X operation at the width of FMT. -/
def xresults (o : XF) (s : State) (l : Nat) (f : Nat → Nat → Nat) : List Flight :=
  vresults o.vd.toNat (fmtWidth o.fmt.toNat) (512 / fmtWidth o.fmt.toNat) (xen o s) f l

/-- Issue an X operation that writes to element `e` of section `sec` the element code `raw sec e`, as it is moved (R21; log entry 69): an enabled element whose PF16 code lies above 0x8000 sets PFRNG (R27, R218). -/
def xmove (o : XF) (l : Nat) (causes : List Cause) (raw : Nat → Nat → Nat) (after : Context → Context) (s : State) : Result :=
  let fs := xresults o s l (fun sec e => movedCode o.fmt.toNat (raw sec e))
  let past := anyEn (512 / fmtWidth o.fmt.toNat) (xen o s) fun sec e => o.fmt == 12 && (pfRead (raw sec e)).2
  issueCtx 3 true [] (causes ++ clashes s.ctx fs) (fun c => after ((c.fly fs).flag fPFRNG past)) s

/-- Issue an X operation within the sections: element `e` of a section takes `f n sec e` of the elements. -/
def xlocal (o : XF) (f : Nat → (Nat → Nat → Nat) → (Nat → Nat → Nat) → Nat → Nat → Nat) (s : State) : Result :=
  let w := fmtWidth o.fmt.toNat
  xmove o 2 [] (f (512 / w) (velt s o.va w) (velt s o.vb w)) id s

/-- Issue an operation of the section network: the section that section `sec` reads is `from_ sec`; a transfer in the bundle directly after another is an exchange collision (R240, R351). -/
def xnetwork (o : XF) (causes : List Cause) (from_ : Nat → Nat) (s : State) : Result :=
  let w := fmtWidth o.fmt.toNat
  let used := anyEn (512 / w) (xen o s) fun _ _ => true
  xmove o 6 ((if used then causes else []) ++ chk (!(used && s.ctx.xlast)) 2 4 0) (fun sec e => velt s o.va w (from_ sec) e)
    (fun c => { c with xnow := c.xnow || used }) s

/-- Lane `l` of a pattern register. -/
def xpLane (s : State) (r : BitVec 4) (l : Nat) : Nat := bits (s.ctx.XP r.toNat).toNat (4 * l + 3) (4 * l)

/-! ## The meanings -/

/-- WCMP (R229). -/
def execWcmp (o : VF) (s : State) : Result :=
  let w := fmtWidth o.fmt.toNat
  let v (r : BitVec 5) (sec l : Nat) : Val := elemVal o.fmt.toNat (velt s r w sec l)
  vissue o (wresults (vd3 o) (ven o s) (fun sec l => pf16Val (wcmpVal (vsub o) (kappa s) (v o.va sec l) (v o.vb sec l)))
    (fun _ => 1 <<< src o) 3) s

/-- WAND (R230). -/
def execWand (o : VF) (s : State) : Result :=
  wlogic false o s

/-- WOR (R230). -/
def execWor (o : VF) (s : State) : Result :=
  wlogic true o s

/-- WNOT (R230). -/
def execWnot (o : VF) (s : State) : Result :=
  wissue o (wresults (vd3 o) (ven o s) (fun sec l => 32768 - laneRead s (xa o) sec l) (fun sec => lineage s (xa o) sec) 2)
    (laneBad s (xa o)) false s

/-- WBLEND (R231). -/
def execWblend (o : VF) (s : State) : Result :=
  let c := o.fmt.toNat
  let w := fmtWidth c
  let rnd (v : Val) : Nat := (round (fmtOf c) .rne v).code
  let out (sec l : Nat) : Nat :=
    let n := laneRead s (xa o) sec l
    let a := velt s o.va w sec l
    let b := velt s o.vb w sec l
    if n = 32768 then a else if n = 0 then b
    else
      let x := elemVal c (rnd ((Val.fin false n (-15)).mul (elemVal c a)))
      let y := elemVal c (rnd ((Val.fin false (32768 - n) (-15)).mul (elemVal c b)))
      rnd (x.add y)
  wissue o (vresults o.vd.toNat w (512 / w) (lanesOnly o s) out 4) (laneBad s (xa o)) false s

/-- WCOLL (R232). -/
def execWcoll (o : VF) (s : State) : Result :=
  let take (sec l : Nat) : Bool := draw s.ctx.rseed s.ctx.rcnt s.coreId sec l < laneRead s (xa o) sec l
  let fs := mresults (vd3 o) 16 (ven o s) take 3
  issueCtx (vslotOf o) true [] (clashes s.ctx fs)
    (fun c => ((c.fly fs).flag fPFRNG (anyEn 16 (ven o s) (laneBad s (xa o)))).advanceRcnt) s

/-- WGRADCMP (R233). -/
def execWgradCmp (o : VF) (s : State) : Result :=
  let k := s.ctx.tmpr.toNat % 2 ^ 31
  let fin := (kappa s).isFin
  wissue o (vresults o.vd.toNat 32 16 (ven o s)
    (fun sec l => if fin && 0 < laneRead s (xa o) sec l && laneRead s (xa o) sec l < 32768 then k else 0) 3) (laneBad s (xa o)) false s

/-- WGRADBLEND (R233). -/
def execWgradBlend (o : VF) (s : State) : Result :=
  vissue o (vresults o.vd.toNat 32 16 (ven o s) (fun sec l => rne32 ((val32 (velt s o.va 32 sec l)).sub (val32 (velt s o.vb 32 sec l)))) 3) s

/-- WGRADCOLL (R233). -/
def execWgradColl (o : VF) (s : State) : Result :=
  vissue o (vresults o.vd.toNat 32 16 (ven o s) (fun _ _ => 0x3F800000) 3) s

/-- WSET (R234). -/
def execWset (o : VF) (s : State) : Result :=
  wissue o (wresults (vd3 o) (ven o s) (fun sec l => (pfRead (velt s o.va 16 sec l)).1) (fun _ => (imm16 o).toNat % 256) 2)
    (fun sec l => (pfRead (velt s o.va 16 sec l)).2) false s

/-- WGET (R234). -/
def execWget (o : VF) (s : State) : Result :=
  wissue o (vresults o.vd.toNat 16 32 (ven o s)
    (fun sec e => if e < 16 then laneRead s (xa o) sec e else if e = 16 then lineage s (xa o) sec else 0) 2) (laneBad s (xa o)) false s

/-- WLIN (R234). -/
def execWlin (o : VF) (s : State) : Result :=
  wissue o (wresults (vd3 o) (ven o s) (laneRead s (xa o)) (fun _ => 1 <<< src o) 2) (laneBad s (xa o)) false s

/-- VEXP2 (R236). -/
def execVexp2 (o : VF) (s : State) : Result :=
  vspecial .exp2 o s

/-- VLOG2 (R236). -/
def execVlog2 (o : VF) (s : State) : Result :=
  vspecial .log2 o s

/-- VRCP (R236). -/
def execVrcp (o : VF) (s : State) : Result :=
  vspecial .rcp o s

/-- VRSQ (R236). -/
def execVrsq (o : VF) (s : State) : Result :=
  vspecial .rsq o s

/-- VTANH (R236). -/
def execVtanh (o : VF) (s : State) : Result :=
  vspecial .tanh o s

/-- VSTATNORM (R237). -/
def execVstatNorm (o : VF) (s : State) : Result :=
  vstat false o s

/-- VSTATLSE (R237). -/
def execVstatLse (o : VF) (s : State) : Result :=
  vstat true o s

/-- VNEAR (R238, R57). DESIGN CHOICE (log entry 59): where the guard enables no element the binding is not judged (R162, R341). -/
def execVnear (o : VF) (s : State) : Result :=
  let b := s.ctx.B (xa o)
  let c := o.fmt.toNat
  let w := fmtWidth c
  let dd := bD b
  let g := 512 / w / dd
  let qs := (bookAt s s.coreId b).rounded
  let r (sec i : Nat) : Nat × Bool := search qs ((List.range dd).map fun j => elemVal c (velt s o.va w sec (i * dd + j)))
  let fs := (vresults o.vd.toNat 16 32 (ven o s) (fun sec e => if e < g then (r sec e).1 else 0) (8 + (bK b * dd + 15) / 16)).map
    fun f => { f with via := b }
  let used := anyEn 32 (ven o s) fun _ _ => true
  issueCtx (vslotOf o) true []
    (if !used then [] else if bValid b then arrayCause s b ++ clashes s.ctx fs
      else [{ cls := 1, code := 0xD, addr := encode (.vnear o), info := .ofNat 32 (xa o) }])
    (fun c => (c.fly fs).flag fUNENC (anyEn g (ven o s) fun sec i => (r sec i).2)) s

/-- XPERM (R239). -/
def execXperm (o : XF) (s : State) : Result :=
  let w := fmtWidth o.fmt.toNat
  let per := 32 / w
  xmove o 2 [] (fun sec e => velt s o.va w sec (xpLane s o.xp (e / per) * per + e % per)) id s

/-- XROT (R239). -/
def execXrot (o : XF) (s : State) : Result :=
  xlocal o (fun n a _ sec e => a sec ((e + o.imm.toNat) % n)) s

/-- XSHIFT (R239). -/
def execXshift (o : XF) (s : State) : Result :=
  xlocal o (fun n a b sec e => let i := e + o.imm.toNat; if i < n then a sec i else b sec (i - n)) s

/-- XBCAST (R239, R240). -/
def execXbcast (o : XF) (s : State) : Result :=
  xnetwork o [] (fun _ => o.imm.toNat) s

/-- XSEC (R239, R240, R355). DESIGN CHOICE (log entry 59): where the guard enables no element the pattern is not judged (R162, R341). -/
def execXsec (o : XF) (s : State) : Result :=
  xnetwork o (chk ((List.range 8).all fun l => xpLane s o.xp l < 8) 1 0xC (encode (.xsec o)) (Dest.xp o.xp.toNat).word.toNat)
    (xpLane s o.xp) s

/-- XZIP (R239). -/
def execXzip (o : XF) (s : State) : Result :=
  xlocal o (fun n a b sec e => (if e % 2 = 0 then a else b) sec (o.imm.toNat * (n / 2) + e / 2)) s

/-- XUNZIP (R239). -/
def execXunzip (o : XF) (s : State) : Result :=
  xlocal o (fun n a b sec e => let i := 2 * e + o.imm.toNat; if i < n then a sec i else b sec (i - n)) s

/-- XREV (R239). -/
def execXrev (o : XF) (s : State) : Result :=
  xlocal o (fun n a _ sec e => a sec (n - 1 - e)) s

end Sys2Proof.Machine
end

