-- ==== Sys2Proof/Machine/Dispatch.lean ====
section
/-! DEFINITION. The dispatch of every constructor of `Instr` to its meaning. -/

namespace Sys2Proof.Machine

/-- What an instruction or a step of the part does. -/
def exec (i : Instr) (s : State) : Host.Outcome State Fault Refusal :=
  match i with
  | .nop o => Sys2Proof.Machine.execNop o s
  | .add o => Sys2Proof.Machine.execAdd o s
  | .addi o => Sys2Proof.Machine.execAddi o s
  | .sub o => Sys2Proof.Machine.execSub o s
  | .mul o => Sys2Proof.Machine.execMul o s
  | .mulh o => Sys2Proof.Machine.execMulh o s
  | .mulhx o => Sys2Proof.Machine.execMulhx o s
  | .div o => Sys2Proof.Machine.execDiv o s
  | .divx o => Sys2Proof.Machine.execDivx o s
  | .rem o => Sys2Proof.Machine.execRem o s
  | .remx o => Sys2Proof.Machine.execRemx o s
  | .and o => Sys2Proof.Machine.execAnd o s
  | .andi o => Sys2Proof.Machine.execAndi o s
  | .or o => Sys2Proof.Machine.execOr o s
  | .ori o => Sys2Proof.Machine.execOri o s
  | .xor o => Sys2Proof.Machine.execXor o s
  | .xori o => Sys2Proof.Machine.execXori o s
  | .shl o => Sys2Proof.Machine.execShl o s
  | .shli o => Sys2Proof.Machine.execShli o s
  | .shr o => Sys2Proof.Machine.execShr o s
  | .shri o => Sys2Proof.Machine.execShri o s
  | .sra o => Sys2Proof.Machine.execSra o s
  | .srai o => Sys2Proof.Machine.execSrai o s
  | .min o => Sys2Proof.Machine.execMin o s
  | .max o => Sys2Proof.Machine.execMax o s
  | .minx o => Sys2Proof.Machine.execMinx o s
  | .maxx o => Sys2Proof.Machine.execMaxx o s
  | .clz o => Sys2Proof.Machine.execClz o s
  | .popc o => Sys2Proof.Machine.execPopc o s
  | .li o => Sys2Proof.Machine.execLi o s
  | .lih o => Sys2Proof.Machine.execLih o s
  | .selPred o => Sys2Proof.Machine.execSelPred o s
  | .selBits o => Sys2Proof.Machine.execSelBits o s
  | .cmp o => Sys2Proof.Machine.execCmp o s
  | .cmpi o => Sys2Proof.Machine.execCmpi o s
  | .plogic o => Sys2Proof.Machine.execPlogic o s
  | .fadd o => Sys2Proof.Machine.execFadd o s
  | .fsub o => Sys2Proof.Machine.execFsub o s
  | .fmul o => Sys2Proof.Machine.execFmul o s
  | .ffma o => Sys2Proof.Machine.execFfma o s
  | .fmin o => Sys2Proof.Machine.execFmin o s
  | .fmax o => Sys2Proof.Machine.execFmax o s
  | .fcmp o => Sys2Proof.Machine.execFcmp o s
  | .fcvt o => Sys2Proof.Machine.execFcvt o s
  | .br o => Sys2Proof.Machine.execBr o s
  | .brl o => Sys2Proof.Machine.execBrl o s
  | .jr o => Sys2Proof.Machine.execJr o s
  | .loop o => Sys2Proof.Machine.execLoop o s
  | .exit o => Sys2Proof.Machine.execExit o s
  | .yield o => Sys2Proof.Machine.execYield o s
  | .srd o => Sys2Proof.Machine.execSrd o s
  | .swr o => Sys2Proof.Machine.execSwr o s
  | .stg o => Sys2Proof.Machine.execStg o s
  | .tset o => Sys2Proof.Machine.execTset o s
  | .xpset o => Sys2Proof.Machine.execXpset o s
  | .svc o => Sys2Proof.Machine.execSvc o s
  | .tick o => Sys2Proof.Machine.execTick o s
  | .hint o => Sys2Proof.Machine.execHint o s
  | .vadd o => Sys2Proof.Machine.execVadd o s
  | .vsub o => Sys2Proof.Machine.execVsub o s
  | .vmul o => Sys2Proof.Machine.execVmul o s
  | .vmulh o => Sys2Proof.Machine.execVmulh o s
  | .vmac o => Sys2Proof.Machine.execVmac o s
  | .vshl o => Sys2Proof.Machine.execVshl o s
  | .vshr o => Sys2Proof.Machine.execVshr o s
  | .vsra o => Sys2Proof.Machine.execVsra o s
  | .vand o => Sys2Proof.Machine.execVand o s
  | .vor o => Sys2Proof.Machine.execVor o s
  | .vxor o => Sys2Proof.Machine.execVxor o s
  | .vnot o => Sys2Proof.Machine.execVnot o s
  | .vmin o => Sys2Proof.Machine.execVmin o s
  | .vmax o => Sys2Proof.Machine.execVmax o s
  | .vabs o => Sys2Proof.Machine.execVabs o s
  | .vneg o => Sys2Proof.Machine.execVneg o s
  | .vcmp o => Sys2Proof.Machine.execVcmp o s
  | .vsel o => Sys2Proof.Machine.execVsel o s
  | .vmov o => Sys2Proof.Machine.execVmov o s
  | .vbcastElem o => Sys2Proof.Machine.execVbcastElem o s
  | .vbcastImm o => Sys2Proof.Machine.execVbcastImm o s
  | .vbcastHi o => Sys2Proof.Machine.execVbcastHi o s
  | .vins o => Sys2Proof.Machine.execVins o s
  | .vext o => Sys2Proof.Machine.execVext o s
  | .viota o => Sys2Proof.Machine.execViota o s
  | .vfadd o => Sys2Proof.Machine.execVfadd o s
  | .vfsub o => Sys2Proof.Machine.execVfsub o s
  | .vfmul o => Sys2Proof.Machine.execVfmul o s
  | .vfma o => Sys2Proof.Machine.execVfma o s
  | .vfmin o => Sys2Proof.Machine.execVfmin o s
  | .vfmax o => Sys2Proof.Machine.execVfmax o s
  | .vfcmp o => Sys2Proof.Machine.execVfcmp o s
  | .vcvt o => Sys2Proof.Machine.execVcvt o s
  | .vbcvt o => Sys2Proof.Machine.execVbcvt o s
  | .vrsum o => Sys2Proof.Machine.execVrsum o s
  | .vrmax o => Sys2Proof.Machine.execVrmax o s
  | .vcas o => Sys2Proof.Machine.execVcas o s
  | .mlogic o => Sys2Proof.Machine.execMlogic o s
  | .mcnt o => Sys2Proof.Machine.execMcnt o s
  | .mfirst o => Sys2Proof.Machine.execMfirst o s
  | .wcmp o => Sys2Proof.Machine.execWcmp o s
  | .wand o => Sys2Proof.Machine.execWand o s
  | .wor o => Sys2Proof.Machine.execWor o s
  | .wnot o => Sys2Proof.Machine.execWnot o s
  | .wblend o => Sys2Proof.Machine.execWblend o s
  | .wcoll o => Sys2Proof.Machine.execWcoll o s
  | .wgradCmp o => Sys2Proof.Machine.execWgradCmp o s
  | .wgradBlend o => Sys2Proof.Machine.execWgradBlend o s
  | .wgradColl o => Sys2Proof.Machine.execWgradColl o s
  | .wset o => Sys2Proof.Machine.execWset o s
  | .wget o => Sys2Proof.Machine.execWget o s
  | .wlin o => Sys2Proof.Machine.execWlin o s
  | .vexp2 o => Sys2Proof.Machine.execVexp2 o s
  | .vlog2 o => Sys2Proof.Machine.execVlog2 o s
  | .vrcp o => Sys2Proof.Machine.execVrcp o s
  | .vrsq o => Sys2Proof.Machine.execVrsq o s
  | .vtanh o => Sys2Proof.Machine.execVtanh o s
  | .vstatNorm o => Sys2Proof.Machine.execVstatNorm o s
  | .vstatLse o => Sys2Proof.Machine.execVstatLse o s
  | .vnear o => Sys2Proof.Machine.execVnear o s
  | .xperm o => Sys2Proof.Machine.execXperm o s
  | .xrot o => Sys2Proof.Machine.execXrot o s
  | .xshift o => Sys2Proof.Machine.execXshift o s
  | .xbcast o => Sys2Proof.Machine.execXbcast o s
  | .xsec o => Sys2Proof.Machine.execXsec o s
  | .xzip o => Sys2Proof.Machine.execXzip o s
  | .xunzip o => Sys2Proof.Machine.execXunzip o s
  | .xrev o => Sys2Proof.Machine.execXrev o s
  | .mzero o => Sys2Proof.Machine.execMzero o s
  | .mop o => Sys2Proof.Machine.execMop o s
  | .mpart o => Sys2Proof.Machine.execMpart o s
  | .mlut o => Sys2Proof.Machine.execMlut o s
  | .mlut2 o => Sys2Proof.Machine.execMlut2 o s
  | .mscl o => Sys2Proof.Machine.execMscl o s
  | .mrd o => Sys2Proof.Machine.execMrd o s
  | .mwr o => Sys2Proof.Machine.execMwr o s
  | .mpeak o => Sys2Proof.Machine.execMpeak o s
  | .mpeakSettle o => Sys2Proof.Machine.execMpeakSettle o s
  | .mopt o => Sys2Proof.Machine.execMopt o s
  | .mxfer o => Sys2Proof.Machine.execMxfer o s
  | .mwait o => Sys2Proof.Machine.execMwait o s
  | .matrixOpStart c => Sys2Proof.Machine.execMatrixOpStart c s
  | .matrixOpLand c => Sys2Proof.Machine.execMatrixOpLand c s
  | .lds o => Sys2Proof.Machine.execLds o s
  | .ldv o => Sys2Proof.Machine.execLdv o s
  | .ldvx o => Sys2Proof.Machine.execLdvx o s
  | .ldt o => Sys2Proof.Machine.execLdt o s
  | .ldtRing o => Sys2Proof.Machine.execLdtRing o s
  | .ldq o => Sys2Proof.Machine.execLdq o s
  | .ldc o => Sys2Proof.Machine.execLdc o s
  | .ldw o => Sys2Proof.Machine.execLdw o s
  | .ldm o => Sys2Proof.Machine.execLdm o s
  | .ldstat o => Sys2Proof.Machine.execLdstat o s
  | .probe o => Sys2Proof.Machine.execProbe o s
  | .probeFill o => Sys2Proof.Machine.execProbeFill o s
  | .sts o => Sys2Proof.Machine.execSts o s
  | .stv o => Sys2Proof.Machine.execStv o s
  | .stvx o => Sys2Proof.Machine.execStvx o s
  | .stt o => Sys2Proof.Machine.execStt o s
  | .stq o => Sys2Proof.Machine.execStq o s
  | .stc o => Sys2Proof.Machine.execStc o s
  | .stw o => Sys2Proof.Machine.execStw o s
  | .stm o => Sys2Proof.Machine.execStm o s
  | .atom o => Sys2Proof.Machine.execAtom o s
  | .tagw o => Sys2Proof.Machine.execTagw o s
  | .cpy o => Sys2Proof.Machine.execCpy o s
  | .cpya o => Sys2Proof.Machine.execCpya o s
  | .cpyw o => Sys2Proof.Machine.execCpyw o s
  | .enc o => Sys2Proof.Machine.execEnc o s
  | .cbindPin o => Sys2Proof.Machine.execCbindPin o s
  | .cbindFloat o => Sys2Proof.Machine.execCbindFloat o s
  | .cbrev o => Sys2Proof.Machine.execCbrev o s
  | .cbret o => Sys2Proof.Machine.execCbret o s
  | .splice o => Sys2Proof.Machine.execSplice o s
  | .spliceTrap o => Sys2Proof.Machine.execSpliceTrap o s
  | .pin o => Sys2Proof.Machine.execPin o s
  | .unpin o => Sys2Proof.Machine.execUnpin o s
  | .share o => Sys2Proof.Machine.execShare o s
  | .pgalloc o => Sys2Proof.Machine.execPgalloc o s
  | .pgfree o => Sys2Proof.Machine.execPgfree o s
  | .xlat o => Sys2Proof.Machine.execXlat o s
  | .hrel o => Sys2Proof.Machine.execHrel o s
  | .advProd o => Sys2Proof.Machine.execAdvProd o s
  | .advCons o => Sys2Proof.Machine.execAdvCons o s
  | .ringset o => Sys2Proof.Machine.execRingset o s
  | .msg o => Sys2Proof.Machine.execMsg o s
  | .task o => Sys2Proof.Machine.execTask o s
  | .evsig o => Sys2Proof.Machine.execEvsig o s
  | .evwait o => Sys2Proof.Machine.execEvwait o s
  | .bar o => Sys2Proof.Machine.execBar o s
  | .sync o => Sys2Proof.Machine.execSync o s
  | .fence o => Sys2Proof.Machine.execFence o s
  | .drain o => Sys2Proof.Machine.execDrain o s
  | .step o => Sys2Proof.Machine.execStep o s
  | .twait o => Sys2Proof.Machine.execTwait o s
  | .flapp o => Sys2Proof.Machine.execFlapp o s
  | .rmw o => Sys2Proof.Machine.execRmw o s
  | .resultLands c k => Sys2Proof.Machine.execResultLands c k s
  | .engineCommandStart c e => Sys2Proof.Machine.execEngineCommandStart c e s
  | .timedCommandStart c e => Sys2Proof.Machine.execTimedCommandStart c e s
  | .engineCompletion c id => Sys2Proof.Machine.execEngineCompletion c id s
  | .cbindArrayLands c id => Sys2Proof.Machine.execCbindArrayLands c id s
  | .cbrevPublish c id => Sys2Proof.Machine.execCbrevPublish c id s
  | .encComplete c id => Sys2Proof.Machine.execEncComplete c id s
  | .splicePerform c id => Sys2Proof.Machine.execSplicePerform c id s
  | .pinPerform c id => Sys2Proof.Machine.execPinPerform c id s
  | .unpinDrop c id => Sys2Proof.Machine.execUnpinDrop c id s
  | .pgallocPageTaken c id => Sys2Proof.Machine.execPgallocPageTaken c id s
  | .scrubStart pfn => Sys2Proof.Machine.execScrubStart pfn s
  | .scrubDone pfn => Sys2Proof.Machine.execScrubDone pfn s
  | .scrubLineClear pfn line => Sys2Proof.Machine.execScrubLineClear pfn line s
  | .probeFillLands c id => Sys2Proof.Machine.execProbeFillLands c id s
  | .pageWalkDone c k => Sys2Proof.Machine.execPageWalkDone c k s
  | .icacheFill c k => Sys2Proof.Machine.execIcacheFill c k s
  | .mtagRevoke f tag => Sys2Proof.Machine.execMtagRevoke f tag s
  | .revokeDone f tag => Sys2Proof.Machine.execRevokeDone f tag s
  | .pageEvict f va => Sys2Proof.Machine.execPageEvict f va s
  | .pageExpand f va c k => Sys2Proof.Machine.execPageExpand f va c k s
  | .logErase f log => Sys2Proof.Machine.execLogErase f log s
  | .svcReply die reply => Sys2Proof.Machine.execSvcReply die reply s
  | .remoteDataArrive f link data => Sys2Proof.Machine.execRemoteDataArrive f link data s
  | .remoteSendAccept f link => Sys2Proof.Machine.execRemoteSendAccept f link s
  | .slotReturnArrive f link => Sys2Proof.Machine.execSlotReturnArrive f link s
  | .launchRecordWrite q r => Sys2Proof.Machine.execLaunchRecordWrite q r s
  | .queueRecordAccept q => Sys2Proof.Machine.execQueueRecordAccept q s
  | .negativeAcknowledgement q => Sys2Proof.Machine.execNegativeAcknowledgement q s
  | .replay c k q => Sys2Proof.Machine.execReplay c k q s
  | .dispatch => Sys2Proof.Machine.execDispatch s
  | .contextSwitch c => Sys2Proof.Machine.execContextSwitch c s
  | .agingSwitch c => Sys2Proof.Machine.execAgingSwitch c s
  | .teamResume t => Sys2Proof.Machine.execTeamResume t s
  | .barRelease c k => Sys2Proof.Machine.execBarRelease c k s
  | .stepRelease c k => Sys2Proof.Machine.execStepRelease c k s
  | .bindingReloadLands c k => Sys2Proof.Machine.execBindingReloadLands c k s
  | .syncRelease c k => Sys2Proof.Machine.execSyncRelease c k s
  | .preemptSave c k => Sys2Proof.Machine.execPreemptSave c k s
  | .contextRestore c k => Sys2Proof.Machine.execContextRestore c k s
  | .taskComplete t => Sys2Proof.Machine.execTaskComplete t s
  | .graphLaunchNode g n => Sys2Proof.Machine.execGraphLaunchNode g n s
  | .graphIfNode g n => Sys2Proof.Machine.execGraphIfNode g n s
  | .graphWhileNode g n => Sys2Proof.Machine.execGraphWhileNode g n s
  | .graphSwitchNode g n => Sys2Proof.Machine.execGraphSwitchNode g n s
  | .graphJoinNode g n => Sys2Proof.Machine.execGraphJoinNode g n s
  | .supervisorResume c k => Sys2Proof.Machine.execSupervisorResume c k s
  | .saveFaulted c k => Sys2Proof.Machine.execSaveFaulted c k s
  | .abandonTask t => Sys2Proof.Machine.execAbandonTask t s
  | .resumeCommand c id => Sys2Proof.Machine.execResumeCommand c id s
  | .discardCommand c id => Sys2Proof.Machine.execDiscardCommand c id s
  | .functionEnable f blk => Sys2Proof.Machine.execFunctionEnable f blk s
  | .functionUpdate f blk => Sys2Proof.Machine.execFunctionUpdate f blk s
  | .functionReset f => Sys2Proof.Machine.execFunctionReset f s
  | .queueConfigWrite q w => Sys2Proof.Machine.execQueueConfigWrite q w s
  | .remoteRingEntryWrite f e w => Sys2Proof.Machine.execRemoteRingEntryWrite f e w s
  | .managementWrite m => Sys2Proof.Machine.execManagementWrite m s
  | .packageReset failStep cause => Sys2Proof.Machine.execPackageReset failStep cause s
  | .alignFlitSend => Sys2Proof.Machine.execAlignFlitSend s
  | .alignFlitReceive rootTick steps => Sys2Proof.Machine.execAlignFlitReceive rootTick steps s
  | .alignTimeout => Sys2Proof.Machine.execAlignTimeout s
  | .alignRejoin => Sys2Proof.Machine.execAlignRejoin s
  | .linkFlitResend port lane syn => Sys2Proof.Machine.execLinkFlitResend port lane syn s
  | .endToEndRetry c id ok => Sys2Proof.Machine.execEndToEndRetry c id ok s
  | .cxlTimeout c id => Sys2Proof.Machine.execCxlTimeout c id s
  | .rowThrottle bank row => Sys2Proof.Machine.execRowThrottle bank row s
  | .throttleRelease bank row => Sys2Proof.Machine.execThrottleRelease bank row s
  | .studBookDrain => Sys2Proof.Machine.execStudBookDrain s
  | .secureErase rootSigned => Sys2Proof.Machine.execSecureErase rootSigned s
  | .windowAccessPerform c => Sys2Proof.Machine.execWindowAccessPerform c s
  | .attestationReport nonce => Sys2Proof.Machine.execAttestationReport nonce s
  | .linkDown port => Sys2Proof.Machine.execLinkDown port s

end Sys2Proof.Machine
end

