-- ==== Sys2Proof/Machine/Issue.lean ====
section
/-! DEFINITION. The issue of a bundle: fetch, the decode checks, the waits, the issue checks, the effects of its slots and its commit (R104, R105, R134, R325, R338, R339); and the lock-step of a team (R107, R108). -/

namespace Sys2Proof.Machine

/-- One slot of a bundle: its tag, its syllable and its instruction. -/
structure SlotOp where
  slot : Nat
  word : Word
  instr : Instr
deriving DecidableEq, Repr

/-- What became of the attempt to issue a bundle. -/
inductive Try where
  | commit (s : State)
  | hold (b : Block)
  | bad (c : Cause)
  | stop (r : Result)
deriving Repr

/-! ## Decode checks (R338, R353) -/

/-- The causes of a bundle's slots at decode. Two decode checks read registers: the table accumulator of MLUT2 (R288), and the privilege of a TAGW (R353), by its slot number (R338). -/
def decodeCauses (s : State) (ws : List Word) : List (Option Nat × Cause) :=
  ws.filterMap fun w => (match decodeCause s.ctx.supv w, decodeSyll w with
    | some c, _ => some c
    | none, .ok (.mlut2 o) => tableCause w o (landDue s)
    | none, .ok (.tagw o) => (supSlot (landDue s) (effAddr o (landDue s).ctx)).head?
    | none, _ => none).map fun c => (some (tagOf w).toNat, c)

/-- The slots of a bundle that decode. -/
def slotOps (ws : List Word) : List SlotOp :=
  ws.filterMap fun w => match decodeSyll w with
    | .ok i => some ⟨(tagOf w).toNat, w, i⟩
    | .bad _ _ => none

/-- The fault of a bundle from the causes of its slots, in tag order; `none` stands for a check with no slot (R339). -/
def bundleCause (l : List (Option Nat × Cause)) : Option Cause :=
  let r := l.foldl (fun m p => min m (classRank p.2.cls)) 11
  match l.filter fun p => classRank p.2.cls == r with
  | [] => none
  | p :: t => some { p.2 with slots := (p :: t).foldl (fun m q => match q.1 with | some k => m ||| (1 <<< k) | none => m) 0 }

/-! ## Issue checks -/

/-- A cause that names the syllable names the one of the bundle, its STOP bit included (Table 21-1). -/
def nameSyllable (w : Word) (c : Cause) : Cause :=
  if (c.cls = 1 ∧ c.code ≠ 7 ∧ c.code ≠ 9) ∨ (c.cls = 3 ∧ c.code = 1) then { c with addr := w } else c

/-- The wait of a slot in the pre-bundle state. -/
def slotBlock (pre : State) (o : SlotOp) : Option Block := match exec o.instr pre with
  | .next t => t.ctx.block
  | _ => none

/-- Does an instruction enter the matrix queue (R277)? -/
def entersMatrix (s : State) : Instr → Bool
  | .mzero o | .mop o | .mpart o | .mlut o | .mlut2 o | .mwr o | .mxfer o | .mopt o => sguard o.guard s.ctx
  | .ldt o | .ldtRing o => sguard o.guard s.ctx
  | _ => false

/-- Does an instruction enter the queue of the copy engine, the one engine that two slots of a bundle reach (R253, R255)? -/
def entersCopy (s : State) : Instr → Bool
  | .cpy o | .cpya o | .cpyw o | .flapp o | .cbindPin o | .cbindFloat o => sguard o.guard s.ctx
  | .probeFill o => sguard o.guard s.ctx && (probeHit s (effAddr o s.ctx)).isNone
  | _ => false

/-- The wait of a bundle for room for both of two that it enters into one queue (R105, R277). -/
def pairBlock (pre : State) (ops : List SlotOp) : Option Block :=
  let two (p : Instr → Bool) : Bool := 2 ≤ ops.countP fun o => p o.instr
  if two (entersMatrix pre) && decide (queueCap < pre.core.mqueue.length + 2) then some (.pair none)
  else if two (entersCopy pre) && decide (queueCap < queuedCmds pre.core 0 + 2) then some (.pair (some 0))
  else none

/-- The wait of a bundle in the pre-bundle state, before its issue checks (R105, R338). -/
def bundleBlock (pre : State) (ops : List SlotOp) : Option Block := (pairBlock pre ops).orElse fun _ => ops.findSome? (slotBlock pre)

/-- The cause of a slot in the pre-bundle state. -/
def slotCause (pre : State) (o : SlotOp) : Option Cause := match exec o.instr pre with
  | .next t => t.ctx.frozen.map (nameSyllable o.word)
  | _ => none

/-- The results of a load whose words conflict in their banks. -/
def conflictFlights (i : Instr) (pre : State) : List Flight :=
  let f (o : LS) : List Flight := if sguard o.guard pre.ctx then vflights o.dr.toNat (lsLat (lsWin o) 5) else []
  match i with
  | .ldv o => f o
  | .ldvx o => f o
  | _ => []

/-- The results that a slot would put in flight, whatever other check of CLASS 0x02 fails in it. -/
def slotFlights (pre : State) (o : SlotOp) : List Flight :=
  match exec o.instr { pre with ctx := { pre.ctx with flights := [], xlast := false, tileUnwaited := 0, accUnwaited := 0 } } with
  | .next t => if t.ctx.frozen.isSome then conflictFlights o.instr pre else t.ctx.flights
  | _ => []

/-- The collision of a slot's results with those in flight and those of the other slots (R349). DESIGN CHOICE: an EXIT of the bundle spares none of them: the check is made at issue, and EXIT discards results only once the bundle has committed (R183; log entry 79). -/
def crossCause (pre : State) (ops : List SlotOp) (o : SlotOp) : Option Cause :=
  collision (pre.ctx.flights ++ (ops.filter fun p => p.slot != o.slot).flatMap (slotFlights pre)) (slotFlights pre o)

/-- The loop-end check of R348: the cause of a branching or delay bundle at the end of an active level. -/
def loopEndCause (c : Context) (branching : Bool) : List (Option Nat × Cause) :=
  let slot := if branching then some 0 else none
  if branching || c.delay != 0 then
    (if c.act0 && c.pc == c.le0 then [(slot, { cls := 1, code := 9, addr := c.le0, info := 0 })] else [])
    ++ (if c.act1 && c.pc == c.le1 then [(slot, { cls := 1, code := 9, addr := c.le1, info := 1 })] else [])
  else []

/-- The causes of a bundle at issue, in tag order: the loop-end check of a branching bundle is slot S's, behind that slot's own (R339, R348). -/
def issueCauses (pre : State) (ops : List SlotOp) (branching : Bool) : List (Option Nat × Cause) :=
  let l := ops.filterMap fun o => (bestCause ((crossCause pre ops o).toList ++ (slotCause pre o).toList)).map fun c => (some o.slot, c)
  (l.filter fun p => p.1 == some 0) ++ loopEndCause pre.ctx branching ++ l.filter fun p => p.1 != some 0

/-- The unwaited bits after a slot: those that it waited for are clear, and those of the operations that it queued are set; `pre` holds the bits that it read (R278). -/
def Context.mergeWaits (pre old : Context) (queued : List MEntry) (new : Context) : Context :=
  { new with
    tileUnwaited := setBits (old.tileUnwaited &&& ~~~(pre.tileUnwaited &&& ~~~new.tileUnwaited)) (queued.flatMap MEntry.tilesW)
    accUnwaited := setBits (old.accUnwaited &&& ~~~(pre.accUnwaited &&& ~~~new.accUnwaited)) (queued.flatMap MEntry.accsW) }

/-- The effects of the slots behind the first: each reads the unwaited bits as the bundle found them, in `pre` (R134, R338). DESIGN CHOICE: where two slots of a bundle set one thing, as a PROBE.fill and a TAGW that write the tag entry of one slot, the later slot in tag order stands: TAGW's entry remains (log entry 19). -/
def runRest (pre : Context) : List SlotOp → State → Result
  | [], s => .next s
  | o :: t, s => match exec o.instr { s with ctx := { s.ctx with tileUnwaited := pre.tileUnwaited, accUnwaited := pre.accUnwaited } } with
    | .next s' => runRest pre t { s' with ctx := Context.mergeWaits pre s.ctx (s'.core.mqueue.drop s.core.mqueue.length) s'.ctx }
    | r => r

/-- The effects of the slots in tag order; each reads the pre-bundle registers, since results stay in flight (R134, R338). -/
def runSlots (ops : List SlotOp) (s : State) : Result := match ops with
  | [] => .next s
  | o :: t => match exec o.instr s with
    | .next s' => runRest s.ctx t s'
    | r => r

/-- Does a slot stop the machine? -/
def slotStop (pre : State) (o : SlotOp) : Option Result := match exec o.instr pre with
  | .next _ => none
  | r => some r

/-- The state that a bundle's slots read: due results have landed and no wait or fault stands (R104, R326). -/
def preBundle (s : State) : State := landDue { s with ctx := { s.ctx with block := none, frozen := none } }

/-- The state with the release of a barrier taken as come: every check of a barrier's bundle is made before the bundle arrives (R386). -/
def asReleased (s : State) : State := { s with ctx := { s.ctx with release := .here } }

/-- Attempt to issue the slots of a bundle whose lengths the context holds: waits other than for a release, then the issue checks, then the wait at a barrier, then the effects. -/
def trySlots (ops : List SlotOp) (s : State) : Try :=
  let pre := preBundle s
  let branching := ops.any fun o => isBranch o.instr
  match ops.findSome? (slotStop pre) with
  | some r => .stop r
  | none => match bundleBlock (asReleased pre) ops with
    | some b => .hold b
    | none => match bundleCause (issueCauses (asReleased pre) ops branching) with
      | some c => .bad c
      | none => match runSlots ops pre with
        | .next t => match t.ctx.block, t.ctx.frozen with
          | some b, _ => .hold b
          | none, some c => .bad c
          | none, none => .commit (Machine.commit branching t)
        | r => .stop r

/-- Attempt to issue the syllables of a bundle: decode checks, then the delay bundles that a link needs (R181), then the slots. -/
def tryWords (ws : List Word) (s : State) : Try :=
  match bundleCause (decodeCauses s ws) with
  | some c => .bad c
  | none =>
    let ops := slotOps ws
    let co := s.core
    let f := s.ctx.func.toNat
    let len := 8 * ws.length
    let a1 := s.ctx.pc + .ofNat 64 len
    if ops.any fun o => isLink o.instr then
      match bundleLen co f a1 with
      | none => .hold (.icache (bundleMiss co f a1))
      | some d1 =>
        let a2 := a1 + .ofNat 64 d1
        match bundleLen co f a2 with
        | none => .hold (.icache (bundleMiss co f a2))
        | some d2 => trySlots ops { s with ctx := { s.ctx with len := len, delayLen := d1 + d2 } }
    else trySlots ops { s with ctx := { s.ctx with len := len } }

/-- Attempt to issue the next bundle of the running context (R160, R161, R346). -/
def tryIssue (s : State) : Try :=
  match bundleAt s.core s.ctx.func.toNat s.ctx.pc with
  | .missing j => .hold (.icache (s.ctx.pc + 8 * BitVec.ofNat 64 j).toNat)
  | .broken w p => .bad { cls := 1, code := 7, slots := 1 <<< (tagOf w).toNat, addr := w, info := .ofNat 32 p }
  | .whole ws => tryWords ws s

/-- The cycle of a block or a fault is noted for the bubble (R105). -/
def noteBlock (s : State) : State := { s with core := { s.core with blockAt := s.cycle } }

/-- The state after an attempt: a commit, a wait or a fault. A bundle that does not commit finds its due results landed (R104); a line whose error it met is marked (R332). -/
def settle (s : State) : Try → Result
  | .commit t => .next t
  | .hold b => .next (blockOn b (noteBlock (landDue s)))
  | .bad c => .next (takeFault c (noteBlock (landDue (c.met s))))
  | .stop r => r

/-- The running context may issue on this cycle: it runs, is not frozen, is not being saved (R130), its core is free, and what blocked it has cleared on an earlier cycle, with no other context ready, or with its own number the first of those that became ready with it (R105). -/
def mayIssue (s : State) : Bool :=
  s.ctx.life == .running && s.ctx.frozen.isNone && !s.ctx.saving && s.core.freeAt ≤ s.cycle
    && (match s.ctx.block with
      | none => true
      | some .sync => !blockHolds s s.coreId s.ctxId .sync
      | some b => !blockHolds s s.coreId s.ctxId b && s.ctx.readySince != 0
          && ((inLine s).isEmpty || (firstReady s == some s.ctxId && s.core.blockAt + 2 ≤ s.cycle)))

/-- Issue the next bundle of the running context in free mode. -/
def issueFree (s : State) : Result := if mayIssue s then settle s (tryIssue s) else .next s

/-! ## Teams (R107, R108, R211, R212, R386) -/

/-- The guard of the S slot of a bundle. -/
def sSlotGuard (ws : List Word) (c : Context) : Bool :=
  match ws.head? with
  | some w => tagOf w == 0 && sguard (guardBits w) c
  | none => false

/-- What the lead's bundle decided, for the members behind it. -/
def ctlOf (ws : List Word) (before : State) (after : State) : Ctl :=
  let c := after.ctx
  let b := (preBundle before).ctx
  { at_ := before.ctx.pc, sylls := ws, len := c.len, delayLen := c.delayLen, guard := sSlotGuard ws b,
    pc := c.pc, delay := c.delay, target := c.target, lc := (c.lc0, c.lc1), ls := (c.ls0, c.ls1), le := (c.le0, c.le1),
    act := (c.act0, c.act1), exits := c.life == .retired }

/-- A member behind the lead takes the lead's control after its bundle. -/
def adopt (x : Ctl) (c : Context) : Context :=
  if c.life = .retired then c
  else { c with pc := x.pc, delay := x.delay, target := x.target, lc0 := x.lc.1, lc1 := x.lc.2, ls0 := x.ls.1, ls1 := x.ls.2,
                le0 := x.le.1, le1 := x.le.2, act0 := x.act.1, act1 := x.act.2 }

/-- A wait that holds one member alone (R108). -/
def isBarrier : Block → Bool
  | .bar _ => true
  | .step _ => true
  | .sync => true
  | _ => false

/-- The words of the bundle at which the lead holds at a barrier, for a member that has come to the same bundle. -/
def leadWords (t : TaskSt) (s : State) : Option (List Word) := match t.places with
  | p :: _ =>
    let m := focus p.1 p.2 s
    if m.ctx.teamIdx = s.ctx.teamIdx ∧ m.ctx.block.any isBarrier then match bundleAt m.core m.ctx.func.toNat m.ctx.pc with
      | .whole ws => some ws
      | _ => none
    else none
  | [] => none

/-- A member arrives at the barrier at which the lead holds (R108, R112): it waits there itself, whatever the bundle's guard reads in its own predicates. -/
def tryArrival (ws : List Word) (s : State) : Try :=
  match bundleCause (decodeCauses s ws) with
  | some c => .bad c
  | none => match trySlots (slotOps ws) { s with ctx := { s.ctx with leadGuard := some true } } with
    | .commit _ => .hold .team
    | r => r

/-- Attempt the next bundle of the team member in focus, of the task `t`. -/
def tryMember (t : TaskSt) (s : State) : Try :=
  if s.ctx.teampos = 0 then
    match tryIssue s, bundleAt s.core s.ctx.func.toNat s.ctx.pc with
    | .commit a, .whole ws =>
      .commit (modTask t.id (fun x => { x with stream := x.stream ++ [ctlOf ws s a] }) { a with ctx := { a.ctx with teamIdx := s.ctx.teamIdx + 1 } })
    | r, _ => r
  else match t.stream[s.ctx.teamIdx - t.streamBase]? with
    | none => match leadWords t s with
      | some ws => tryArrival ws s
      | none => .hold .team
    | some x =>
      match bundleCause (decodeCauses s x.sylls) with
      | some c => .bad c
      | none => match trySlots (slotOps x.sylls)
          { s with ctx := { s.ctx with leadGuard := some x.guard, len := x.len, delayLen := x.delayLen } } with
        | .commit a => .commit { a with ctx := { adopt x a.ctx with teamIdx := s.ctx.teamIdx + 1 } }
        | r => r

/-- A team member in focus that takes part in issue: it runs, and holds at no barrier. -/
def memberLive (s : State) : Bool :=
  s.ctx.life == .running && (match s.ctx.block with
    | some b => !isBarrier b || !blockHolds s s.coreId s.ctxId b
    | none => true)

/-- The member in focus issues its next bundle on this cycle. -/
def memberDue (s : State) : Bool := memberLive s && s.core.freeAt ≤ s.cycle

/-- The team stands frozen: a live member is blocked or frozen by a fault (R108, R386). -/
def teamFrozen (t : TaskSt) (s : State) : Bool := t.places.any fun p =>
  let m := focus p.1 p.2 s
  memberLive m && (m.ctx.frozen.isSome || (match m.ctx.block with
    | some b => !isBarrier b
    | none => false))

/-- A member's attempt stops the whole team: a wait other than at a barrier, or a fault. -/
def stopsTeam : Try → Bool
  | .hold b => !isBarrier b
  | .bad _ => true
  | _ => false

/-- The members due on this cycle whose bundles stop the team. -/
def stoppers (t : TaskSt) (s : State) : List (Nat × Nat) := t.places.filter fun p =>
  let m := focus p.1 p.2 s
  memberDue m && stopsTeam (tryMember t m)

/-- Every live member that nothing else blocks freezes with the team (R108). -/
def freezeTeam (t : TaskSt) (s : State) : State := t.places.foldl (fun s p =>
  let m := focus p.1 p.2 s
  if memberLive m && m.ctx.frozen.isNone && m.ctx.block.all isBarrier then { m with ctx := { m.ctx with block := some .team } } else m) s

/-- Issue the bundle of each of the members, the lead first, as the task then stands. -/
def issueMembers (t : Nat) : List (Nat × Nat) → State → Result
  | [], s => .next s
  | p :: l, s =>
    let m := focus p.1 p.2 s
    match taskOf m t with
    | some x => if memberDue m then match settle m (tryMember x m) with
        | .next m' => issueMembers t l m'
        | r => r
      else issueMembers t l m
    | none => .next m

/-- The bundles that every running member has issued leave the stream. -/
def pruneStream (t : Nat) (s : State) : State :=
  modTask t (fun x =>
    let m := x.places.foldl (fun m p => let c := getCtx s p.1 p.2; if c.life = .running then min m c.teamIdx else m) (x.streamBase + x.stream.length)
    { x with stream := x.stream.drop (m - x.streamBase), streamBase := m }) s

/-- One cycle of a team: each member due issues its bundle, unless one of them blocks or faults; then no member issues, and the team freezes. -/
def teamCycle (t : TaskSt) (s : State) : Result :=
  if teamFrozen t s then .next s
  else
    let back (s' : State) := focus s.coreId s.ctxId s'
    match stoppers t s with
    | [] => match issueMembers t.id t.places s with
      | .next s' => .next (back (pruneStream t.id s'))
      | r => r
    | l =>
      match issueMembers t.id l s with
      | .next s' => .next (back (freezeTeam t s'))
      | r => r

/-- Issue on the core in focus: the running context's next bundle, or one cycle of its team. -/
def issue (s : State) : Result :=
  match taskOf s s.ctx.task with
  | some t => if t.team then teamCycle t s else issueFree s
  | none => issueFree s

end Sys2Proof.Machine
end

