-- ==== Sys2Proof/Machine/Time.lean ====
section
/-! DEFINITION. The passing of one core cycle (R8, R215, R106). -/

namespace Sys2Proof.Machine

/-- Keep the cycle since which a context has been ready and not running: 0 while it is not, else that cycle plus one (R106). The running context of its core counts where its bundle had blocked: it rejoins the order on the cycle after its condition has become visible (R105). -/
def ageCtx (s : State) (c k : Nat) (x : Context) : Context :=
  let now := if c = s.coreId then s.ctxId else (getCore s c).running
  if ready s c k && !(k == now && x.block.isNone) then
    { x with readySince := if x.readySince = 0 then s.cycle + 1 else x.readySince }
  else { x with readySince := 0 }

/-- The tick after a cycle: about nineteen tenths of a cycle a tick, varying freely, one tick withheld while the package steers (R215, R320; log entry 4). -/
def tickOn (s : State) : State :=
  let p := s.phase + 9 + Config.tickDrift s.cycle % 3
  if p < 19 then { s with phase := p }
  else if s.hub.slow then { s with phase := p - 19, hub := { s.hub with slow := false } }
  else { s with phase := p - 19, tick := s.tick + 1 }

/-- The cycle counter advances. -/
def cycleOn (s : State) : State := { mapCtxs (ageCtx s) s with cycle := s.cycle + 1 }

end Sys2Proof.Machine
end

