-- ==== Sys2Proof/Machine/Run.lean ====
section
/-! DEFINITION. What one step does: a move that stands in the agenda, or, with an empty agenda, the fixed default order of log entry 1; and the placing of one instruction where the next fetch reads it. -/

namespace Sys2Proof.Machine

/-! ## The passing of a cycle (R8, R69, R113, R215) -/

/-- A context that waits at a SYNC and whose writes and ring advances have not all performed arrives no sooner than the next cycle (R112, R113). -/
def markSync (s : State) (c k : Nat) (x : Context) : Context :=
  if x.block = some .sync ∧ x.release = .no ∧ !settledAt s c k x.task then { x with arrivedAt := s.cycle + 1 } else x

/-- A SYNC whose six cycles have passed releases (R113). -/
def releaseDue (s : State) : State :=
  (s.hub.tasks.flatMap fun t => [0, 1, 2, 3].map fun d => (t, d)).foldl (fun s p => match syncTime s p.1 p.2 with
    | some a => if a + 6 ≤ s.cycle then releaseSync p.1 p.2 a s else s
    | none => s) s

/-- One core cycle passes: the tick advances with it (R215), the window accesses of its cycle perform (R69), and a due SYNC releases. -/
def clock (s : State) : State :=
  let s := tickOn (cycleOn (mapCtxs (markSync s) s))
  releaseDue (performDue (coreIds s) s)

/-! ## Errors in storage (R373, R376) -/

/-- An uncorrected error in a line of device memory, which no read has met yet (R373). -/
def spoilLine (line : Nat) (s : State) : State :=
  if line ∈ s.hub.poison ∨ line ∈ s.hub.badLines then s else modHub (fun h => { h with badLines := line :: h.badLines }) s

/-- An uncorrected error in a 16-byte word of a core's scratchpad (R373). -/
def spoilWord (c : Nat) (shared : Bool) (w : Nat) (s : State) : State :=
  modCore c (fun k =>
    if shared then { k with sharedPoison := if k.sharedPoison.contains w then k.sharedPoison else w :: k.sharedPoison }
    else { k with scratchPoison := if k.scratchPoison.contains w then k.scratchPoison else w :: k.scratchPoison }) s

/-- An uncorrected error in a tile or an accumulator (R376). -/
def spoilTile (c : Nat) (acc : Bool) (r : Nat) (s : State) : State :=
  modCore c (fun k =>
    if acc then { k with accPoison := setBits k.accPoison [r % 12] } else { k with tilePoison := setBits k.tilePoison [r % 16] }) s

/-! ## One move -/

/-- An event that lands a completion: ring counts, buffers and codebooks take what it brings, and a queue that accepts a record completes its MSG or TASK (R76, R271). -/
def isLanding : Instr → Bool
  | .engineCompletion .. | .cbindArrayLands .. | .cbrevPublish .. | .encComplete .. | .splicePerform .. | .pinPerform .. | .unpinDrop ..
  | .pgallocPageTaken .. | .probeFillLands .. | .matrixOpLand _ | .svcReply .. | .remoteDataArrive .. | .remoteSendAccept .. | .slotReturnArrive .. | .queueRecordAccept _ => true
  | _ => false

/-- Core `c` has yet to issue on this cycle: its running context may issue, or it may switch to one that then issues (R105). -/
def issueDue (s : State) (c : Nat) : Bool :=
  let m := focusCore c s
  match taskOf m m.ctx.task with
  | some t => if t.team then memberDue m && !teamFrozen t m else mayIssue m || comes m
  | none => mayIssue m || comes m
where
  comes (m : State) : Bool := maySwitch m && (nextReady m).isSome

/-- A completion on this cycle comes too early: a bundle that issues on the cycle does not see it, so it lands only behind the bundle (R76). -/
def early (s : State) (i : Instr) : Bool := isLanding i && (coreIds s).any (issueDue s)

/-- What one move does. A syllable is no event: it runs only out of a bundle. A completion named ahead of a bundle of its cycle is none yet (R76). -/
def runMove (m : Move) (s : State) : Result := match m with
  | .run c => atCore c (fun s => issue (focusCore c s)) s
  | .event i => if isEvent i && !early s i then exec i s else .next s
  | .clock => .next (clock s)
  | .correct src kind loc syn => when (corrects s src.toNat kind.toNat loc) (correctError src.toNat kind.toNat loc syn) s
  | .poisonLine l => .next (spoilLine l s)
  | .poisonWord c sh w => atCore c (fun s => .next (spoilWord c sh w s)) s
  | .poisonTile c acc r => atCore c (fun s => .next (spoilTile c acc r s)) s
  | .keyWriteFail => .next (modHub (fun h => { h with studBook := { h.studBook with keyBad := true } }) s)
  | .flashBad key page => .next (spoilFlash key page s)
  | .peerArrive key => .next (peerArrives key s)
  | .flitError c id => flitError c id s
  | .homeRefuses c id => homeRefuses c id s
  | .fetchFails c k n cxl => fetchFails c k n cxl s
  | .farRefuses c id => farRefuses c id s

/-! ## The default order (log entry 1) -/

/-- The first action that answers a state other than the one it starts from. -/
def firstProgress : List (State × (State → Result)) → Option Result
  | [] => none
  | (s, f) :: t => match f s with
    | .next s' => if s' = s then firstProgress t else some (.next s')
    | r => some r

/-- The event that completes a command of its kind. -/
def completionOf (c : Nat) (m : Cmd) : Instr := match m.op with
  | .cbind => .cbindArrayLands c m.id
  | .cbrev => .cbrevPublish c m.id
  | .enc => .encComplete c m.id
  | .splice => .splicePerform c m.id
  | .pin => .pinPerform c m.id
  | .unpin => .unpinDrop c m.id
  | .pgalloc => if m.phase == .queued then .pgallocPageTaken c m.id else .engineCompletion c m.id
  | .probeFill => .probeFillLands c m.id
  | _ => .engineCompletion c m.id

/-- The events of one context. -/
def ctxEvents (s : State) (c k : Nat) : List Instr :=
  let x := getCtx s c k
  (match x.block with
    | some (.xlat _) => [.pageWalkDone c k]
    | some (.icache _) => [.icacheFill c k]
    | some (.bar _) => [.barRelease c k]
    | some (.step _) => [.stepRelease c k, .bindingReloadLands c k]
    | some .sync => [.syncRelease c k]
    | _ => [])
  ++ x.replay.map (fun r => .replay c k r.queue)
  ++ (if s.hub.saved.isEmpty then [] else [.contextRestore c k])

/-- The events of one core: engine starts and completions, then those of its contexts. -/
def coreEvents (s : State) (c : Nat) : List Instr :=
  ([0, 1, 2, 3, 4, 5].flatMap fun e => [.engineCommandStart c e, .timedCommandStart c e])
  ++ (getCore s c).cmds.map (completionOf c)
  ++ [0, 1, 2, 3].flatMap (ctxEvents s c)

/-- The event of a ready node of a graph; a node that cannot be read acts as a launch node, which stops the graph (R383). -/
def nodeEvent (s : State) (g : Graph) (n : Nat) : Instr := match (nodeHeader s g n).map ndKind with
  | some 1 => .graphIfNode g.id n
  | some 2 => .graphWhileNode g.id n
  | some 3 => .graphSwitchNode g.id n
  | some 4 => .graphJoinNode g.id n
  | _ => .graphLaunchNode g.id n

/-- The events of messages on their way between ends of remote rings. -/
def ringEvent (m : RingMsg) : Instr := match m with
  | .data f l bs _ _ _ => .remoteDataArrive f l bs
  | .accept f l => .remoteSendAccept f l
  | .ret f l _ _ _ _ _ => .slotReturnArrive f l

/-- The events of the hub: rings, queues, tasks, graphs, pages, saves, alignment. -/
def hubEvents (s : State) : List Instr :=
  s.hub.ringMsgs.map ringEvent
  ++ s.hub.inbox.flatMap (fun x => [.queueRecordAccept x.queue, .negativeAcknowledgement x.queue])
  ++ s.hub.graphs.flatMap (fun g => g.ready.map (nodeEvent s g))
  ++ s.hub.tasks.flatMap (fun t => [.teamResume t.id, .taskComplete t.id])
  ++ s.hub.resetPages.map (fun p => .scrubStart p.1)
  ++ s.hub.pages.flatMap (fun p => [.scrubStart p.1, .scrubDone p.1])
  ++ s.hub.revokes.map (fun r => .revokeDone r.func r.tag)
  ++ (if (needy s).isSome || (ctxIds s).any (fun p => (getCtx s p.1 p.2).saving) then (ctxIds s).map fun p => .preemptSave p.1 p.2 else [])
  ++ [.alignFlitSend, .alignTimeout, .alignRejoin]

/-- DISPATCH where it places a record or has not stopped at one that finds no place. -/
def dispatchMove (s : State) : List Instr :=
  match dispatchRun s with
  | ((_, n), stopped) => if 0 < n || !stopped then [.dispatch] else []

/-- What the package does next, in order: starts of matrix operations, issue (the core in focus first), switches, whose contexts then issue, landings of matrix operations behind the bundles of the cycle (R76), engines and contexts, the hub, dispatch. -/
def candidates (s : State) : List (State × (State → Result)) :=
  let cs := coreIds s
  let events (l : List Instr) : List (State × (State → Result)) := l.map fun i => (s, exec i)
  events (cs.map .matrixOpStart)
  ++ cs.map (fun c => (focusCore c s, issue))
  ++ events (cs.flatMap fun c => [.agingSwitch c, .contextSwitch c])
  ++ events (cs.map .matrixOpLand)
  ++ events (cs.flatMap (coreEvents s))
  ++ events (hubEvents s)
  ++ events (dispatchMove s)

/-- With nothing in the agenda, the first candidate that changes the state acts; else a cycle passes. A change of focus alone is none. -/
def idle (s : State) : Result := (firstProgress (candidates s)).getD (.next (clock s))

/-- One step of the part. -/
def nextMove (s : State) : Result := match s.agenda with
  | [] => idle s
  | m :: t => runMove m { s with agenda := t }

/-! ## Placing an instruction -/

/-- The no-operation syllable of slot S, with STOP (R157, R200). -/
def stopNop : Word := 0x8000000000000000

/-- A cache line whose syllable number `j` is `w`, the others no-operations. -/
def lineWith (j : Nat) (w : Word) : BitVec 512 :=
  [0, 1, 2, 3, 4, 5, 6, 7].foldl (fun (l : BitVec 512) i => l ||| ((if i = j then w else stopNop).setWidth 512 <<< (64 * i))) 0

/-- The lines that the issue of a syllable at `pc` reads: its own, the next for delay bundles, and the one of a loop's end. -/
def linesFor (f pc : Nat) (w : Word) : List (Nat × Nat × BitVec 512) :=
  let own := (f, pc / 64, lineWith (pc / 8 % 8) w)
  let next := (f, pc / 64 + 1, lineWith 8 0)
  match decodeSyll w with
  | .ok (.loop o) =>
    let a := ((BitVec.ofNat 64 pc) + 8 * o.imm.signExtend 64).toNat
    if a / 64 = pc / 64 then [own, next] else [own, (f, a / 64, lineWith 8 0), next]
  | _ => [own, next]

/-- The state whose next step issues a bundle of the one syllable `w` in the running context. -/
def placeSyllable (w : Word) (s : State) : State :=
  let w := w ||| stopNop
  { s with
    agenda := [.run s.coreId]
    ctx := { s.ctx with life := .running, block := none, frozen := none, task := if inTeam s then 0 else s.ctx.task }
    core := { s.core with freeAt := 0, icache := linesFor s.ctx.func.toNat s.ctx.pc.toNat w ++ s.core.icache } }

end Sys2Proof.Machine
end

