-- ==== Sys2Proof/Machine/Step.lean ====
section
/-! DEFINITION. One step of the machine, and the placing of one instruction where its next step fetches. -/

namespace Sys2Proof.Machine

/-- One step: the next move of the agenda, or the default order where the agenda is empty. -/
def step (s : State) : Host.Outcome State Fault Refusal := nextMove s

/-- The state whose next step fetches and issues the instruction with the bits `w` alone in a bundle. -/
def State.withFetchWord (s : State) (nbits w : Nat) : State := placeSyllable (BitVec.ofNat 64 (w % 2 ^ nbits)) s

end Sys2Proof.Machine
end

