-- ==== Sys2Proof/Safety.lean ====
section
/-! DEFINITION. What claims call a well-kept machine: the canonical form of every memory, and how a step or an instruction ends. -/

namespace Sys2Proof.Machine

/-- The answer is the next state `t`. -/
def EndsIn (r : Result) (t : State) : Prop := r = .next t

/-- The answer is a next state that satisfies `p`. -/
def Reaches (r : Result) (p : State → Prop) : Prop := ∃ t, r = .next t ∧ p t

/-- The instruction completes by putting exactly these results in flight (R104): where none of them collides with a result already in flight (R349), the answer is the same state with them added. -/
def Puts (i : Instr) (s : State) (fs : List Flight) : Prop :=
  collision s.ctx.flights fs = none → exec i s = .next { s with ctx := s.ctx.fly fs }

/-- As `Puts`, the context changed as `f` says besides: flags raised, counters advanced. -/
def PutsWith (i : Instr) (s : State) (fs : List Flight) (f : Context → Context) : Prop :=
  collision s.ctx.flights fs = none → exec i s = .next { s with ctx := f (s.ctx.fly fs) }

/-- The command of the E slot completes by entering the queue of its engine (R255), what it captured at issue as given; `t` is the state besides. -/
def Queues (i : Instr) (s t : State) (op : Op) (eng : Nat) (ring : Option Nat) (p : Cmd → Prop) : Prop :=
  ∃ m, exec i s = .next (enqueue m t) ∧ m.op = op ∧ m.eng = eng ∧ m.ring = ring ∧ m.ctx = s.ctxId ∧ m.task = s.ctx.task
    ∧ m.func = s.ctx.func.toNat ∧ m.pc = s.ctx.pc ∧ m.phase = .queued ∧ p m

/-- No result in flight is for a register that the property names. -/
def Context.clearOf (c : Context) (p : Dest → Bool) : Bool := c.flights.all fun f => !p f.dest

/-- The scratchpads of a core are in canonical form. -/
def Core.memoryOk (k : Core) : Bool := k.scratch.wf && k.shared.wf

/-- The scratchpads of a saved cluster are in canonical form. -/
def ClusterSave.memoryOk (v : ClusterSave) : Bool := v.cores.all fun k => k.scratch.wf && k.shared.wf

/-- Every memory of the package is in canonical form: device memory, each core's scratchpads and the saved ones. -/
def MemoryOk (s : State) : Bool :=
  s.mem.wf && s.core.memoryOk && (s.cores.all fun c => c.2.memoryOk) && s.hub.clusterSaves.all ClusterSave.memoryOk

end Sys2Proof.Machine
end

