-- ==== Sys2Proof/Certificates/Slice0/Obligations.lean ====
section
/-! DEFINITION. The statements about the machine that are put to proof. -/

open Sys2Proof Sys2Proof.Machine

/-! ## Encoding -/

/-- R157, R160, R163 to R170: every well-formed instruction, its STOP bit either way, decodes from its syllable to itself with every operand; the syllable keeps its STOP bit and its slot's tag, and its eight bytes, least significant first, decode alike. -/
def Obligations.RoundTripAll : Prop := ∀ (stop : Bool) (i : Instr), WellFormed i = true →
  decodeSyll (encodeWith stop i) = .ok i ∧ stopOf (encodeWith stop i) = stop ∧ Encoding.tag i = some (tagOf (encodeWith stop i))
  ∧ decodeTableWord 64 (encodeWith stop i).toNat = some i

/-- R157, R341 to R345: a syllable that decodes is the syllable of the well-formed instruction that it decodes to, so no bit of it is ignored and no two syllables of one STOP bit share a meaning. -/
def Obligations.DecodedSyllablesAreEncodings : Prop := ∀ (w : Word) (i : Instr), decodeSyll w = .ok i →
  WellFormed i = true ∧ encodeWith (stopOf w) i = w

/-- Words that the spec writes out decode to what it says they are: one or more of each slot, with every field it names. -/
def Obligations.DecodedWords : Prop := decodeSyll 0x00118828C0000000 = .ok (.add { guard := ⟨false, 3⟩, gd := 4, ga := 5, gb := 6, gc := 0, pd := 0, pa := 0, pb := 0, sub := 0 })
  ∧ decodeSyll 0x81D0296D1CE4E5B9 = .ok (.li { guard := ⟨false, 0⟩, gd := 20, imm := 0x16D1CE4E5B9 })
  ∧ decodeSyll 0x81E02800005FAC23 = .ok (.lih { guard := ⟨false, 0⟩, gd := 20, imm := 0x5FAC23 })
  ∧ decodeSyll 0x8200001880283100 = .ok (.cmp { guard := ⟨false, 0⟩, gd := 0, ga := 3, gb := 4, gc := 0, pd := 5, pa := 0, pb := 6, sub := 4 })
  ∧ decodeSyll 0x8301000000001000 = .ok (.br { guard := ⟨false, 2⟩, link := 0, off := 8 })
  ∧ decodeSyll 0x833000A000000010 = .ok (.loop { guard := ⟨false, 0⟩, gd := 0, ga := 20, imm := 2, sub := 0 })
  ∧ (∃ o : VF, decodeSyll 0x914010A005C00040 = .ok (.vins o) ∧ Encoding.imm16 o = 1
    ∧ o = { guard := ⟨false, 0⟩, v1 := false, vd := 4, va := 5, vb := 0, vc := 0, fmt := 11, i := true, low := 0x40 })
  ∧ decodeSyll 0xB010288009020000 = .ok (.xrot { guard := ⟨false, 0⟩, vd := 10, va := 4, xp := 0, vb := 0, fmt := 9, imm := 2, sub := 0 })
  ∧ decodeSyll 0xC010090000080000 = .ok (.mop { guard := ⟨false, 0⟩, ta := 1, tb := 2, acc := 0, bind := 0, q := 0, k := 1, aux := 0, sub := 0 })
  ∧ decodeSyll 0xD010087004000000 = .ok (.ldv { guard := ⟨false, 0⟩, dr := 2, gb := 7, off := 0x40, sub := 0, space := 0, width := 0, dhi := 0, gs := 0, q := 0, rf := false })
  ∧ decodeSyll 0xE05010E000000000 = .ok (.stc { guard := ⟨false, 0⟩, dr := 4, gb := 14, off := 0, sub := 0, space := 0, width := 0, dhi := 0, gs := 0, q := 0, rf := false })
  ∧ decodeSyll 0xF0900B6000000000 = .ok (.cbindPin { guard := ⟨false, 0⟩, qc := 1, ga := 27, gb := 0, h := 0, es := 0, scope := 0, cla := 0, clb := 0, at_ := false, gt := 0, sub := 0 })

/-- R342, R344, R346: the opcodes that are not instructions, by slot, fault with CODE 0x0001, in V0 also 0x50 to 0x54; an assigned V0, V1 or X syllable with a guard index of 8 or more faults with CODE 0x0003; a bundle ends at its first STOP bit, and is broken at a syllable whose tag does not rise or that has tag 7 without STOP. -/
def Obligations.IllegalEncodings : Prop := let unassigned (t c : Nat) : Bool :=
    if t = 0 then (0x23 ≤ c && c ≤ 0x27) || c == 0x36 || c == 0x37 || (0x3F ≤ c && c ≤ 0xEF)
    else if t = 1 ∨ t = 2 then (0x17 ≤ c && c ≤ 0x1F) || [0x27, 0x2A, 0x2B, 0x2F].contains c || (0x33 ≤ c && c ≤ 0x3F) || (0x4A ≤ c && c ≤ 0x4F)
      || (0x55 ≤ c && c ≤ 0x57) || (0x5A ≤ c && c ≤ 0xEF) || (t == 1 && (0x50 ≤ c && c ≤ 0x54))
    else if t = 3 then 0x08 ≤ c && c ≤ 0xEF
    else if t = 4 then 0x0C ≤ c && c ≤ 0xEF
    else if t = 5 ∨ t = 6 then 0x0A ≤ c && c ≤ 0xEF
    else (0x03 ≤ c && c ≤ 0x07) || (0x0C ≤ c && c ≤ 0x0F) || (0x14 ≤ c && c ≤ 0x17) || (0x1C ≤ c && c ≤ 0x1F) || (0x24 ≤ c && c ≤ 0x27)
      || (0x2A ≤ c && c ≤ 0x2F) || c == 0x36 || c == 0x37 || (0x3A ≤ c && c ≤ 0xEF)
  (∀ (w : Word) (supv : Bool), unassigned (tagOf w).toNat (opcOf w).toNat = true → decodeCause supv w = some { cls := 1, code := 1, addr := w })
  ∧ (∀ (w : Word) (supv : Bool), 1 ≤ (tagOf w).toNat → (tagOf w).toNat ≤ 3 → (opcOf w).toNat < 0xF0 → unassigned (tagOf w).toNat (opcOf w).toNat = false →
    8 ≤ (guardBits w).idx.toNat → decodeCause supv w = some { cls := 1, code := 3, addr := w })
  ∧ (∀ (f : Nat → Option Word) (ws : List Word), readBundle f = .whole ws ↔
      ws ≠ [] ∧ (∀ j, j < ws.length → f j = ws[j]?) ∧ (ws.map tagOf).Pairwise (· < ·) ∧ ∀ j w, ws[j]? = some w → (stopOf w = true ↔ j + 1 = ws.length))
  ∧ (∀ (f : Nat → Option Word) (w : Word) (p : Nat), readBundle f = .broken w p →
      f p = some w ∧ (∀ j u, j < p → f j = some u → stopOf u = false)
      ∧ ((∃ u, 0 < p ∧ f (p - 1) = some u ∧ tagOf w ≤ tagOf u) ∨ (tagOf w = 7 ∧ stopOf w = false)))

/-! ## The machine -/

/-- R337, Tables 8-6 and 8-7: after reset every context stands idle with the reset values that the tables give its special registers, supervisor cores alone at supervisor level, no function and no queue is enabled and the tick reads 0, as the model chooses (log entry 4). The values of registers to which the spec gives no reset value are the model's choice (log entry 2) and are not stated.
R324, R333, R337: package reset sets every context and core to its reset state, keeps what the flash and CXL ranges hold, the logs, the tick and the stud book's log, and leaves HBM reading zero, all but the stud book by the model's reading (log entries 46 and 68); a bring-up that fails in its first two steps says the step and the cause in the status word and ends before that step, and one that goes on stands after its second step, behind which the supervisor cores are started by a write, with the later step that is to fail noted (log entry 68). It says where exec answers a next state for packageReset. -/
def Obligations.Reset : Prop :=
  ((∀ c k, isCore c = true → k < 4 →
      let x := getCtx State.reset c k
      x.life = .idle ∧ x.flights = [] ∧ x.frozen = none ∧ x.supv = isSupCore c ∧ x.status = 0 ∧ x.tmpr = 0x7F800000 ∧ x.rseed = 0 ∧ x.rcnt = 0
        ∧ x.teampos = 0 ∧ x.domain = 0 ∧ x.stepno = 0 ∧ x.backoff = 256 ∧ x.savecfg = 0 ∧ x.lc0 = 0 ∧ x.lc1 = 0)
    ∧ (∀ c, isCore c = true → (getCore State.reset c).tshare = 0 ∧ (getCore State.reset c).cachecfg = 0 ∧ (getCore State.reset c).cmds = [])
    ∧ (∀ f, fEnabled State.reset f = false) ∧ (∀ q, qcEn (queueOf State.reset q) = false) ∧ State.reset.tick = 0)
  ∧ (∀ (failStep cause : Nat) (s : State), ∃ t, exec (.packageReset failStep cause) s = .next t
    ∧ (∀ c k, getCtx t c k = getCtx State.reset c k) ∧ (∀ c, getCore t c = getCore State.reset c) ∧ t.tick = s.tick
    ∧ t.mem = s.mem.filter (fun p => outsideHbm s p.1) ∧ t.hub.logs = s.hub.logs ∧ t.hub.withdrawn = s.hub.withdrawn
    ∧ t.hub.studBook.chain = s.hub.studBook.chain ∧ t.hub.studBook.closed = s.hub.studBook.closed ∧ t.hub.studBook.lms = s.hub.studBook.lms
    ∧ (∀ f, fEnabled t f = false) ∧ t.hub.tasks = [] ∧ t.hub.saved = []
    ∧ (if failStep = 1 ∨ failStep = 2 then t.hub.bringUp = failStep - 1 ∧ bits t.hub.status.toNat 7 0 = failStep ∧ bits t.hub.status.toNat 15 8 = cause % 256
      else t.hub.bringUp = 2 ∧ t.hub.status = 0 ∧ t.hub.bringFail = if 3 ≤ failStep ∧ failStep ≤ 8 then some (failStep, cause) else none))

/-- Every memory is in canonical form after reset. -/
def Obligations.ResetMemoryOk : Prop := MemoryOk State.reset = true

/-- Every step keeps every memory of the package in canonical form. -/
def Obligations.StepKeepsMemory : Prop := ∀ (s t : State), MemoryOk s = true → step s = .next t → MemoryOk t = true

/-- R104, R105, R161, R325: where the core of the next move may issue and the syllable at its program counter ends its bundle and decodes to `i`, which neither waits nor faults, the step is `exec i` at the pre-bundle state, followed by the end of the bundle. -/
def Obligations.StepRunsDecodedInstruction : Prop := ∀ (s t u : State) (rest : List Move) (w : Word) (i : Instr),
  let base := { s with agenda := rest }
  let pc := s.ctx.pc
  let f := s.ctx.func.toNat
  let fetched (c : Context) : Prop :=
    if isLink i = true then ∃ d1 d2, bundleLen s.core f (pc + 8) = some d1 ∧ bundleLen s.core f (pc + 8 + .ofNat 64 d1) = some d2
      ∧ c = { s.ctx with len := 8, delayLen := d1 + d2 }
    else c = { s.ctx with len := 8 }
  ∀ c, fetched c →
  let pre := preBundle { base with ctx := c }
  s.agenda = .run s.coreId :: rest → isCore s.coreId = true → inTeam s = false → mayIssue base = true →
  icSyll s.core f pc.toNat = some w → stopOf w = true → decodeSyll w = .ok i → decodeCauses base [w] = [] →
  issueCauses (asReleased pre) [⟨(tagOf w).toNat, w, i⟩] (isBranch i) = [] →
  exec i pre = .next t → t.ctx.block = none → t.ctx.frozen = none →
  exec i (asReleased pre) = .next u → u.ctx.block = none → u.ctx.frozen = none →
  step s = .next (commit (isBranch i) t)

/-- R325, R328 to R330, R398: taking a fault freezes the context with its cause and changes nothing else of it or of any core, and of what the package shares only its records: the fault queues' numbers and recent records, the supervisors' queues, and the error marks of the lines that the record covers. Where no record of the same tick must stand behind it, the record goes to the function's queue at its next number and to the supervisor of the die, which keeps as many as its queue holds, and no other byte of device memory changes; where that queue takes no record, no byte changes, and the supervisor of the die gets a second record. The order of records of one tick is the model's reading (log entry 54), and so is it that a queue page on flash takes none (log entry 74). -/
def Obligations.FaultEntry : Prop := ∀ (e : Cause) (s : State), s.mem.wf = true →
  let f := s.ctx.func.toNat
  let die := dieOf s.coreId
  let n := tget 0 s.hub.fqSeq f
  let q := tget {} s.hub.supFaults die
  let r := faultRecord s (srcCtx s.coreId s.ctxId) f s.ctx.pc e
  let t := takeFault e s
  t.ctx = { s.ctx with frozen := some e, block := none } ∧ t.core = s.core ∧ t.cores = s.cores ∧ t.tick = s.tick ∧ t.cycle = s.cycle
  ∧ tget 0 t.hub.fqSeq f = n + 1 ∧ (∀ g, g ≠ f → tget 0 t.hub.fqSeq g = tget 0 s.hub.fqSeq g ∧ tget [] t.hub.fqRecent g = tget [] s.hub.fqRecent g)
  ∧ t.hub = { s.hub with fqSeq := t.hub.fqSeq, fqRecent := t.hub.fqRecent, supFaults := t.hub.supFaults, scrubLines := t.hub.scrubLines,
                         badLines := t.hub.badLines, poison := t.hub.poison }
  ∧ (fqBehind s f r = [] →
    (∀ l, walk s f (fqAddr s f n) = .ok l → bits l.pte 2 2 = 1 → lineTier s l.base ≠ 1 →
      let a := l.base + fqAddr s f n % pageBytes l.psz
      (∀ i, i < 64 → keepsByte s (a + i) = true) → (∀ p ∈ q.recs.getLast?, recAfter p.toNat r = false) →
      devNat t a 64 = withSeq r n ∧ (∀ x, x < a ∨ a + 64 ≤ x → devByte t x = devByte s x)
      ∧ tget {} t.hub.supFaults die = { q with seq := q.seq + 1, recs := ((.ofNat 512 (withSeq r q.seq) :: q.recs.reverse).take q.size).reverse }
      ∧ ∀ d, d ≠ die → tget {} t.hub.supFaults d = tget {} s.hub.supFaults d)
    ∧ ((∀ l, walk s f (fqAddr s f n) = .ok l → bits l.pte 2 2 ≠ 1 ∨ lineTier s l.base = 1) → t.mem = s.mem ∧ t.hub.scrubLines = s.hub.scrubLines
      ∧ (isCore s.coreId = true → s.ctxId < 4 → (tget {} t.hub.supFaults die).seq = q.seq + 2 ∧ ∀ d, d ≠ die → tget {} t.hub.supFaults d = tget {} s.hub.supFaults d)))

/-- R325, R339: the fault of a bundle is of the first class in the order 0x04, 0x01, 0x03, 0x05, 0x06, 0x07, 0x08, 0x09, 0x02 among its causes; CODE, ADDR and INFO are those of the first cause of that class in the order of the slots, which go by rising tag, and SLOTS has the bit of every slot with a cause of that class. Of the causes of one slot the first stands: by class, in CLASS 0x01 by its own order of codes, else by rising CODE. A bundle with a cause does not commit, and takes the fault with its due results landed, which is the model's reading (log entry 18).
R349: a slot with a result that would land with another in one register, in flight or of another slot, has the cause CLASS 0x02, CODE 0x0001, and with no cause of another class its bundle takes that fault; a result that lands alone collides with none. That results an EXIT of the bundle will discard collide too is the model's choice (log entry 79). -/
def Obligations.FaultPriority : Prop :=
  let classes : List Nat := [4, 1, 3, 5, 6, 7, 8, 9, 2]
  let codes : List Nat := [1, 3, 2, 4, 5, 6, 0xA, 0xB, 0xC, 0xD, 8, 9]
  let rising (l : List (Option Nat × Cause)) : Prop := l.Pairwise fun a b => ∀ j k, a.1 = some j → b.1 = some k → j ≤ k
  let collides (f g : Flight) : Prop := f.dest = g.dest ∧ f.cnt = g.cnt ∧ ∃ r sec, g.dest ∈ ([.g r, .p r, .v r sec, .m r sec, .w r sec, .xp r, .h r] : List Dest)
  (∀ (l : List (Option Nat × Cause)), (∀ p ∈ l, p.2.cls ∈ classes) → (bundleCause l = none ↔ l = []) ∧ ∀ c, bundleCause l = some c →
    (∃ a k d b, l = a ++ (k, d) :: b ∧ c = { d with slots := c.slots } ∧ (∀ p ∈ a, p.2.cls ≠ d.cls))
    ∧ (∀ p ∈ l, classes.idxOf c.cls ≤ classes.idxOf p.2.cls)
    ∧ ∀ k, c.slots.testBit k = true ↔ ∃ p ∈ l, p.1 = some k ∧ p.2.cls = c.cls)
  ∧ (∀ (l : List Cause), (∀ c ∈ l, c.cls ∈ classes ∧ (c.cls = 1 → c.code ∈ codes)) → (bestCause l = none ↔ l = []) ∧ ∀ c, bestCause l = some c →
    c ∈ l ∧ ∀ d ∈ l, classes.idxOf c.cls < classes.idxOf d.cls
      ∨ (c.cls = d.cls ∧ if c.cls = 1 then codes.idxOf c.code ≤ codes.idxOf d.code else c.code ≤ d.code))
  ∧ (∀ (slot : Nat) (l : List Cause) (c : Cause) (f : State → State) (s : State), bestCause l = some c →
    issueOp slot true [] l f s = .next (takeFault { c with slots := 1 <<< slot } s))
  ∧ (∀ (pre : State) (ops : List SlotOp) (branching : Bool), (ops.map (·.slot)).Pairwise (· < ·) → rising (issueCauses pre ops branching)
    ∧ ∀ o ∈ ops, ∀ c, bestCause ((crossCause pre ops o).toList ++ (slotCause pre o).toList) = some c → (some o.slot, c) ∈ issueCauses pre ops branching)
  ∧ (∀ (pre : State) (ops : List SlotOp) (o : SlotOp), o ∈ ops →
    let others := pre.ctx.flights ++ (ops.filter fun p => p.slot != o.slot).flatMap (slotFlights pre)
    (crossCause pre ops o = none ↔ ∀ g ∈ slotFlights pre o, ∀ f ∈ others, ¬ collides f g)
    ∧ ∀ c, crossCause pre ops o = some c → ∃ a g b, slotFlights pre o = a ++ g :: b ∧ (∃ f ∈ others, collides f g) ∧ (∀ h ∈ a, ∀ f ∈ others, ¬ collides f h)
      ∧ c = { cls := 2, code := 1, addr := g.dest.word, info := .ofNat 32 g.cnt })
  ∧ (∀ (ops : List SlotOp) (s : State),
    let pre := preBundle s
    let branching := ops.any fun o => isBranch o.instr
    ops.findSome? (slotStop pre) = none → bundleBlock (asReleased pre) ops = none →
    (∀ c, bundleCause (issueCauses (asReleased pre) ops branching) = some c → trySlots ops s = .bad c)
    ∧ ((∃ o ∈ ops, crossCause (asReleased pre) ops o ≠ none) → (∀ p ∈ issueCauses (asReleased pre) ops branching, p.2.cls = 2 ∧ p.2.code = 1) →
      ∃ c, c.cls = 2 ∧ c.code = 1 ∧ trySlots ops s = .bad c))
  ∧ (∀ (s : State) (c : Cause), settle s (.bad c) = .next (takeFault c (noteBlock (landDue (c.met s)))))

/-- R326, R384, R394: when the supervisor resumes a faulted context that is no member of a team, the context goes on exactly as it stood before the fault was taken, its registers and its results in flight included, so its faulting bundle issues again from its first syllable once the context's turn in the order of its core comes (R105), before which no pre-emption takes it; a bundle that could not be fetched is fetched again. It says where exec answers a next state for supervisorResume. -/
def Obligations.FaultReturn : Prop := ∀ (c k : Nat) (e : Cause) (s : State), isCore c = true → k < 4 → (getCtx s c k).frozen = some e →
  (∀ t, taskOf s (getCtx s c k).task = some t → t.team = false) →
  ∃ t, exec (.supervisorResume c k) s = .next t ∧ getCtx t c k = { getCtx s c k with frozen := none, block := some .thawed, retrying := true }
    ∧ (∀ j, j ≠ k → getCtx t c j = getCtx s c j) ∧ t.mem = s.mem ∧ t.hub = s.hub ∧ (getCore t c).scratch = (getCore s c).scratch
    ∧ (¬(e.cls = 4 ∧ (e.code = 3 ∨ e.code = 4)) → (getCore t c).icache = (getCore s c).icache)
    ∧ (e.cls = 4 → e.code = 3 ∨ e.code = 4 → icSyll (getCore t c) (getCtx s c k).func.toNat (getCtx s c k).pc.toNat = none)
    ∧ ∀ d, d ≠ c → getCore t d = getCore s d

/-- R104, R173: each result whose bundles have issued lands in the register that it names, whichever kind of register that is: in G, V, M, W, XP, H and ES over the bits of its mask, in a predicate its low bit, in a special register and a shape word whole; a register that no due result names keeps its value, and nothing else of the machine changes; the results not due stay in flight, each one bundle nearer at the end of a bundle. That they land at the next attempt to issue is the model's reading (log entry 18). -/
def Obligations.ResultsLand : Prop := ∀ (s : State),
  let c := s.ctx
  let k := s.core
  let t := landDue s
  let c' := t.ctx
  let k' := t.core
  let once (d : Dest) (f : Flight) : Prop := ∃ a b, c.due = a ++ f :: b ∧ f.dest = d ∧ ∀ h ∈ a ++ b, h.dest ≠ d
  let files : Prop := ∀ f ∈ c.due, ∀ r sec, f.dest = .v r sec ∨ f.dest = .m r sec ∨ f.dest = .w r sec → sec < 8
  let masked {w : Nat} (d : Dest) (old new : BitVec w) : Prop :=
    ((∀ f ∈ c.due, f.dest ≠ d) → new = old) ∧ ∀ f, once d f → ∀ i, i < w → new.getLsbD i = if f.mask.getLsbD i then f.val.getLsbD i else old.getLsbD i
  let whole {w : Nat} (d : Dest) (old new : BitVec w) : Prop := ((∀ f ∈ c.due, f.dest ≠ d) → new = old) ∧ ∀ f, once d f → new = f.val.setWidth w
  (twf 0 c.g = true → ∀ r, r ≠ 0 → masked (.g r) (c.G r) (c'.G r))
  ∧ (twf 0 c.v = true → files → ∀ r sec, sec < 8 → masked (.v r sec) (c.V r sec) (c'.V r sec))
  ∧ (twf 0 c.m = true → files → ∀ r sec, r ≠ 0 → sec < 8 → masked (.m r sec) (c.M r sec) (c'.M r sec))
  ∧ (twf 0 c.w = true → files → ∀ r sec, sec < 8 → masked (.w r sec) (c.W r sec) (c'.W r sec))
  ∧ (twf 0 c.xp = true → ∀ r, masked (.xp r) (c.XP r) (c'.XP r))
  ∧ (twf 0 c.h = true → ∀ r, masked (.h r) (c.H r) (c'.H r))
  ∧ (twf 0 c.es = true → ∀ r, masked (.es r) (c.ES r) (c'.ES r))
  ∧ (∀ r, r ≠ 0 → r < 16 → ((∀ f ∈ c.due, f.dest ≠ .p r) → c'.P r = c.P r) ∧ ∀ f, once (.p r) f → c'.P r = f.val.getLsbD 0)
  ∧ whole (.spec 1) c.tmpr c'.tmpr ∧ whole (.spec 2) c.rseed c'.rseed ∧ whole (.spec 3) c.rcnt c'.rcnt ∧ whole (.spec 9) c.domain c'.domain
  ∧ whole (.spec 12) c.backoff c'.backoff ∧ whole (.spec 15) c.savecfg c'.savecfg ∧ whole (.spec 13) k.tshare k'.tshare ∧ whole (.spec 14) k.cachecfg k'.cachecfg
  ∧ (twf 0 k.shapes = true → ∀ r, whole (.shape r) (k.shape r) (k'.shape r))
  ∧ c'.G 0 = 0 ∧ c'.P 0 = true ∧ (∀ sec, c'.M 0 sec = BitVec.allOnes 64)
  ∧ c'.flights = c.flights.filter (fun f => f.cnt != 0)
  ∧ t = { s with
      ctx := { c with g := c'.g, p := c'.p, v := c'.v, m := c'.m, w := c'.w, xp := c'.xp, h := c'.h, es := c'.es, tmpr := c'.tmpr, rseed := c'.rseed,
                      rcnt := c'.rcnt, domain := c'.domain, backoff := c'.backoff, savecfg := c'.savecfg, flights := c'.flights }
      core := { k with shapes := k'.shapes, tshare := k'.tshare, cachecfg := k'.cachecfg } }
  ∧ c.endBundle.flights = c.flights.map fun f => { f with cnt := f.cnt - 1 }

/-- R162: an S, M, LD, ST or E syllable whose guard does not hold changes nothing: outside delay bundles and in a context that follows no team lead (where a branch faults or follows the lead whatever its guard). -/
def Obligations.GuardOff : Prop := ∀ (i : Instr) (s : State) (t : BitVec 3), Encoding.tag i = some t → t ∉ [1, 2, 3] →
  sguard (Encoding.guardOf i) s.ctx = false → s.ctx.leadGuard = none → s.ctx.delay = 0 → exec i s = .next s

/-! ## Numbers -/

/-- R21, R22, R28, R30, Table 2-3, Table 2-6: a NaN rounds to the canonical one; infinities and zeros keep their sign, E4M3 taking its largest value and SATUR; RNE gives a nearest finite value, of two the one with the even code, and past half a place beyond the largest value an infinity, or the largest value and SATUR in E4M3 and E5M2; RZ gives the largest finite value that is not above the magnitude; SR chooses the value away from zero where the draw lies below the floor of 32,768 parts of the gap, and saturates where the one it chooses lies beyond. That a value on the grid beyond the largest saturates whatever the draw is log entry 70. -/
def Obligations.Rounding : Prop := ∀ (f : FFmt),
  let canon : Nat := match f with | .f32 => 0x7FC00000 | .f16 => 0x7E00 | .bf16 => 0x7FC0 | .e4m3 => 0x7F | .e5m2 => 0x7E
  let inf : Nat := match f with | .f32 => 0x7F800000 | .f16 => 0x7C00 | .bf16 => 0x7F80 | .e4m3 => 0x7E | .e5m2 => 0x7C
  let most : Nat := match f with | .f32 => 0x7F7FFFFF | .f16 => 0x7BFF | .bf16 => 0x7F7F | .e4m3 => 0x7E | .e5m2 => 0x7B
  let limit : Val := match f with
    | .f32 => .fin false (2 ^ 25 - 1) 103 | .f16 => .fin false (2 ^ 12 - 1) 4 | .bf16 => .fin false (2 ^ 9 - 1) 119 | .e4m3 => .fin false 29 4 | .e5m2 => .fin false 15 12
  let next : Val := match f with | .f32 => .fin false 1 128 | .f16 => .fin false 1 16 | .bf16 => .fin false 1 128 | .e4m3 => .fin false 15 5 | .e5m2 => .fin false 1 16
  let top : Nat := match f with | .f32 => 31 | .f16 => 15 | .bf16 => 15 | .e4m3 => 7 | .e5m2 => 7
  let narrow : Bool := decide (f = .e4m3) || decide (f = .e5m2)
  let sign (neg : Bool) : Nat := if neg then 2 ^ top else 0
  (∀ m, round f m .nan = ⟨canon, false⟩ ∧ (∀ neg, round f m (.inf neg) = ⟨sign neg + inf, decide (f = .e4m3)⟩) ∧ ∀ neg e, round f m (.fin neg 0 e) = ⟨sign neg, false⟩)
  ∧ ∀ (neg : Bool) (k : Nat) (e : Int),
    let x := Val.fin neg k e
    let off (c : Nat) : Val := ((f.value c).sub x).abs
    let past : Bool := if f = .e4m3 then limit.lt x.abs else !x.abs.lt limit
    let z := round f .rz x
    (past = true → round f .rne x = ⟨sign neg + (if narrow then most else inf), narrow⟩)
    ∧ (past = false → let r := round f .rne x
      r.satur = false ∧ r.code < 2 ^ (top + 1) ∧ (f.value r.code).isFin = true ∧ r.code.testBit top = neg
      ∧ ∀ c, c < 2 ^ (top + 1) → (f.value c).isFin = true →
        (off c).lt (off r.code) = false ∧ ((off c).eqv (off r.code) = true → (f.value c).eqv (f.value r.code) = true ∨ r.code % 2 = 0))
    ∧ (z.satur = (narrow && !x.abs.lt next) ∧ z.code < 2 ^ (top + 1) ∧ (f.value z.code).isFin = true ∧ z.code.testBit top = neg
      ∧ x.abs.lt (f.value z.code).abs = false
      ∧ ∀ c, c < 2 ^ (top + 1) → (f.value c).isFin = true → x.abs.lt (f.value c).abs = true ∨ (f.value z.code).abs.lt (f.value c).abs = false)
    ∧ ∀ u, u < 32768 → f ≠ .f32 →
      (x.abs.lt next = false → round f (.sr u) x = ⟨sign neg + most, true⟩)
      ∧ (x.abs.lt next = true →
        let last := decide (z.code % 2 ^ top = most)
        let lo := (f.value z.code).abs
        let hi := if last then next else (f.value (z.code + 1)).abs
        let up := !((Val.ofInt 32768).mul (x.abs.sub lo)).lt ((Val.ofInt ((u : Int) + 1)).mul (hi.sub lo))
        round f (.sr u) x = ⟨if up && !last then z.code + 1 else z.code, up && last⟩)

/-- R23 to R25, R27, R29, Table 11-2: a DS8 code is the sum of its two signed powers of two, and DS8 takes a nearest value, of two the smaller, and its lowest code, with SATUR beyond 2 and UNENC for NaN; PF16 takes the nearest of the 32,769 codes, ties to even; RNI and RZI round to an integer and saturate to their format; each row of Table 11-2 converts the exact value of its source.
R36: VBCVT scales its block by the first exponent at which no finite element rounds beyond the largest value, counted from the one that the largest element gives, at most three on and at most 127.
R57: the search takes the lowest index among the codewords of least distance, each step of it rounded to FP32, and sets UNENC where an element of the group is not finite or no distance is a number. -/
def Obligations.Conversions : Prop :=
  let off (a x : Val) : Val := (a.sub x).abs
  (∀ c, c < 256 → let p (s : Bool) (k : Nat) := Val.fin s 1 (-(k : Int))
    (ds8Val c).eqv ((p (c.testBit 7) (c / 16 % 8)).add (p (c.testBit 3) (c % 8))) = true)
  ∧ (toDs8 .nan = ⟨8, false, true⟩ ∧ (∀ neg, toDs8 (.inf neg) = ⟨if neg then 0x88 else 0, true, false⟩) ∧ ∀ (neg : Bool) (k : Nat) (e : Int),
    let x := Val.fin neg k e
    let r := toDs8 x
    ((Val.ofInt 2).lt x.abs = true → r = ⟨if neg then 0x88 else 0, true, false⟩)
    ∧ ((Val.ofInt 2).lt x.abs = false → r.code < 256 ∧ r.satur = false ∧ r.unenc = false
      ∧ ∀ c, c < 256 → (off (ds8Val c) x).lt (off (ds8Val r.code) x) = false
        ∧ ((off (ds8Val c) x).eqv (off (ds8Val r.code) x) = true → (ds8Val c).abs.lt (ds8Val r.code).abs = false
          ∧ ((ds8Val c).eqv (ds8Val r.code) = true → r.code ≤ c))))
  ∧ (pf16Val .nan = 0 ∧ pf16Val (.inf true) = 0 ∧ pf16Val (.inf false) = 0x8000 ∧ (∀ k e, pf16Val (.fin true k e) = 0) ∧ ∀ (k : Nat) (e : Int),
    let x := Val.fin false k e
    let n := pf16Val x
    let at_ (j : Nat) := off (.fin false j (-15)) x
    (x.lt (.ofInt 1) = false → n = 0x8000)
    ∧ (x.lt (.ofInt 1) = true → n ≤ 0x8000 ∧ ∀ j, j ≤ 0x8000 → (at_ j).lt (at_ n) = false ∧ ((at_ j).eqv (at_ n) = true → j = n ∨ n % 2 = 0)))
  ∧ (∀ (w : Nat) (signed : Bool), 0 < w →
    let lo : Int := if signed then -(2 ^ (w - 1) : Nat) else 0
    let hi : Int := if signed then (2 ^ (w - 1) : Nat) - 1 else (2 ^ w : Nat) - 1
    let clamped (n : Int) : Rounded := ⟨(Max.max lo (Min.min hi n) % (2 ^ w : Nat)).toNat, decide (n < lo) || decide (hi < n)⟩
    (∀ n, satI w signed n = clamped n)
    ∧ (∀ rz, toInt w signed rz .nan = ⟨0, true⟩ ∧ ∀ neg, toInt w signed rz (.inf neg) = ⟨((if neg then lo else hi) % (2 ^ w : Nat)).toNat, true⟩)
    ∧ (∀ (neg : Bool) (k : Nat) (e : Int),
      let x := Val.fin neg k e
      (∃ n : Int, toInt w signed false x = clamped n
        ∧ ∀ j : Int, (off (.ofInt j) x).lt (off (.ofInt n) x) = false ∧ ((off (.ofInt j) x).eqv (off (.ofInt n) x) = true → j = n ∨ n % 2 = 0))
      ∧ ∃ n : Int, toInt w signed true x = clamped n ∧ (n ≠ 0 → decide (n < 0) = neg) ∧ x.abs.lt (Val.ofInt n).abs = false
        ∧ ∀ j : Int, x.abs.lt (Val.ofInt j).abs = true ∨ (Val.ofInt n).abs.lt (Val.ofInt j).abs = false))
  ∧ (∀ (fs fd c : Nat) (m : RMode), fs ≤ 12 → c < 2 ^ Encoding.fmtWidth fs →
    let x : Val := if fs < 6 then .ofInt (intOf (Encoding.fmtWidth fs) (fs % 2 == 0) c) else if fs = 12 then .fin false (Min.min c 0x8000) (-15) else elemVal fs c
    let pfrng := fs == 12 && decide (0x8000 < c)
    (fd ∈ [6, 7, 9, 10, 11] → convert fs fd m c = ⟨(round (fmtOf fd) m x).code, (round (fmtOf fd) m x).satur, false, pfrng⟩)
    ∧ (fd = 8 → convert fs fd m c = ⟨(toDs8 x).code, (toDs8 x).satur, (toDs8 x).unenc, pfrng⟩)
    ∧ (fd = 12 → convert fs fd m c = ⟨pf16Val x, x.isNaN, false, pfrng⟩)
    ∧ (fd < 6 → fs < 6 → let r := satI (Encoding.fmtWidth fd) (fd % 2 == 0) (intOf (Encoding.fmtWidth fs) (fs % 2 == 0) c)
      convert fs fd m c = ⟨r.code, r.satur, false, false⟩)
    ∧ (fd < 6 → 6 ≤ fs → let r := toInt (Encoding.fmtWidth fd) (fd % 2 == 0) (m == .rz) x
      convert fs fd m c = ⟨r.code, r.satur, false, pfrng⟩))
  ∧ (∀ (f : FFmt) (v : List Val) (x0 : Int), f = .e4m3 ∨ f = .e5m2 →
    ((∀ a ∈ v, a.isFin = true → a.isZero = true) ∧ x0 = 0
      ∨ ∃ a ∈ v, ∃ l : Int, a.isFin = true ∧ (∀ b ∈ v, b.isFin = true → a.abs.lt b.abs = false) ∧ a.abs.lt (.fin false 1 l) = false ∧ a.abs.lt (.fin false 1 (l + 1)) = true
        ∧ x0 = Max.max (-127) (Min.min 127 (l - (if f = .e4m3 then 8 else 15)))) →
    let spills (y : Int) : Prop := ∃ a ∈ v, a.isFin = true ∧ (round f .rne (a.scale (-y))).satur = true
    ∃ x : Int, x0 ≤ x ∧ x ≤ x0 + 3 ∧ x ≤ 127 ∧ (∀ y, x0 ≤ y → y < x → spills y) ∧ (¬ spills x ∨ x = x0 + 3 ∨ x = 127)
      ∧ bcvt f v = (v.map fun a => (round f .rne (a.scale (-x))).code, (x + 127).toNat, v.any fun a => (round f .rne (a.scale (-x))).satur))
  ∧ (∀ (qs : List (List Val)) (v : List Val),
    let d (c : Nat) : Val := dist v (qs.getD c [])
    ((∃ x ∈ v, x.isFin = false) → search qs v = (0, true))
    ∧ ((∀ x ∈ v, x.isFin = true) → (∀ c, c < qs.length → (d c).isNaN = true) → search qs v = (0, true))
    ∧ ∀ c, (∀ x ∈ v, x.isFin = true) → c < qs.length → (d c).isNaN = false →
      (∀ j, j < qs.length → (d j).isNaN = false → (d j).lt (d c) = false ∧ (j < c → (d c).lt (d j) = true)) → search qs v = (c, false))
  ∧ dist [] [] = Val.fin false 0 0
  ∧ (∀ (v q : List Val) (x y : Val), v.length = q.length →
    let e := rv32 (x.sub y)
    dist (v ++ [x]) (q ++ [y]) = rv32 ((dist v q).add (rv32 (e.mul e))))
  ∧ (∀ (b : Book) (c i : Nat), c < 2 ^ b.w → i < b.d → (b.rounded.getD c []).getD i .nan
    = rv32 (if b.scale = 0xFF then .nan else (elemVal b.fmt (b.code c i)).scale ((b.scale : Int) - 127)))

/-! ## Scalar instructions -/

/-- Table 10-2: the integer instructions, register and immediate forms.
R202: division and remainder, a zero divisor setting DIVZ. -/
def Obligations.IntegerResults : Prop :=
  (∀ (s : State),
    (∀ o : SR, sguard o.guard s.ctx = true →
      let a := s.ctx.G o.ga.toNat
      let b := s.ctx.G o.gb.toNat
      let n := nx b % 64
      ∀ r ∈ ([
        (.add o, 1, .ofNat 64 (nx a + nx b)), (.sub o, 1, .ofInt 64 (nx a - nx b : Int)), (.mul o, 3, .ofNat 64 (nx a * nx b)),
        (.mulh o, 3, .ofInt 64 (sx a * sx b / 2 ^ 64)), (.mulhx o, 3, .ofNat 64 (nx a * nx b / 2 ^ 64)),
        (.and o, 1, a &&& b), (.or o, 1, a ||| b), (.xor o, 1, a ^^^ b),
        (.shl o, 1, .ofNat 64 (nx a * 2 ^ n)), (.shr o, 1, .ofNat 64 (nx a / 2 ^ n)), (.sra o, 1, .ofInt 64 (sx a / 2 ^ n)),
        (.min o, 1, .ofInt 64 (Min.min (sx a) (sx b))), (.max o, 1, .ofInt 64 (Max.max (sx a) (sx b))),
        (.minx o, 1, .ofNat 64 (Min.min (nx a) (nx b))), (.maxx o, 1, .ofNat 64 (Max.max (nx a) (nx b))),
        (.clz o, 1, .ofNat 64 (64 - Nat.size (nx a))), (.popc o, 1, .ofNat 64 ((List.range 64).countP fun i => a.getLsbD i))]
        : List (Instr × Nat × Word)),
        Puts r.1 s (putG o.gd.toNat r.2.2 r.2.1))
    ∧ (∀ o : SI, sguard o.guard s.ctx = true →
      let a := s.ctx.G o.ga.toNat
      let n := nx (o.imm.setWidth 64) % 64
      ∀ r ∈ ([
        (.addi o, .ofInt 64 (nx a + o.imm.toInt)), (.andi o, a &&& o.imm.setWidth 64), (.ori o, a ||| o.imm.setWidth 64),
        (.xori o, a ^^^ o.imm.setWidth 64), (.shli o, .ofNat 64 (nx a * 2 ^ n)), (.shri o, .ofNat 64 (nx a / 2 ^ n)),
        (.srai o, .ofInt 64 (sx a / 2 ^ n))] : List (Instr × Word)),
        Puts r.1 s (putG o.gd.toNat r.2 1)))
  ∧ (∀ (o : SR) (s : State), sguard o.guard s.ctx = true →
    let a := s.ctx.G o.ga.toNat
    let b := s.ctx.G o.gb.toNat
    let zero := fun c : Context => { c with status := c.status ||| 0x20 }
    (b = 0 → ∀ r ∈ ([(.div o, .allOnes 64), (.divx o, .allOnes 64), (.rem o, a), (.remx o, a)] : List (Instr × Word)),
      PutsWith r.1 s (putG o.gd.toNat r.2 20) zero)
    ∧ (b ≠ 0 → ∀ r ∈ ([(.div o, .ofInt 64 ((sx a).tdiv (sx b))), (.rem o, .ofInt 64 ((sx a).tmod (sx b))), (.divx o, .ofNat 64 (nx a / nx b)),
        (.remx o, .ofNat 64 (nx a % nx b))] : List (Instr × Word)),
      Puts r.1 s (putG o.gd.toNat r.2 20)))

/-- R203, R204: constants and selects.
R205, R206, R208: a compare writes its condition and the complement, each ANDed with P[pa]; CMPI its condition alone; PLOGIC the function that SUB names. -/
def Obligations.ConstantsSelectsAndPredicates : Prop :=
  (∀ (s : State),
    (∀ o : SL, sguard o.guard s.ctx = true →
      Puts (.li o) s (putG o.gd.toNat (.ofInt 64 o.imm.toInt) 1)
      ∧ Puts (.lih o) s (putG o.gd.toNat (.ofNat 64 (o.imm.toNat % 2 ^ 23 * 2 ^ 41 + nx (s.ctx.G o.gd.toNat) % 2 ^ 41)) 1))
    ∧ (∀ o : SR, sguard o.guard s.ctx = true →
      let a := s.ctx.G o.ga.toNat
      let b := s.ctx.G o.gb.toNat
      let m := s.ctx.G o.gc.toNat
      Puts (.selPred o) s (putG o.gd.toNat (if s.ctx.P o.pa.toNat then a else b) 1)
      ∧ Puts (.selBits o) s (putG o.gd.toNat ((a &&& m) ||| (b &&& ~~~m)) 1)))
  ∧ (∀ (s : State),
    (∀ (o : SR), sguard o.guard s.ctx = true →
      let a := s.ctx.G o.ga.toNat
      let b := s.ctx.G o.gb.toNat
      let x := val32 (nx a % 2 ^ 32)
      let y := val32 (nx b % 2 ^ 32)
      let p := s.ctx.P o.pa.toNat
      let q := s.ctx.P o.pb.toNat
      (∀ r ∈ ([(0, a == b), (1, a != b), (2, decide (sx a < sx b)), (3, decide (sx b ≤ sx a)), (4, decide (nx a < nx b)),
          (5, decide (nx b ≤ nx a))] : List (Nat × Bool)), o.sub.toNat = r.1 →
        Puts (.cmp o) s (putP o.pd.toNat (r.2 && p) 1 ++ putP o.pb.toNat (!r.2 && p) 1))
      ∧ (∀ r ∈ ([(0, x.eqv y), (1, x.lt y), (2, x.lt y || x.eqv y), (3, x.isNaN || y.isNaN)] : List (Nat × Bool)), o.sub.toNat = r.1 →
        Puts (.fcmp o) s (putP o.pd.toNat (r.2 && p) 2 ++ putP o.pb.toNat (!r.2 && p) 2))
      ∧ (∀ r ∈ ([(0, p && q), (1, p || q), (2, p ^^ q), (3, p && !q), (4, p || !q), (5, !(p && q)), (6, !(p || q)), (7, !(p ^^ q))]
          : List (Nat × Bool)), o.sub.toNat = r.1 → Puts (.plogic o) s (putP o.pd.toNat r.2 1)))
    ∧ (∀ (o : SI), sguard o.guard s.ctx = true →
      let a := s.ctx.G o.ga.toNat
      let b : Word := .ofInt 64 o.imm.toInt
      ∀ r ∈ ([(0, a == b), (1, a != b), (2, decide (sx a < sx b)), (3, decide (sx b ≤ sx a)), (4, decide (nx a < nx b)),
          (5, decide (nx b ≤ nx a))] : List (Nat × Bool)), o.sub.toNat = r.1 →
        Puts (.cmpi o) s (putP (o.gd.toNat % 16) r.2 1)))

/-- R31, R207: the FP32 instructions compute exactly and round once; the result fills bits 31:0 and clears the rest. FMIN and FMAX give the smaller or larger operand, −0 below +0 and the first of two equal ones; where one operand is NaN they give the other, and where both are they give the canonical NaN. No flag changes.
R209: each conversion of Table 10-4; the integer conversions alone may set SATUR. How a value rounds is Rounding, and what an integer conversion gives is Conversions. -/
def Obligations.ScalarFloatAndConversions : Prop :=
  (∀ (o : SR) (s : State), sguard o.guard s.ctx = true →
    let x (r : BitVec 6) : Val := val32 (nx (s.ctx.G r.toNat) % 2 ^ 32)
    (∀ r ∈ ([(.fadd o, (x o.ga).add (x o.gb)), (.fsub o, (x o.ga).sub (x o.gb)), (.fmul o, (x o.ga).mul (x o.gb)),
        (.ffma o, ((x o.ga).mul (x o.gb)).add (x o.gc))] : List (Instr × Val)),
      Puts r.1 s (putG o.gd.toNat (.ofNat 64 (rne32 r.2 % 2 ^ 32)) 4))
    ∧ (∀ r ∈ ([(.fmin o, false), (.fmax o, true)] : List (Instr × Bool)),
      let p := nx (s.ctx.G o.ga.toNat) % 2 ^ 32
      let q := nx (s.ctx.G o.gb.toNat) % 2 ^ 32
      let under (a b : Val) : Bool := a.lt b || (a.isZero && b.isZero && a.isNeg && !b.isNeg)
      Puts r.1 s (putG o.gd.toNat (.ofNat 64 (
        if (val32 p).isNaN then (if (val32 q).isNaN then 0x7FC00000 else q)
        else if (val32 q).isNaN then p
        else if r.2 then (if under (val32 p) (val32 q) then q else p) else if under (val32 q) (val32 p) then q else p)) 4)))
  ∧ (∀ (o : SR) (s : State), sguard o.guard s.ctx = true →
    let a := s.ctx.G o.ga.toNat
    let w : BitVec 32 := a.setWidth 32
    let h := nx a % 2 ^ 16
    let x := val32 w.toNat
    let int (r : Rounded) (signed : Bool) : Word × Bool := (if signed then (BitVec.ofNat 32 r.code).signExtend 64 else .ofNat 64 r.code, r.satur)
    ∀ r ∈ ([(0, .ofNat 64 (rne32 (.ofInt w.toInt)), false), (1, .ofNat 64 (rne32 (.ofInt w.toNat)), false),
        (2, .ofNat 64 (rne32 (FFmt.f16.value h)), false), (3, .ofNat 64 (rne32 (FFmt.bf16.value h)), false),
        (4, int (toInt 32 true false x) true), (5, int (toInt 32 false false x) false), (6, int (toInt 32 true true x) true),
        (7, int (toInt 32 false true x) false), (8, .ofNat 64 (round .f16 .rne x).code, false), (9, .ofNat 64 (round .bf16 .rne x).code, false)]
        : List (Nat × Word × Bool)), o.sub.toNat = r.1 →
      PutsWith (.fcvt o) s (putG o.gd.toNat r.2.1 4) (fun c => if r.2.2 then { c with status := c.status ||| 1 } else c))

/-- R181, R210, R348: outside delay bundles a branch whose guard holds takes its target and writes its link (a member of a team behind the lead follows the lead's guard); in a delay bundle it faults whatever its guard, and INFO gives the position.
R181: the two delay bundles issue, then the target; a branch that is not taken goes on in sequence. -/
def Obligations.BranchesAndDelayBundles : Prop :=
  (∀ (o : SB) (p : SR) (s : State),
    let link : Word := s.ctx.pc + .ofNat 64 (s.ctx.len + s.ctx.delayLen)
    let dest : Word := s.ctx.pc + 8 * .ofInt 64 o.off.toInt
    let taken (g : Guard) : Prop := s.ctx.leadGuard.getD (sguard g s.ctx) = true
    (s.ctx.delay = 0 →
      (taken o.guard →
        exec (.br o) s = .next { s with ctx := { s.ctx with target := some dest } }
        ∧ PutsWith (.brl o) s (putG o.link.toNat link 1) (fun c => { c with target := some dest }))
      ∧ (taken p.guard →
        PutsWith (.jr p) s (putG p.gd.toNat link 1) (fun c => { c with target := some (s.ctx.G p.ga.toNat &&& ~~~7) })))
    ∧ (s.ctx.delay ≠ 0 → ∀ i ∈ [Instr.br o, .brl o, .jr p],
      exec i s = .next (takeFault { cls := 1, code := 8, slots := 1, addr := encode i, info := .ofNat 32 s.ctx.delay } s)))
  ∧ (∀ (c : Context) (t : Word) (l1 l2 l3 : Nat),
    c.delay = 0 → c.act0 = false → c.act1 = false → c.jump = none → c.target = some t →
    let c1 := ({ c with len := l1 } : Context).advance true
    let c2 := ({ c1 with len := l2 } : Context).advance false
    let c3 := ({ c2 with len := l3 } : Context).advance false
    c1.pc = c.pc + .ofNat 64 l1 ∧ c1.delay = 1 ∧ c2.pc = c.pc + .ofNat 64 l1 + .ofNat 64 l2 ∧ c2.delay = 2
    ∧ c3.pc = t ∧ c3.delay = 0 ∧ c3.target = none)
  ∧ (∀ (c : Context) (branching : Bool), c.act0 = false → c.act1 = false → c.jump = none → c.target = none →
    let c' := c.advance branching
    c'.pc = c.pc + .ofNat 64 c.len ∧ c'.target = none ∧ c'.delay = if branching then 1 else if c.delay = 1 then 2 else 0)

/-- R182, R211, R348: LOOP sets up its level and makes it active; with count 0 it goes to the bundle after the end bundle, once that bundle's length is known, and the level is inactive; in a delay bundle it faults.
R182: with a count of n + 1, the end test at LE0 sends control back to LS0 n times and then lets it pass, the level inactive and LC0 zero, and so does the one of level 1 at LE1 where level 0 does not end there; where both levels end on one bundle, level 0 is tested first, and level 1 on the passes that level 0 lets by. -/
def Obligations.Loops : Prop :=
  (∀ (o : SI) (s : State),
    let cnt : BitVec 32 := (s.ctx.G o.ga.toNat).setWidth 32
    let ls : Word := s.ctx.pc + .ofNat 64 s.ctx.len
    let le : Word := s.ctx.pc + 8 * .ofInt 64 o.imm.toInt
    let runs : Prop := s.ctx.leadGuard.getD (sguard o.guard s.ctx) = true
    (s.ctx.delay = 0 → runs → cnt ≠ 0 →
      (o.gd = 0 → exec (.loop o) s = .next { s with ctx := { s.ctx with ls0 := ls, le0 := le, lc0 := cnt, act0 := true } })
      ∧ (o.gd = 1 → exec (.loop o) s = .next { s with ctx := { s.ctx with ls1 := ls, le1 := le, lc1 := cnt, act1 := true } }))
    ∧ (∀ n, s.ctx.delay = 0 → runs → cnt = 0 → bundleLen s.core s.ctx.func.toNat le = some n →
      let after : Option Word := some (le + .ofNat 64 n)
      (o.gd = 0 → exec (.loop o) s = .next { s with ctx := { s.ctx with ls0 := ls, le0 := le, act0 := false, jump := after } })
      ∧ (o.gd = 1 → exec (.loop o) s = .next { s with ctx := { s.ctx with ls1 := ls, le1 := le, act1 := false, jump := after } }))
    ∧ (s.ctx.delay ≠ 0 →
      exec (.loop o) s = .next (takeFault { cls := 1, code := 8, slots := 1, addr := encode (.loop o), info := .ofNat 32 s.ctx.delay } s)))
  ∧ (∀ (n : Nat) (c : Context),
    c.act0 = true → c.act1 = false → c.delay = 0 → c.jump = none → c.lc0.toNat = n + 1 →
    let pass : Context → Context := fun c => ({ c with pc := c.le0 } : Context).advance false
    (∀ k, k < n → (pass^[k + 1] c).pc = c.ls0 ∧ (pass^[k + 1] c).act0 = true)
    ∧ (pass^[n + 1] c).pc = c.le0 + .ofNat 64 c.len ∧ (pass^[n + 1] c).act0 = false ∧ (pass^[n + 1] c).lc0 = 0)
  ∧ (∀ (n : Nat) (c : Context),
    c.act1 = true → (c.act0 = false ∨ c.le0 ≠ c.le1) → c.delay = 0 → c.jump = none → c.lc1.toNat = n + 1 →
    let pass : Context → Context := fun c => ({ c with pc := c.le1 } : Context).advance false
    (∀ k, k < n → (pass^[k + 1] c).pc = c.ls1 ∧ (pass^[k + 1] c).act1 = true)
    ∧ (pass^[n + 1] c).pc = c.le1 + .ofNat 64 c.len ∧ (pass^[n + 1] c).act1 = false ∧ (pass^[n + 1] c).lc1 = 0
    ∧ ∀ k, (pass^[k] c).act0 = c.act0 ∧ (pass^[k] c).lc0 = c.lc0)
  ∧ (∀ c : Context, c.act0 = true → c.act1 = true → c.le0 = c.le1 → c.pc = c.le0 → c.delay = 0 → c.jump = none →
    let c' := c.advance false
    (1 < c.lc0.toNat → c'.pc = c.ls0 ∧ c'.lc0 = c.lc0 - 1 ∧ c'.act0 = true ∧ c'.lc1 = c.lc1 ∧ c'.act1 = true)
    ∧ (c.lc0.toNat ≤ 1 → c'.lc0 = 0 ∧ c'.act0 = false
      ∧ (1 < c.lc1.toNat → c'.pc = c.ls1 ∧ c'.lc1 = c.lc1 - 1 ∧ c'.act1 = true)
      ∧ (c.lc1.toNat ≤ 1 → c'.pc = c.pc + .ofNat 64 c.len ∧ c'.lc1 = 0 ∧ c'.act1 = false)))

/-- R200, R185, R183, R212, R213, R215: NOP and a hint change nothing; EXIT retires at the end of its bundle; YIELD blocks once where another context is ready, else it is a NOP; TICK reads the tick. -/
def Obligations.ControlAndTick : Prop := ∀ (o : SR) (f : HF) (s : State),
  exec (.nop o) s = .next s ∧ exec (.hint f) s = .next s
  ∧ (s.ctx.leadGuard.getD (sguard o.guard s.ctx) = true → exec (.exit o) s = .next { s with ctx := { s.ctx with exiting := true } })
  ∧ (sguard o.guard s.ctx = true →
    Puts (.tick o) s (putG o.gd.toNat s.tick 1)
    ∧ (s.ctx.yielded = true ∨ inTeam s = true ∨ otherReady s = false → exec (.yield o) s = .next s)
    ∧ (s.ctx.yielded = false → inTeam s = false → otherReady s = true → exec (.yield o) s = .next (blockOn .yield s)))

/-- R174, R214, Tables 8-5 to 8-7: SRD reads each special register, zero-extended.
R174, R186, R211, R214, R353: SWR clears the flags of STATUS written 1, sets a loop counter at once, puts another writable register in flight for the next bundle, and ignores RO registers; to an RWS register from a task it writes a privilege record and changes no register. -/
def Obligations.SpecialRegisters : Prop :=
  (∀ (o : SI) (s : State), sguard o.guard s.ctx = true →
    ∀ r ∈ ([(0, s.ctx.status.setWidth 64), (1, s.ctx.tmpr.setWidth 64), (2, s.ctx.rseed), (3, s.ctx.rcnt.setWidth 64), (4, .ofNat 64 s.ctxId),
        (5, .ofNat 64 s.coreId), (6, .ofNat 64 (clusterOf s.coreId)), (7, .ofNat 64 (dieOf s.coreId)), (8, s.ctx.teampos.setWidth 64), (9, s.ctx.domain), (10, s.ctx.stepno),
        (11, 1), (12, s.ctx.backoff.setWidth 64), (13, s.core.tshare), (14, s.core.cachecfg), (15, s.ctx.savecfg),
        (16, s.ctx.lc0.setWidth 64), (17, s.ctx.lc1.setWidth 64)] : List (Nat × Word)),
      o.imm.toNat % 256 = r.1 → Puts (.srd o) s (putG o.gd.toNat r.2 1))
  ∧ (∀ (o : SI) (s : State), sguard o.guard s.ctx = true →
    let n := o.imm.toNat % 256
    let v := s.ctx.G o.ga.toNat
    (n = 0 → exec (.swr o) s = .next { s with ctx := { s.ctx with status := s.ctx.status &&& ~~~v.setWidth 8 } })
    ∧ (n = 16 → exec (.swr o) s = .next { s with ctx := { s.ctx with lc0 := v.setWidth 32 } })
    ∧ (n = 17 → exec (.swr o) s = .next { s with ctx := { s.ctx with lc1 := v.setWidth 32 } })
    ∧ (n ∈ [1, 3, 12] → exec (.swr o) s = .next { s with ctx := s.ctx.fly (putReg (.spec n) ((v.setWidth 32).setWidth 64) 1) })
    ∧ (n = 2 → exec (.swr o) s = .next { s with ctx := s.ctx.fly (putReg (.spec n) v 1) })
    ∧ (n ∈ [4, 5, 6, 7, 8, 10, 11] → exec (.swr o) s = .next s)
    ∧ (∀ r ∈ ([(9, 0x7FFFF), (13, 0x00FFFFFFFFFFFFFF), (14, 0x000007FF07FF0003), (15, 0x01FFFFFFFFFFFFFF)] : List (Nat × Word)), n = r.1 →
      (s.ctx.supv = true → exec (.swr o) s = .next { s with ctx := s.ctx.fly (putReg (.spec n) (v &&& r.2) 1) })
      ∧ (s.ctx.supv = false → ∃ t, exec (.swr o) s = .next t ∧ t.ctx = s.ctx ∧ t.core = s.core ∧ t.cores = s.cores ∧
          t = report (srcCtx s.coreId s.ctxId) s.ctx.func.toNat (dieOf s.coreId) s.ctx.pc
            { cls := 3, code := 3, slots := 1, addr := .ofNat 64 n, info := v.setWidth 32 } s)))

/-- R177, R178, R214, R216: STG and XPSET write their registers; TSET writes the shape word of a tile that the context owns and whose image fits; SVC posts a call record on a ring that is valid, local and of slots of at least 64 bytes. What TSET leaves in ADDR and INFO is log entry 24. -/
def Obligations.StagingAndCalls : Prop := ∀ (s : State),
  (∀ o : SR, sguard o.guard s.ctx = true →
    let v := s.ctx.G o.ga.toNat
    exec (.stg o) s = .next { s with ctx := s.ctx.fly (putReg (.es (o.gd.toNat % 16)) v 1) }
    ∧ Puts (.xpset o) s (putReg (.xp (o.gd.toNat % 16)) v 1)
    ∧ (shFmt v ≤ 12 → shBytes v ≤ 65536 → tileOwner s.core (o.gd.toNat % 16) = s.ctxId →
      exec (.tset o) s = .next { s with ctx := s.ctx.fly (putReg (.shape (o.gd.toNat % 16)) (v &&& 0x7FFFFF) 1) })
    ∧ (shFmt v ≤ 12 → shBytes v ≤ 65536 → tileOwner s.core (o.gd.toNat % 16) ≠ s.ctxId →
      exec (.tset o) s = .next (takeFault { cls := 3, code := 4, slots := 1, addr := .ofNat 64 (0x700 + o.gd.toNat % 16), info := .ofNat 32 (s.core.tshare.toNat % 2 ^ 32) } s)))
  ∧ (∀ o : SI, sguard o.guard s.ctx = true →
    let r := o.gd.toNat % 16
    let q := s.ctx.Q r
    (qLocal q = true → 64 ≤ qSize q → ∃ c : Call, exec (.svc o) s = .next { s with hub := { s.hub with calls := s.hub.calls ++ [c] } }
      ∧ c.core = s.coreId ∧ c.ctxId = s.ctxId ∧ c.ring = r ∧ bits c.lr.toNat 63 0 = s.tick.toNat
      ∧ bits c.lr.toNat 79 64 = srcCtx s.coreId s.ctxId % 2 ^ 16 ∧ bits c.lr.toNat 84 80 = s.ctx.func.toNat
      ∧ bits c.lr.toNat 127 96 = o.imm.toNat ∧ bits c.lr.toNat 191 128 = (s.ctx.G o.ga.toNat).toNat)
    ∧ (qLocal q = false → exec (.svc o) s = .next (takeFault { cls := 1, code := 0xD, slots := 1, addr := encode (.svc o), info := .ofNat 32 r } s)))

/-! ## Vector instructions -/

/-- R162, R171, R218: when the results of a vector operation land, element `e` of section `sec` of the register holds its value where the operation enables it, every other element and every other register keeps its own. -/
def Obligations.ElementsLand : Prop := ∀ (c : Context) (vd w n l : Nat) (en : Nat → Nat → Bool) (f : Nat → Nat → Nat),
  0 < w → w * n = 512 → twf 0 c.v = true →
  let c' := (vresults vd w n en f l).foldl Context.land c
  (∀ sec e, sec < 8 → e < n → elt (c'.V vd sec) w e = if en sec e then f sec e % 2 ^ w else elt (c.V vd sec) w e)
  ∧ (∀ r sec, r ≠ vd → sec < 8 → c'.V r sec = c.V r sec)
  ∧ c'.g = c.g ∧ c'.p = c.p ∧ c'.m = c.m ∧ c'.w = c.w ∧ c'.xp = c.xp ∧ c'.h = c.h ∧ c'.es = c.es ∧ c'.status = c.status

/-- R219, R220: the integer instructions compute each enabled element exactly and wrap it to the width; operand b is a register element or the sign-extended immediate. VMIN and VMAX on the floating formats 9 to 11 give the canonical NaN where either operand is NaN, and order −0 below +0. No flag changes. -/
def Obligations.VectorIntegers : Prop := ∀ (o : VF) (s : State),
  let w := Encoding.fmtWidth o.fmt.toNat
  let x (r : BitVec 5) (sec e : Nat) : Nat := elt (s.ctx.V r.toNat sec) w e
  let b (sec e : Nat) : Nat := if o.i then ((Encoding.imm16 o).signExtend 32).toNat % 2 ^ w else x o.vb sec e
  let en (sec e : Nat) : Bool := (vguard o.guard s.ctx sec).getLsbD e
  let z : Nat → Int := intVal o.fmt.toNat
  (∀ r ∈ ([(.vadd o, fun p q _ => p + q), (.vsub o, fun p q _ => p - q), (.vmul o, fun p q _ => p * q),
      (.vmulh o, fun p q _ => p * q / (2 ^ w : Nat)), (.vmac o, fun p q r => p * q + r), (.vabs o, fun p _ _ => |p|), (.vneg o, fun p _ _ => -p)]
      : List (Instr × (Int → Int → Int → Int))),
    Puts r.1 s (vresults o.vd.toNat w (512 / w) en (fun sec e => wrapI w (r.2 (z (x o.va sec e)) (z (b sec e)) (z (x o.vc sec e)))) 2))
  ∧ (∀ r ∈ ([(.vshl o, fun p q => (p * 2 ^ (q % w)) % 2 ^ w), (.vshr o, fun p q => p / 2 ^ (q % w)),
      (.vsra o, fun p q => wrapI w (intOf w true p / (2 ^ (q % w) : Nat))), (.vand o, fun p q => p &&& q), (.vor o, fun p q => p ||| q),
      (.vxor o, fun p q => p ^^^ q), (.vnot o, fun p _ => 2 ^ w - 1 - p), (.vmov o, fun p _ => p)] : List (Instr × (Nat → Nat → Nat))),
    Puts r.1 s (vresults o.vd.toNat w (512 / w) en (fun sec e => r.2 (x o.va sec e) (b sec e)) 2))
  ∧ (o.fmt.toNat < 6 → ∀ r ∈ ([(.vmin o, Min.min), (.vmax o, Max.max)] : List (Instr × (Int → Int → Int))),
    Puts r.1 s (vresults o.vd.toNat w (512 / w) en (fun sec e => wrapI w (r.2 (z (x o.va sec e)) (z (b sec e)))) 2))
  ∧ (9 ≤ o.fmt.toNat → o.fmt.toNat ≤ 11 → ∀ r ∈ ([(.vmin o, false), (.vmax o, true)] : List (Instr × Bool)),
    let v := elemVal o.fmt.toNat
    let under (p q : Nat) : Bool := (v p).lt (v q) || ((v p).isZero && (v q).isZero && (v p).isNeg && !(v q).isNeg)
    Puts r.1 s (vresults o.vd.toNat w (512 / w) en (fun sec e =>
      let p := x o.va sec e
      let q := b sec e
      if (v p).isNaN || (v q).isNaN then (if o.fmt.toNat = 9 then 0x7E00 else if o.fmt.toNat = 10 then 0x7FC0 else 0x7FC00000)
      else if r.2 then (if under p q then q else p) else if under q p then q else p) 2))

/-- R220, R221: compares to a mask clear the mask's bits from the element count up in every section; VSEL chooses by a mask; the broadcasts, VINS, VEXT and VIOTA place elements.
R21: a NaN element that VBCAST, VINS or VEXT moves is written as the canonical one of its format; that VSEL and VMOV alone move its bits is the model's reading (log entry 69).
R27: a PF16 code above 0x8000 that they move is written as 0x8000; no flag changes. -/
def Obligations.VectorMoves : Prop := ∀ (o : VF) (s : State),
  let w := Encoding.fmtWidth o.fmt.toNat
  let n := 512 / w
  let x (r : BitVec 5) (sec e : Nat) : Nat := elt (s.ctx.V r.toNat sec) w e
  let b (sec e : Nat) : Nat := if o.i then ((Encoding.imm16 o).signExtend 32).toNat % 2 ^ w else x o.vb sec e
  let en (sec e : Nat) : Bool := (vguard o.guard s.ctx sec).getLsbD e
  let z : Nat → Int := intVal o.fmt.toNat
  let k := (Encoding.imm16 o).toNat % 64
  let nan : Nat := match o.fmt.toNat with | 6 => 0x7F | 7 => 0x7E | 9 => 0x7E00 | 10 => 0x7FC0 | _ => 0x7FC00000
  let moved (r : BitVec 5) (sec e : Nat) : Nat :=
    if o.fmt.toNat ∈ [6, 7, 9, 10, 11] ∧ (elemVal o.fmt.toNat (x r sec e)).isNaN = true then nan else if o.fmt.toNat = 12 then Min.min (x r sec e) 0x8000 else x r sec e
  (∀ r ∈ ([(0, fun p q => p == q), (1, fun p q => p != q), (2, fun p q => decide (p < q)), (3, fun p q => decide (p ≤ q))]
      : List (Nat × (Int → Int → Bool))), Encoding.vsub o = r.1 →
    Puts (.vcmp o) s (mresults (o.vd.toNat % 8) n en (fun sec e => r.2 (z (x o.va sec e)) (z (b sec e))) 2))
  ∧ (∀ r ∈ ([(.vsel o, fun sec e => if (s.ctx.M (Encoding.xa o) sec).getLsbD e then x o.va sec e else x o.vb sec e),
      (.vbcastElem o, fun sec _ => moved o.va sec k), (.vbcastImm o, fun _ _ => ((Encoding.imm16 o).signExtend 32).toNat),
      (.vbcastHi o, fun _ _ => (Encoding.imm16 o).toNat * 2 ^ (w - 16)), (.viota o, fun _ e => ((Encoding.imm16 o).signExtend 32).toNat + e)]
      : List (Instr × (Nat → Nat → Nat))),
    Puts r.1 s (vresults o.vd.toNat w n en r.2 2))
  ∧ Puts (.vins o) s (vresults o.vd.toNat w n (fun sec e => en sec e && e == k) (fun sec _ => moved o.va sec 0) 2)
  ∧ Puts (.vext o) s (vresults o.vd.toNat w n en (fun sec e => if e = 0 then moved o.va sec k else 0) 3)

/-- R31, R222: the floating instructions compute each enabled element exactly and round it once by RNE of the element format; VFMIN and VFMAX give the smaller or larger operand, −0 below +0 and the first of two equal ones, the other operand where one is NaN, and the canonical NaN where both are; VFCMP follows R222. No flag changes.
R36, R223, R224: VCVT converts each enabled element by Table 11-2, a change of width filling or reading one part of the section, and raises the flags of the enabled elements; VCVT.sr advances RCNT; VBCVT writes 32 codes and the scale of each section whose guard bit 0 holds. What `convert` and `bcvt` give is Conversions, and how a value rounds is Rounding (with log entry 70); that RWRAP is not set in a bundle that has written RCNT is log entry 19. -/
def Obligations.VectorFloatsAndConversions : Prop :=
  (∀ (o : VF) (s : State), o.i = false →
    let f := fmtOf o.fmt.toNat
    let w := Encoding.fmtWidth o.fmt.toNat
    let n := 512 / w
    let x (r : BitVec 5) (sec e : Nat) : Nat := elt (s.ctx.V r.toNat sec) w e
    let v (r : BitVec 5) (sec e : Nat) : Val := elemVal o.fmt.toNat (x r sec e)
    let en (sec e : Nat) : Bool := (vguard o.guard s.ctx sec).getLsbD e
    (∀ r ∈ ([(.vfadd o, fun p q _ => p.add q), (.vfsub o, fun p q _ => p.sub q), (.vfmul o, fun p q _ => p.mul q),
        (.vfma o, fun p q r => (p.mul q).add r)] : List (Instr × (Val → Val → Val → Val))),
      Puts r.1 s (vresults o.vd.toNat w n en (fun sec e => (round f .rne (r.2 (v o.va sec e) (v o.vb sec e) (v o.vc sec e))).code) 4))
    ∧ (∀ r ∈ ([(.vfmin o, false), (.vfmax o, true)] : List (Instr × Bool)),
      let under (a b : Val) : Bool := a.lt b || (a.isZero && b.isZero && a.isNeg && !b.isNeg)
      Puts r.1 s (vresults o.vd.toNat w n en (fun sec e =>
        let a := v o.va sec e
        let b := v o.vb sec e
        if a.isNaN then (if b.isNaN then f.canonNaN else x o.vb sec e)
        else if b.isNaN then x o.va sec e
        else if r.2 then (if under a b then x o.vb sec e else x o.va sec e) else if under b a then x o.vb sec e else x o.va sec e) 4))
    ∧ (∀ r ∈ ([(0, fun p q => p.eqv q), (1, fun p q => p.lt q), (2, fun p q => p.lt q || p.eqv q), (3, fun p q => p.isNaN || q.isNaN)]
        : List (Nat × (Val → Val → Bool))), Encoding.vsub o = r.1 →
      Puts (.vfcmp o) s (mresults (o.vd.toNat % 8) n en (fun sec e => r.2 (v o.va sec e) (v o.vb sec e)) 4)))
  ∧ (∀ (o : VF) (s : State),
    let sf := Encoding.cvtSrc o
    let df := o.fmt.toNat
    let ws := Encoding.fmtWidth sf
    let wd := Encoding.fmtWidth df
    let m := Min.min (512 / ws) (512 / wd)
    let part := Encoding.vsub o / 4 % 4
    let en (sec e : Nat) : Bool := (vguard o.guard s.ctx sec).getLsbD e
    let r := Encoding.vsub o % 4
    let from_ := if ws < wd then part * m else 0
    let into := if ws < wd then 0 else part * m
    let y (sec e : Nat) : Converted := convert sf df (cvtMode r (cvtDraw s sec e)) (elt (s.ctx.V o.va.toNat sec) ws (from_ + e))
    let some_ (p : Converted → Bool) : Bool := sections.any fun sec => (List.range m).any fun e => en sec e && p (y sec e)
    PutsWith (.vcvt o) s (vresults o.vd.toNat wd (512 / wd) (fun sec e => decide (into ≤ e) && decide (e < into + m) && en sec (e - into))
        (fun sec e => (y sec (e - into)).code) 3) (fun c =>
      let c := ((c.flag 0 (some_ (·.satur))).flag 1 (some_ (·.unenc))).flag 3 (some_ (·.pfrng))
      if r = 2 then ({ c with rcnt := c.rcnt + 1 } : Context).flag 7 (c.rcnt == 0xFFFFFFFF && !c.rcntWritten) else c)
    ∧ (let t (sec : Nat) := bcvt (fmtOf df) ((List.range 32).map fun i => val32 (elt (s.ctx.V (if i < 16 then o.va else o.vb).toNat sec) 32 (i % 16)))
      PutsWith (.vbcvt o) s
        (vresults o.vd.toNat 8 64 (fun sec _ => en sec 0) (fun sec e => if e < 32 then (t sec).1.getD e 0 else if e = 32 then (t sec).2.1 else 0) 3)
        (fun c => c.flag 0 (sections.any fun sec => en sec 0 && (t sec).2.2))))

/-- R37, R225 to R227: reductions by the pairwise tree, whose first level pairs elements 0 and 1, 2 and 3 and so on; compare-and-swap of keys with companions, in the order and at the places that R226 gives; and the mask instructions.
R31: a node of VRMAX gives the larger operand, −0 below +0 and the first of two equal ones, the other operand where one is NaN, and the canonical NaN where both are.
R21: a NaN key is written as the canonical one of its format, a companion as it stands, which is the model's reading (log entry 69). -/
def Obligations.ReductionsAndMasks : Prop := ∀ (o : VF) (s : State),
  let c := o.fmt.toNat
  let w := Encoding.fmtWidth c
  let n := 512 / w
  let x (r : BitVec 5) (sec e : Nat) : Nat := elt (s.ctx.V r.toNat sec) w e
  let en (sec e : Nat) : Bool := (vguard o.guard s.ctx sec).getLsbD e
  let ma (sec : Nat) : BitVec 64 := s.ctx.M (Encoding.xa o) sec
  let mb (sec : Nat) : BitVec 64 := s.ctx.M (Encoding.xb o) sec
  let nan : Nat := match c with | 6 => 0x7F | 7 => 0x7E | 9 => 0x7E00 | 10 => 0x7FC0 | _ => 0x7FC00000
  let moved (v : Nat) : Nat := if c ∈ [6, 7, 9, 10, 11] ∧ (elemVal c v).isNaN = true then nan else v
  let pick (sec e : Nat) : Nat := casPick n (Encoding.casJ o) (Encoding.casK o)
    (fun i j => precedes (Encoding.vsub o == 1) c (x o.va sec i) (x (o.va + 1) sec i) (x o.va sec j) (x (o.va + 1) sec j)) e
  let key (v : Nat) : Val := if c < 6 then .ofInt (intVal c v) else elemVal c v
  let under (a b : Val) : Bool := a.lt b || (a.isZero && b.isZero && a.isNeg && !b.isNeg)
  (∀ (f : Nat → Nat → Nat) (l : List Nat), tree f 0 l = l.headD 0
    ∧ ∀ i, l.length = 2 ^ (i + 1) → tree f (i + 1) l = tree f i ((List.range (2 ^ i)).map fun j => f (l.getD (2 * j) 0) (l.getD (2 * j + 1) 0)))
  ∧ (∀ p q, sumNode c p q = if c < 6 then (p + q) % 2 ^ w else (round (fmtOf c) .rne ((elemVal c p).add (elemVal c q))).code)
  ∧ (∀ p q, p < 2 ^ w → q < 2 ^ w → maxNode c p q =
      if (key p).isNaN then (if (key q).isNaN then nan else q) else if (key q).isNaN then p else if under (key p) (key q) then q else p)
  ∧ (∀ (desc : Bool) (kx cx ky cy : Nat), kx < 2 ^ w → ky < 2 ^ w → precedes desc c kx cx ky cy =
      if (key kx).isNaN then (key ky).isNaN && decide (cx < cy)
      else if (key ky).isNaN then true
      else if (key kx).eqv (key ky) then decide (cx < cy)
      else if desc then (key ky).lt (key kx) else (key kx).lt (key ky))
  ∧ (∀ (t k e : Nat) (before : Nat → Nat → Bool), 2 * 2 ^ t ≤ n → e < n → e.testBit t = false →
    let e' := e + 2 ^ t
    let first := !before e e' && before e' e
    let reversed := decide (k ≠ 0) && decide (e &&& k ≠ 0)
    casPick n (2 ^ t) k before e = (if first ^^ reversed then e' else e) ∧ casPick n (2 ^ t) k before e' = if first ^^ reversed then e else e')
  ∧ (∀ r ∈ ([(.vrsum o, sumNode c), (.vrmax o, maxNode c)] : List (Instr × (Nat → Nat → Nat))),
    Puts r.1 s (vresults o.vd.toNat w n en (fun sec e => if e = 0 then tree r.2 (Nat.log2 n) ((List.range n).map (x o.va sec)) else 0) 6))
  ∧ Puts (.vcas o) s (vresults o.vd.toNat w n en (fun sec e => moved (x o.va sec (pick sec e))) 2
      ++ vresults (o.vd.toNat + 1) w n en (fun sec e => x (o.va + 1) sec (pick sec e)) 2)
  ∧ (∀ r ∈ ([(0, fun p q => p && q), (1, fun p q => p || q), (2, fun p q => p ^^ q), (3, fun p q => p && !q), (4, fun p q => p || !q),
      (5, fun p q => !(p && q)), (6, fun p q => !(p || q)), (7, fun p q => !(p ^^ q))] : List (Nat × (Bool → Bool → Bool))),
    Encoding.vsub o = r.1 → Puts (.mlogic o) s (mresults (o.vd.toNat % 8) 64 en (fun sec e => r.2 ((ma sec).getLsbD e) ((mb sec).getLsbD e)) 2))
  ∧ Puts (.mcnt o) s (vresults o.vd.toNat 32 16 en
      (fun sec e => if e = 0 then (List.range 64).countP fun i => (ma sec).getLsbD i else 0) 2)
  ∧ Puts (.mfirst o) s (mresults (o.vd.toNat % 8) 64 en
      (fun sec e => (ma sec).getLsbD e && (List.range e).all fun i => !(ma sec).getLsbD i) 2)

/-- R27, R228 to R234: the probability instructions write W lanes with their lineage, masks or elements; WCMP's fraction, κ' and the draw of WCOLL are those of R228, R229 and R232; reading a lane above 1.0 sets PFRNG, and dependent operands set PDEP. That WGET and WLIN write 0x8000 for such a lane is log entry 30, and that WCOLL sets no RWRAP in a bundle that has written RCNT is log entry 19. -/
def Obligations.Probability : Prop := ∀ (o : VF) (s : State),
  let c := o.fmt.toNat
  let w := Encoding.fmtWidth c
  let en (sec e : Nat) : Bool := (vguard o.guard s.ctx sec).getLsbD e
  let code (r sec l : Nat) : Nat := (s.ctx.W r sec).toNat / 2 ^ (16 * l) % 65536
  let a (sec l : Nat) : Nat := Min.min (code (Encoding.xa o) sec l) 32768
  let b (sec l : Nat) : Nat := Min.min (code (Encoding.xb o) sec l) 32768
  let past (sec l : Nat) : Bool := decide (32768 < code (Encoding.xa o) sec l)
  let pastB (sec l : Nat) : Bool := decide (32768 < code (Encoding.xb o) sec l)
  let some_ (p : Nat → Nat → Bool) : Bool := sections.any fun sec => (List.range 16).any fun l => en sec l && p sec l
  let lin (r sec : Nat) : Nat := (s.ctx.W r sec).toNat / 2 ^ 256
  let ind (sec : Nat) : Bool := Encoding.vsub o % 2 == 1 || (lin (Encoding.xa o) sec &&& lin (Encoding.xb o) sec) == 0
  let both (sec : Nat) : Nat := lin (Encoding.xa o) sec ||| lin (Encoding.xb o) sec
  let wd := o.vd.toNat % 8
  let v (r : BitVec 5) (sec l : Nat) : Nat := elt (s.ctx.V r.toNat sec) w l
  (∀ (cc : Nat) (k a b : Val),
    let one : Val := .fin false 1 0
    let half : Val := .fin false 1 (-1)
    let holds : Bool := if cc = 0 then b.lt a else if cc = 1 then b.lt a || a.eqv b else if cc = 2 then a.lt b else a.lt b || a.eqv b
    let crisp : Val := if holds then one else .fin false 0 0
    let d := rv32 (if cc < 2 then a.sub b else b.sub a)
    (a.isNaN = true ∨ b.isNaN = true → wcmpVal cc k a b = .fin false 0 0)
    ∧ (a.isNaN = false → b.isNaN = false →
      (k = .inf false → wcmpVal cc k a b = crisp)
      ∧ (k.isFin = true →
        (d = .nan → wcmpVal cc k a b = crisp)
        ∧ (d = .inf false → wcmpVal cc k a b = one) ∧ (d = .inf true → wcmpVal cc k a b = .fin false 0 0)
        ∧ (d.isFin = true → wcmpVal cc k a b = if k.isZero then half else half.add (rv32 (d.mul k))))))
  ∧ kappa s = (if (val32 s.ctx.tmpr.toNat).isNaN then .inf false else (val32 s.ctx.tmpr.toNat).abs)
  ∧ (∀ (seed : BitVec 64) (count : BitVec 32) (core sec l : Nat),
    let z0 : BitVec 64 := seed ^^^ ((count.setWidth 64 <<< 32) ||| (BitVec.ofNat 64 core <<< 8) ||| (BitVec.ofNat 64 sec <<< 4) ||| BitVec.ofNat 64 l)
    let z1 := (z0 ^^^ (z0 >>> 30)) * 0xBF58476D1CE4E5B9
    let z2 := (z1 ^^^ (z1 >>> 27)) * 0x94D049BB133111EB
    draw seed count core sec l = (z2 ^^^ (z2 >>> 31)).toNat / 2 ^ 49)
  ∧ Puts (.wcmp o) s (wresults wd en
    (fun sec l => pf16Val (wcmpVal (Encoding.vsub o) (kappa s) (elemVal c (v o.va sec l)) (elemVal c (v o.vb sec l)))) (fun _ => 2 ^ Encoding.src o) 3)
  ∧ PutsWith (.wand o) s
      (wresults wd en (fun sec l => if ind sec then pf16 (a sec l * b sec l : Nat) (2 ^ 30) else Min.min (a sec l) (b sec l)) both 2)
      (fun x => (x.flag 3 (some_ fun sec l => past sec l || pastB sec l)).flag 2 (some_ fun sec _ => !ind sec))
  ∧ PutsWith (.wor o) s
      (wresults wd en (fun sec l => if ind sec then pf16 (32768 * (a sec l + b sec l : Nat) - (a sec l * b sec l : Nat)) (2 ^ 30)
        else Max.max (a sec l) (b sec l)) both 2)
      (fun x => (x.flag 3 (some_ fun sec l => past sec l || pastB sec l)).flag 2 (some_ fun sec _ => !ind sec))
  ∧ PutsWith (.wnot o) s (wresults wd en (fun sec l => 32768 - a sec l) (lin (Encoding.xa o)) 2) (fun x => x.flag 3 (some_ past))
  ∧ PutsWith (.wblend o) s (vresults o.vd.toNat w (512 / w) (fun sec e => decide (e < 16) && en sec e) (fun sec l =>
      let r (x : Val) : Nat := (round (fmtOf c) .rne x).code
      let m := a sec l
      if m = 32768 then v o.va sec l else if m = 0 then v o.vb sec l
      else r ((elemVal c (r ((Val.fin false m (-15)).mul (elemVal c (v o.va sec l))))).add
        (elemVal c (r ((Val.fin false (32768 - m) (-15)).mul (elemVal c (v o.vb sec l))))))) 4) (fun x => x.flag 3 (some_ past))
  ∧ PutsWith (.wcoll o) s (mresults wd 16 en (fun sec l => decide (draw s.ctx.rseed s.ctx.rcnt s.coreId sec l < a sec l)) 3)
      (fun x => let y := x.flag 3 (some_ past); ({ y with rcnt := y.rcnt + 1 } : Context).flag 7 (y.rcnt == 0xFFFFFFFF && !y.rcntWritten))
  ∧ PutsWith (.wgradCmp o) s (vresults o.vd.toNat 32 16 en
      (fun sec l => if (kappa s).isFin && 0 < a sec l && a sec l < 32768 then s.ctx.tmpr.toNat % 2 ^ 31 else 0) 3) (fun x => x.flag 3 (some_ past))
  ∧ Puts (.wgradBlend o) s (vresults o.vd.toNat 32 16 en
      (fun sec l => rne32 ((val32 (elt (s.ctx.V o.va.toNat sec) 32 l)).sub (val32 (elt (s.ctx.V o.vb.toNat sec) 32 l)))) 3)
  ∧ Puts (.wgradColl o) s (vresults o.vd.toNat 32 16 en (fun _ _ => 0x3F800000) 3)
  ∧ PutsWith (.wset o) s
      (wresults wd en (fun sec l => Min.min (elt (s.ctx.V o.va.toNat sec) 16 l) 32768) (fun _ => (Encoding.imm16 o).toNat % 256) 2)
      (fun x => x.flag 3 (some_ fun sec l => decide (32768 < elt (s.ctx.V o.va.toNat sec) 16 l)))
  ∧ PutsWith (.wget o) s (vresults o.vd.toNat 16 32 en
      (fun sec e => if e < 16 then a sec e else if e = 16 then lin (Encoding.xa o) sec else 0) 2) (fun x => x.flag 3 (some_ past))
  ∧ PutsWith (.wlin o) s (wresults wd en a (fun _ => 2 ^ Encoding.src o) 2) (fun x => x.flag 3 (some_ past))

/-- R57, R85, R236 to R238, Table 11-4: the special functions give the cases of Table 11-4, and elsewhere the rounded value that `special` finds by enclosing the exact one, which is a free value where they do not decide it (log entry 10); VSTAT notes an update for the end of its bundle for each section whose guard bit 0 holds; VNEAR searches the codewords of a valid binding whose array holds no poison, and faults on a binding that is not valid where its guard enables an element (the rest is log entry 59). What the search gives is Conversions; the NaN that VSTAT writes is log entry 69. -/
def Obligations.SpecialFunctions : Prop := ∀ (o : VF) (s : State),
  let c := o.fmt.toNat
  let w := Encoding.fmtWidth c
  let en (sec e : Nat) : Bool := (vguard o.guard s.ctx sec).getLsbD e
  let updates (lse : Bool) := (sections.filter fun sec => en sec 0).map fun sec =>
    (elt (s.ctx.V o.vb.toNat sec) 32 0 % 16384, (lse, s.ctx.V o.va.toNat sec))
  let b := s.ctx.B (Encoding.xa o)
  let d := bD b
  let near (sec g : Nat) : Nat × Bool :=
    search (bookAt s s.coreId b).rounded ((List.range d).map fun j => elemVal c (elt (s.ctx.V o.va.toNat sec) w (g * d + j)))
  (∀ r ∈ ([(.vexp2 o, .exp2), (.vlog2 o, .log2), (.vrcp o, .rcp), (.vrsq o, .rsq), (.vtanh o, .tanh)] : List (Instr × SFun)),
    Puts r.1 s (vresults o.vd.toNat w (512 / w) en (fun sec e => special (fmtOf c) r.2 (elt (s.ctx.V o.va.toNat sec) w e)) 8))
  ∧ (∀ g ∈ ([(.f16, 15, 0x7E00, 0x7C00, 0x3C00), (.bf16, 15, 0x7FC0, 0x7F80, 0x3F80), (.f32, 31, 0x7FC00000, 0x7F800000, 0x3F800000)] : List (FFmt × Nat × Nat × Nat × Nat)),
    let f := g.1
    let sign (neg : Bool) : Nat := if neg then 2 ^ g.2.1 else 0
    let nan := g.2.2.1
    let inf := g.2.2.2.1
    let one := g.2.2.2.2
    (∀ fn a, f.value a = .nan → special f fn a = nan)
    ∧ (∀ a, f.value a = .inf false → special f .exp2 a = inf ∧ special f .log2 a = inf ∧ special f .rcp a = 0 ∧ special f .rsq a = 0 ∧ special f .tanh a = one)
    ∧ (∀ a, f.value a = .inf true → special f .exp2 a = 0 ∧ special f .log2 a = nan ∧ special f .rcp a = sign true ∧ special f .rsq a = nan ∧ special f .tanh a = sign true + one)
    ∧ (∀ a neg e, f.value a = .fin neg 0 e → special f .exp2 a = one ∧ special f .log2 a = sign true + inf ∧ special f .rcp a = sign neg + inf
      ∧ special f .rsq a = sign neg + inf ∧ special f .tanh a = sign neg)
    ∧ (∀ a k e, f.value a = .fin true (k + 1) e → special f .log2 a = nan ∧ special f .rsq a = nan)
    ∧ special f .log2 one = 0)
  ∧ exec (.vstatNorm o) s = .next { s with ctx := { s.ctx with vstat := s.ctx.vstat ++ updates false } }
  ∧ exec (.vstatLse o) s = .next { s with ctx := { s.ctx with vstat := s.ctx.vstat ++ updates true } }
  ∧ (bValid b = true → (∀ x, bBase b ≤ x → x < bBase b + bBytes b → s.core.scratchPoison.contains (x / 16) = false) → PutsWith (.vnear o) s
      ((vresults o.vd.toNat 16 32 en (fun sec e => if e < 512 / w / d then (near sec e).1 else 0) (8 + (bK b * d + 15) / 16)).map fun f => { f with via := b })
      (fun x => x.flag 1 (sections.any fun sec => (List.range (512 / w / d)).any fun g => en sec g && (near sec g).2)))
  ∧ (bValid b = false → (∃ sec e, sec < 8 ∧ e < 32 ∧ en sec e = true) → exec (.vnear o) s = .next (takeFault
      { cls := 1, code := 0xD, slots := 1 <<< (if o.v1 then 2 else 1), addr := encode (.vnear o), info := .ofNat 32 (Encoding.xa o) } s))

/-- R239, R240, R351: the exchanges within a section; the section network reads another section, never in two bundles in a row.
R21: a NaN element is written as the canonical one of its format, which is the model's reading (log entry 69).
R27, R218: a PF16 element above 0x8000 reads as 1.0, is written as 0x8000 and sets PFRNG where an enabled element takes it. -/
def Obligations.Exchanges : Prop := ∀ (o : XF) (s : State),
  let w := Encoding.fmtWidth o.fmt.toNat
  let n := 512 / w
  let en (sec e : Nat) : Bool := (vguard o.guard s.ctx sec).getLsbD e
  let nan : Nat := match o.fmt.toNat with | 6 => 0x7F | 7 => 0x7E | 9 => 0x7E00 | 10 => 0x7FC0 | _ => 0x7FC00000
  let moved (v : Nat) : Nat :=
    if o.fmt.toNat ∈ [6, 7, 9, 10, 11] ∧ (elemVal o.fmt.toNat v).isNaN = true then nan else if o.fmt.toNat = 12 then Min.min v 0x8000 else v
  let a (sec e : Nat) : Nat := elt (s.ctx.V o.va.toNat sec) w e
  let b (sec e : Nat) : Nat := elt (s.ctx.V o.vb.toNat sec) w e
  let k := o.imm.toNat
  let pat (l : Nat) : Nat := (s.ctx.XP o.xp.toNat).toNat / 2 ^ (4 * l) % 16
  let some_ (p : Nat → Nat → Bool) : Bool := sections.any fun sec => (List.range n).any fun e => en sec e && p sec e
  let used : Bool := some_ fun _ _ => true
  let past (f : Nat → Nat → Nat) : Bool := some_ fun sec e => decide (o.fmt.toNat = 12) && decide (0x8000 < f sec e)
  (∀ r ∈ ([(.xperm o, fun sec e => a sec (pat (e / (32 / w)) * (32 / w) + e % (32 / w))), (.xrot o, fun sec e => a sec ((e + k) % n)),
      (.xshift o, fun sec e => if e + k < n then a sec (e + k) else b sec (e + k - n)),
      (.xzip o, fun sec e => (if e % 2 = 0 then a else b) sec (k * (n / 2) + e / 2)),
      (.xunzip o, fun sec e => if 2 * e + k < n then a sec (2 * e + k) else b sec (2 * e + k - n)), (.xrev o, fun sec e => a sec (n - 1 - e))]
      : List (Instr × (Nat → Nat → Nat))),
    PutsWith r.1 s (vresults o.vd.toNat w n en (fun sec e => moved (r.2 sec e)) 2) (fun c => c.flag 3 (past r.2)))
  ∧ (∀ r ∈ ([(.xbcast o, fun _ => k, True), (.xsec o, pat, ∀ l, l < 8 → pat l < 8)] : List (Instr × (Nat → Nat) × Prop)), r.2.2 →
    let f (sec e : Nat) : Nat := a (r.2.1 sec) e
    let fs := vresults o.vd.toNat w n en (fun sec e => moved (f sec e)) 6
    (¬(used = true ∧ s.ctx.xlast = true) → PutsWith r.1 s fs (fun c => { c.flag 3 (past f) with xnow := s.ctx.xnow || used }))
    ∧ (used = true → s.ctx.xlast = true → collision s.ctx.flights fs = none →
      exec r.1 s = .next (takeFault { cls := 2, code := 4, slots := 8 } s)))

/-! ## Matrix instructions and the matrix engine -/

/-- R277, R278: an operation enters the queue behind those that stand there and marks the registers it writes as unwaited; nothing else of the machine changes. A bundle with a matrix operation and an LDT waits, before its checks, until the queue has room for both (R105, R338).
R281 to R289: with room in the queue and operands that meet their rules, the queued operations enter it with their operands captured. -/
def Obligations.MatrixOperations : Prop :=
  (∀ (e : MEntry) (s : State),
  let t := enterMatrix e s
  t.core = { s.core with mqueue := s.core.mqueue ++ [e] } ∧ t.fresh = s.fresh + 1
  ∧ t.ctx = { s.ctx with tileUnwaited := t.ctx.tileUnwaited, accUnwaited := t.ctx.accUnwaited }
  ∧ (∀ r, r < 16 → t.ctx.tileUnwaited.getLsbD r = (s.ctx.tileUnwaited.getLsbD r || e.tilesW.contains r))
  ∧ (∀ r, r < 12 → t.ctx.accUnwaited.getLsbD r = (s.ctx.accUnwaited.getLsbD r || e.accsW.contains r))
  ∧ t.cores = s.cores ∧ t.mem = s.mem ∧ t.hub = s.hub ∧ t.tick = s.tick ∧ t.cycle = s.cycle)
  ∧ (∀ (o : MF) (p : LS) (m l : SlotOp) (s : State),
    let pre := preBundle s
    m.instr ∈ [Instr.mzero o, .mop o, .mpart o, .mlut o, .mlut2 o, .mwr o, .mxfer o, .mopt o] → l.instr ∈ [Instr.ldt p, .ldtRing p] →
    sguard o.guard pre.ctx = true → sguard p.guard pre.ctx = true → slotStop pre m = none → slotStop pre l = none → 14 < pre.core.mqueue.length →
    trySlots [m, l] s = .hold (.pair none))
  ∧ ∀ (o : MF) (s : State),
  sguard o.guard s.ctx = true → s.core.mqueue.length < 16 →
  let a := o.acc.toNat
  let ta := o.ta.toNat
  let tb := o.tb.toNat
  let x := s.core.shape ta
  let y := s.core.shape tb
  let b1 := s.ctx.B (o.bind.toNat % 8)
  let b2 := s.ctx.B (o.q.toNat % 8)
  let mine (t : Nat) : Prop := tileOwner s.core t = s.ctxId
  let owns (l : List Nat) : Prop := ∀ r ∈ l, accOwner s.core r = s.ctxId
  let fits (m n : Nat) : Prop := (m ≤ 256 ∧ n ≤ 256) ∨ a = 0 ∨ a = 4 ∨ a = 8
  let words (n w : Nat) : Nat := 8 * ((n + 64 / w - 1) / (64 / w))
  let enters (i : Instr) (p : MEntry → Prop) : Prop :=
    ∃ e : MEntry, exec i s = .next (enterMatrix e s) ∧ e.ctx = s.ctxId ∧ e.pc = s.ctx.pc ∧ e.cycle = s.cycle ∧ e.res = none ∧ p e
  (owns [a] → enters (.mzero o) (fun e => e.op = .mzero ∧ e.acc = a))
  ∧ (owns [a] → enters (.mwr o) (fun e => e.op = .mwr ∧ e.acc = a ∧ e.k = (s.ctx.G (o.k.toNat % 64)).toNat % 512
      ∧ e.val = [0, 1, 2, 3, 4, 5, 6, 7].map fun sec => s.ctx.V (2 * ta + tb / 8) sec))
  ∧ (6 ≤ shFmt x → shFmt x ≤ 10 → 6 ≤ shFmt y → shFmt y ≤ 10 → shCols x = shRows y → 16 * o.k.toNat < shCols x → fits (shRows x) (shCols y) →
      tget 0 s.ctx.latch ta = 0 → tget 0 s.ctx.latch tb = 0 → mine ta → mine tb → owns (quad a (shRows x) (shCols y)) →
      enters (.mop o) (fun e => e.op = .mop ∧ e.acc = a ∧ e.ta = ta ∧ e.tb = tb ∧ e.k = o.k.toNat ∧ e.sa = x ∧ e.sb = y ∧ e.la = 0 ∧ e.lb = 0))
  ∧ (bValid b1 = true → 6 ≤ shFmt y → shFmt y ≤ 11 → shRows y % bD b1 = 0 → shFmt x = 11 → shTr x = false → shRows x = bK b1 * (shRows y / bD b1) →
      shCols x = shCols y → tget 0 s.ctx.latch tb = 0 → mine ta → mine tb →
      enters (.mpart o) (fun e => e.op = .mpart ∧ e.ta = ta ∧ e.tb = tb ∧ e.sa = x ∧ e.sb = y ∧ e.b1 = b1))
  ∧ (bValid b1 = true → shFmt x = 11 → shTr x = false → shRows x % bK b1 = 0 → shFmt y = 1 → shTr y = false →
      words (shRows x / bK b1) (bW b1) ≤ shCols y → fits (shRows y) (shCols x) → mine ta → mine tb → owns (quad a (shRows y) (shCols x)) →
      enters (.mlut o) (fun e => e.op = .mlut ∧ e.acc = a ∧ e.ta = ta ∧ e.tb = tb ∧ e.sa = x ∧ e.sb = y ∧ e.b1 = b1))
  ∧ (bValid b1 = true → bValid b2 = true → bD b1 = bD b2 → shFmt x = 1 → shTr x = false → words (o.k.toNat + 1) (bW b1) ≤ shCols x →
      shFmt y = 1 → shTr y = false → words (o.k.toNat + 1) (bW b2) ≤ shCols y → fits (shRows x) (shRows y) → mine ta → mine tb →
      owns (o.aux.toNat :: quad a (shRows x) (shRows y)) →
      enters (.mlut2 o) (fun e => e.op = .mlut2 ∧ e.acc = a ∧ e.aux = o.aux.toNat ∧ e.ta = ta ∧ e.tb = tb ∧ e.k = o.k.toNat + 1 ∧ e.sa = x ∧ e.sb = y
        ∧ e.b1 = b1 ∧ e.b2 = b2))

/-- R290 to R292: MXFER and MOPT enter the queue, and each is a drain of its accumulator noted in the accumulator's peak register.
R278, R279, R285, R289, R290, R352: MSCL sets its latch at the end of the bundle; MRD reads a half row of a waited accumulator, and of one that is not it faults; MPEAK returns some prefix of the drains, no shorter than the one it returned before, which one being free (log entry 7), and MPEAK.settle all of them; MWAIT waits for the writers of a register and then clears its unwaited bit. -/
def Obligations.MatrixDrainsAndReads : Prop :=
  (∀ (o : MF) (s : State),
    sguard o.guard s.ctx = true → s.core.mqueue.length < 16 →
    let a := o.acc.toNat
    let g := (s.ctx.G (o.k.toNat % 64)).toNat
    let qi := s.ctx.Q o.q.toNat
    let qo := s.ctx.Q o.aux.toNat
    let m := s.core.shape o.ta.toNat
    let drains (i : Instr) (p : MEntry → Prop) : Prop := ∃ e : MEntry,
      exec i s = .next { enterMatrix e s with core := (enterMatrix e s).core.drain a e.id none } ∧ e.ctx = s.ctxId ∧ e.acc = a ∧ e.res = none ∧ p e
    (qLocal qi = true → g % 2048 = 0 → g + 0x100000 ≤ spaceBytes s.coreId true → accOwner s.core a = s.ctxId →
      drains (.mxfer o) (fun e => e.op = .mxfer ∧ e.k = o.aux.toNat % 4 ∧ e.aux = g ∧ e.qout = some o.q.toNat))
    ∧ (qLocal qi = true → qLocal qo = true → qSize qi = qSize qo → o.k.toNat < qN qi → o.k.toNat + 1 ≤ seenAvail s.core s.ctx o.q.toNat → shFmt m = 11 →
      qSize qi / 16 ≤ shRows m * shCols m → tileOwner s.core o.ta.toNat = s.ctxId → tileOwner s.core o.tb.toNat = s.ctxId → accOwner s.core a = s.ctxId →
      drains (.mopt o) (fun e => e.op = .mopt ∧ e.ta = o.ta.toNat ∧ e.tb = o.tb.toNat ∧ e.k = o.bind.toNat ∧ e.sa = m ∧ e.qout = some o.aux.toNat
        ∧ e.qin = some (qi, o.q.toNat, (qCons qi + o.k.toNat) % 2 ^ 32, qSlot qi (qCons qi + o.k.toNat)))))
  ∧ (∀ (o : MF) (s : State), sguard o.guard s.ctx = true →
    let a := o.acc.toNat
    let ta := o.ta.toNat
    let g := (s.ctx.G (o.k.toNat % 64)).toNat
    let elem (j : Nat) : Nat := (tget 0 s.core.acc ((a * 256 + g % 256) * 256 + 128 * (g / 256 % 2) + j)).toNat
    let row : List Flight := sections.flatMap fun sec => putSec (.v (2 * ta + o.tb.toNat / 8) sec) (packE 32 (fun e => elem (16 * sec + e)) 16) (2 ^ 512 - 1) 6
    let p := tget {} s.core.peaks a
    let busy (acc : Bool) (r : Nat) : Bool := s.core.mqueue.any fun e => e.ctx == s.ctxId && (if acc then e.accsW else e.tilesW).contains r
    (tileOwner s.core ta = s.ctxId → tileOwner s.core o.tb.toNat = s.ctxId →
      exec (.mscl o) s = .next { s with ctx := { s.ctx with newLatch := some (ta, if o.ta = o.tb then 0 else o.tb.toNat + 1) } })
    ∧ (accOwner s.core a = s.ctxId → s.core.accPoison.getLsbD a = false →
      (s.ctx.accUnwaited.getLsbD a = false → collision s.ctx.flights row = none →
        ∃ t, exec (.mrd o) s = .next t ∧ t.ctx = s.ctx.fly row ∧ t.core.acc = s.core.acc ∧ t.core.tile = s.core.tile ∧ t.mem = s.mem ∧ t.hub = s.hub)
      ∧ (s.ctx.accUnwaited.getLsbD a = true → collision s.ctx.flights row = none →
        exec (.mrd o) s = .next (takeFault { cls := 2, code := 3, slots := 16, addr := .ofNat 64 (0x800 + a) } s)))
    ∧ (accOwner s.core a = s.ctxId → s.ctx.clearOf (· == .g (o.k.toNat % 64)) = true →
      (∃ n t, exec (.mpeak o) s = .next t ∧ tget 0 s.ctx.peakSeen a ≤ n ∧ (tget 0 s.ctx.peakSeen a ≤ p.hist.length → n ≤ p.hist.length)
        ∧ t.ctx = { s.ctx.fly (putG (o.k.toNat % 64) ((p.at_ n).setWidth 64) 6) with peakSeen := tset 0 s.ctx.peakSeen a n }
        ∧ t.core = s.core ∧ t.mem = s.mem ∧ t.hub = s.hub)
      ∧ (p.pend = [] → ∃ t, exec (.mpeakSettle o) s = .next t
        ∧ t.ctx = { s.ctx.fly (putG (o.k.toNat % 64) ((p.at_ p.hist.length).setWidth 64) 6) with peakSeen := tset 0 s.ctx.peakSeen a p.hist.length }
        ∧ t.core = s.core ∧ t.mem = s.mem ∧ t.hub = s.hub)
      ∧ (p.pend ≠ [] → exec (.mpeakSettle o) s = .next (blockOn (.settle a) s)))
    ∧ (o.sub = 0 → accOwner s.core a = s.ctxId →
      exec (.mwait o) s = .next (if busy true a then blockOn (.mwait true a) s
        else { s with ctx := { s.ctx with accUnwaited := s.ctx.accUnwaited &&& ~~~((1 : BitVec 12) <<< a) } }))
    ∧ (o.sub = 1 → tileOwner s.core ta = s.ctxId →
      exec (.mwait o) s = .next (if busy false ta then blockOn (.mwait false ta) s
        else { s with ctx := { s.ctx with tileUnwaited := s.ctx.tileUnwaited &&& ~~~((1 : BitVec 16) <<< ta) } })))

/-- R277: the head of the queue starts when the engine is free and the commands it waits for are done, an MXFER or MOPT only once its ring has a free slot beyond those that started operations take (R255), and not before; it reads its data then, and lands after its busy time, leaving the queue.
R33, R59 to R61, R250, R282, R283, R286 to R293: what a landed operation leaves. MZERO zeroes its accumulator and its peak; MWR writes its half row; MOP adds one segment to each result element; MPART writes the table of exact sums, each rounded once; MLUT and MLUT2 add table entries in order, each add rounded; LDT writes its bytes into the tile; MXFER writes its quarter of the matrix and contributes the largest magnitude that it read; MOPT applies AdamW to each record. Accumulators and tiles that an operation does not write keep their values. -/
def Obligations.MatrixEngine : Prop :=
  (∀ (c : Nat) (s : State) (e : MEntry) (l : List MEntry), isCore c = true → (getCore s c).mqueue = e :: l →
    (e.res = none → e.cycle < s.cycle → (getCore s c).matrixFree ≤ s.cycle →
      (∀ i ∈ e.holds, nearDone (getCore s c) i = true) → (∀ i ∈ e.remoteHolds, farDone (getCore s c) i = true) →
      let room (q : Nat) : Prop := startedOn (getCore s c) e.ctx q + 1 ≤ producerFree (getCore s c) (ownerAt s c e.ctx e.task) q
      ((∀ q, e.qout = some q → room q) →
        ∃ t, exec (.matrixOpStart c) s = .next t ∧ ∃ e', (getCore t c).mqueue = e' :: l ∧ e'.res = some (matrixResult s c e) ∧ e'.start = s.cycle ∧ e'.id = e.id)
      ∧ ∀ q, e.qout = some q → ¬ room q → exec (.matrixOpStart c) s = .next s)
    ∧ (e.res = none → (e.cycle = s.cycle ∨ s.cycle < (getCore s c).matrixFree ∨ (∃ i ∈ e.holds, nearDone (getCore s c) i = false)
        ∨ ∃ i ∈ e.remoteHolds, farDone (getCore s c) i = false) → exec (.matrixOpStart c) s = .next s)
    ∧ (∀ r, e.res = some r → e.start + e.busy ≤ s.cycle + 1 → (e.op = .ldt → e.data.isSome = true) →
      exec (.matrixOpLand c) s = .next (landMatrix c e r s) ∧ (getCore (landMatrix c e r s) c).mqueue = l
      ∧ (getCore (landMatrix c e r s) c).acc = ((getCore s c).landMatrix e r).acc ∧ (getCore (landMatrix c e r s) c).tile = ((getCore s c).landMatrix e r).tile))
  ∧ (∀ (c : Nat) (s : State) (e : MEntry), twf 0 (getCore s c).acc = true → twf 0 (getCore s c).tile = true →
    let k := getCore s c
    let r := matrixResult s c e
    let k' := k.landMatrix e r
    let at_ (x : Core) (a m n : Nat) : Nat := (tget 0 x.acc ((a * 256 + m) * 256 + n)).toNat
    let elem (x : Core) (m n : Nat) : Nat := at_ x (if 256 < e.m ∨ 256 < e.n then e.acc + 2 * (m / 256) + n / 256 else e.acc) (m % 256) (n % 256)
    let add (x y : Nat) : Nat := rne32 ((val32 x).add (val32 y))
    let sum (l : List Val) : Nat := match l with
      | [] => 0
      | p :: t => rne32 (t.foldl Val.add p)
    let index (t : Nat) (w : BitVec 64) (iw m i : Nat) : Nat := tileNat k t (m * shCols w + 8 * (i / (64 / iw))) 8 / 2 ^ (i % (64 / iw) * iw) % 2 ^ iw
    let x := bookAt s c e.b1
    let y := bookAt s c e.b2
    let pair (a b : Nat) : Nat := sum ((List.range x.d).map fun i => (x.qx a i).mul (y.qx b i))
    let sized : Prop := e.m ≤ 512 ∧ e.n ≤ 512
    (e.op = .mzero → (∀ m n, m < 256 → n < 256 → at_ k' e.acc m n = 0) ∧ (tget {} k'.peaks e.acc).now = 0)
    ∧ (e.op = .mwr → ∀ j, j < 128 → at_ k' e.acc (e.k % 256) (128 * (e.k / 256) + j) = elt (e.val.getD (j / 16) 0) 32 (j % 16))
    ∧ (e.op = .mop → sized → ∀ m n, m < e.m → n < e.n → elem k' m n =
      segment (elem k m n) ((((List.range 16).map (16 * e.k + ·)).filter (· < shCols e.sa)).map fun j => (tileVal k e.ta e.sa e.la m j).mul (tileVal k e.tb e.sb e.lb j n))
        (if shZ e.sa = 1 ∧ shZ e.sb = 1 then 25 else 48) % 2 ^ 32)
    ∧ (e.op = .mpart → 4 * (shRows e.sa * shCols e.sa) ≤ 65536 → ∀ i n, i < shRows e.sa → n < shCols e.sa → tileNat k' e.ta (4 * (i * shCols e.sa + n)) 4 =
      sum ((List.range x.d).map fun j => (x.qx (i % x.k) j).mul (tileVal k e.tb e.sb e.lb (i / x.k * x.d + j) n)) % 2 ^ 32)
    ∧ (e.op = .mlut → sized → ∀ m n, m < e.m → n < e.n → elem k' m n = ((List.range (shRows e.sa / bK e.b1)).foldl (fun z i =>
        add z (tileNat k e.ta (4 * ((i * bK e.b1 + index e.tb e.sb (bW e.b1) m i) * shCols e.sa + n)) 4)) (elem k m n)) % 2 ^ 32)
    ∧ (e.op = .mlut2 → sized → e.aux ∉ quad e.acc e.m e.n →
      (∀ a b, a < x.k → b < y.k → at_ k' e.aux a b = pair a b % 2 ^ 32)
      ∧ (∀ a b, a < 256 → b < 256 → ¬(a < x.k ∧ b < y.k) → at_ k' e.aux a b = at_ k e.aux a b)
      ∧ ∀ m n, m < e.m → n < e.n → elem k' m n =
        ((List.range e.k).foldl (fun z i => add z (pair (index e.ta e.sa x.w m i) (index e.tb e.sb y.w n i))) (elem k m n)) % 2 ^ 32)
    ∧ (∀ d, e.op = .ldt → e.data = some d → d.length ≤ 65536 → ∀ i, i < d.length → tileByte k' e.ta i = d.getD i 0)
    ∧ (e.op = .mxfer →
      r.win = ((List.range 256).flatMap fun m => (List.range 256).flatMap fun n => (List.range 4).map fun i =>
        (e.aux + 4 * ((256 * (e.k / 2) + m) * 512 + 256 * (e.k % 2) + n) + i, BitVec.ofNat 8 (at_ k e.acc m n / 256 ^ i)))
      ∧ r.peak.toNat ≤ 0x7F800000 ∧ (∀ m n, m < 256 → n < 256 → at_ k e.acc m n % 2 ^ 31 ≤ 0x7F800000 → at_ k e.acc m n % 2 ^ 31 ≤ r.peak.toNat)
      ∧ (r.peak = 0 ∨ ∃ m n, m < 256 ∧ n < 256 ∧ at_ k e.acc m n % 2 ^ 31 = r.peak.toNat))
    ∧ (∀ q i n off qo, e.op = .mopt → e.qin = some (q, i, n, off) → e.qout = some qo → qSize q ≤ 65536 →
      let new (j : Nat) : Nat × Nat := adamw (hyper k e.tb) (ofLeBytes (localRead s c (qWin q) (off + 16 * j) 16)) (at_ k e.acc (16 * e.k + j / 256) (j % 256))
      (∀ j, j < qSize q / 16 → tileNat k' e.ta (4 * j) 4 = (new j).2 % 2 ^ 32)
      ∧ r.ring = Memory.cellsOf (qSlot e.qh (moptSlot s c e qo)) ((List.range (qSize q / 16)).flatMap fun j => leBytes (new j).1 16))
    ∧ (sized → e.k < 512 → ∀ a m n, m < 256 → n < 256 → a ∉ e.accsW → at_ k' a m n = at_ k a m n)
    ∧ (4 * (shRows e.sa * shCols e.sa) ≤ 65536 → (e.data.getD []).length ≤ 65536 → (∀ q, e.qin = some q → qSize q.1 ≤ 65536) →
      ∀ t i, i < 65536 → t ∉ e.tilesW → tileByte k' t i = tileByte k t i))
  ∧ (∀ (acc w : Nat) (ps : List Val),
    ((val32 acc).isNaN = true ∨ Val.nan ∈ ps ∨ (.inf false ∈ ps ∧ .inf true ∈ ps) → segment acc ps w = 0x7FC00000)
    ∧ (∀ b, (val32 acc).isNaN = false → Val.nan ∉ ps → .inf b ∈ ps → .inf (!b) ∉ ps → segment acc ps w = rne32 ((val32 acc).add (.inf b)))
    ∧ ((val32 acc).isNaN = false → (∀ p ∈ ps, ∃ b x, p = .fin b 0 x) → segment acc ps w = acc)
    ∧ (∀ E : Int, (val32 acc).isNaN = false → (∀ p ∈ ps, ∃ b m x, p = .fin b m x ∧ (m ≠ 0 → (Nat.log2 m : Int) + x ≤ E)) →
      (∃ b m x, .fin b m x ∈ ps ∧ m ≠ 0 ∧ (Nat.log2 m : Int) + x = E) →
      let g : Int := E - w + 1
      let kept : Val → Int
        | .fin b m x => (if b then -1 else 1) * (if g ≤ x then m * 2 ^ (x - g).toNat else m / 2 ^ (g - x).toNat : Nat)
        | _ => 0
      let S := (ps.map kept).sum
      segment acc ps w = if S = 0 then acc else rne32 ((val32 acc).add (.fin (decide (S < 0)) S.natAbs g))))
  ∧ (∀ (h : Nat → Val) (r g : Nat), r < 2 ^ 128 →
    let p := adamw h r g
    let old := val32 (r % 2 ^ 32)
    let t := min (r / 2 ^ 96 % 2 ^ 24 + 1) 0xFFFFFF
    let m := rne32 (((h 1).mul (val32 (r / 2 ^ 32 % 2 ^ 32))).add ((h 2).mul (val32 g)))
    let v := rne32 (((h 3).mul (val32 (r / 2 ^ 64 % 2 ^ 32))).add (((h 4).mul (val32 g)).mul (val32 g)))
    let off (b : Val) : Val := rv32 ((Val.fin false 1 0).sub (b.pow t))
    let u := val32 (div32 (val32 (div32 (val32 m) (off (h 1)))) (rv32 ((rv32 (sqrtVal (val32 (div32 (val32 v) (off (h 3)))))).add (h 5))))
    let w := rne32 (old.sub ((h 0).mul (if r.testBit 121 then u else rv32 (u.add ((h 6).mul old)))))
    (r.testBit 120 = true → p = (r, r % 2 ^ 32))
    ∧ (r.testBit 120 = false → p.2 = w ∧ p.1 % 2 ^ 32 = w ∧ p.1 / 2 ^ 32 % 2 ^ 32 = m ∧ p.1 / 2 ^ 64 % 2 ^ 32 = v ∧ p.1 / 2 ^ 96 % 2 ^ 24 = t
      ∧ p.1 / 2 ^ 120 = r / 2 ^ 120))

/-! ## Loads and stores -/

/-- R66, R350: the 16-byte word at an offset is in bank floor(offset / 16) mod 32; the scan of an operation's words finds no conflict exactly where words that share a bank are one word. -/
def Obligations.BankConflicts : Prop := (∀ x, bankOf x = x / 16 % 32) ∧ ∀ (offs : List Nat),
  banks (numbered offs) = [] ↔ offs.Pairwise fun x y => bankOf x = bankOf y → x / 16 = y / 16

/-- R245 to R248, R251: from the private scratchpad a load whose bytes lie in the space, aligned, without bank conflict and without poison, samples them in its bundle and puts its result in flight. -/
def Obligations.PrivateLoads : Prop := ∀ (o : LS) (s : State), sguard o.guard s.ctx = true → o.space = 0 →
  let a := (s.ctx.G o.gb.toNat + .ofInt 64 o.off.toInt : Word).toNat
  let bytes (x n : Nat) : Nat := ofLeBytes ((List.range n).map fun i => Memory.byte s.core.scratch (x + i))
  let good (runs : List (Nat × Nat)) : Prop := ∀ r ∈ runs, r.1 + r.2 ≤ 0x400000 ∧ ∀ x, r.1 ≤ x → x < r.1 + r.2 → s.core.scratchPoison.contains (x / 16) = false
  let vec (f : Nat → Nat) (l : Nat) : List Flight := sections.flatMap fun sec => putSec (.v o.dr.toNat sec) (f sec) (2 ^ 512 - 1) l
  let st := if o.gs = 0 then 16 else (s.ctx.G o.gs.toNat).toNat
  let words := (List.range 32).map fun j => a + j * st
  let elems := gathered o s
  let b := s.ctx.B (o.q.toNat % 8)
  (a % 2 ^ o.width.toNat = 0 → good [(a, 2 ^ o.width.toNat)] →
    Puts (.lds o) s (putG (o.dhi.toNat * 32 + o.dr.toNat) (.ofNat 64 (bytes a (2 ^ o.width.toNat))) 5))
  ∧ (a % 16 = 0 → st % 16 = 0 → st ≠ 0 → banks (numbered words) = [] → good (words.map fun x => (x, 16)) →
    Puts (.ldv o) s (vec (fun sec => ofLeBytes ((List.range 64).map fun i => Memory.byte s.core.scratch (a + (4 * sec + i / 16) * st + i % 16))) 5))
  ∧ (a % 4 = 0 → (∀ x ∈ elems, x % 4 = 0) → banks (numbered elems) = [] → good (elems.map fun x => (x, 4)) →
    Puts (.ldvx o) s (vec (fun sec => packE 32 (fun e => bytes (elems.getD (16 * sec + e) 0) 4) 16) 5))
  ∧ (a % 64 = 0 → good [(a, 512)] →
    Puts (.ldw o) s (sections.flatMap fun sec => putSec (.w (o.dr.toNat % 8) sec) (bytes (a + 64 * sec) 33) (2 ^ 264 - 1) 5))
  ∧ (a % 8 = 0 → good [(a, 64)] →
    Puts (.ldm o) s (if o.dr.toNat % 8 = 0 then [] else sections.flatMap fun sec => putSec (.m (o.dr.toNat % 8) sec) (bytes (a + 8 * sec) 8) (2 ^ 64 - 1) 5))
  ∧ (o.sub.toNat % 4 < 3 → a % 8 = 0 → bValid b = true → good [(a, codedBytes (o.sub.toNat % 4) b)] →
    (∀ x, bBase b ≤ x → x < bBase b + bBytes b → s.core.scratchPoison.contains (x / 16) = false) →
    Puts (.ldc o) s ((vec (fun sec => (codedLoad (o.sub.toNat % 4) b (localRead s s.coreId false (bBase b) (bBytes b))
      ((List.range (codedBytes (o.sub.toNat % 4) b)).map fun i => Memory.byte s.core.scratch (a + i))).getD sec 0) 7).map fun f => { f with via := b }))

/-- R69, R136: from the cluster window a load puts a window access in wait for the sixth cycle after its issue, its results seven bundles later than from the private scratchpad. -/
def Obligations.WindowLoads : Prop := ∀ (o : LS) (s : State), sguard o.guard s.ctx = true → o.space = 1 →
  let a := (s.ctx.G o.gb.toNat + .ofInt 64 o.off.toInt : Word).toNat
  let good (runs : List (Nat × Nat)) : Prop := ∀ r ∈ runs, r.1 + r.2 ≤ spaceBytes s.coreId true ∧ ∀ x, r.1 ≤ x → x < r.1 + r.2 → localPoisoned s s.coreId true x = false
  let st := if o.gs = 0 then 16 else (s.ctx.G o.gs.toNat).toNat
  let words := (List.range 32).map fun j => a + j * st
  let elems := gathered o s
  let b := s.ctx.B (o.q.toNat % 8)
  let dests (d : Nat → Dest) : List Dest := sections.map d
  let samples (i : Instr) (runs : List (Nat × Nat)) (ds : List Dest) (l : Nat) : Prop :=
    good runs → s.ctx.clearOf (ds.contains ·) = true →
    ∃ (x : WinAcc) (fs : List Flight), exec i s = .next { addAcc x s with ctx := s.ctx.fly fs }
      ∧ x.ctx = s.ctxId ∧ x.cycle = s.cycle + 6 ∧ x.write = [] ∧ x.read = runs.flatMap (fun r => (List.range r.2).map fun i => r.1 + i)
      ∧ fs.map (·.dest) = ds ∧ ∀ f ∈ fs, f.wait = x.id ∧ f.cnt = l
  let r := o.dhi.toNat * 32 + o.dr.toNat
  (a % 2 ^ o.width.toNat = 0 → samples (.lds o) [(a, 2 ^ o.width.toNat)] (if r = 0 then [] else [.g r]) 12)
  ∧ (a % 16 = 0 → st % 16 = 0 → st ≠ 0 → banks (numbered words) = [] → samples (.ldv o) (words.map fun x => (x, 16)) (dests (.v o.dr.toNat)) 12)
  ∧ (a % 4 = 0 → (∀ x ∈ elems, x % 4 = 0) → banks (numbered elems) = [] → samples (.ldvx o) (elems.map fun x => (x, 4)) (dests (.v o.dr.toNat)) 12)
  ∧ (a % 64 = 0 → samples (.ldw o) [(a, 512)] (dests (.w (o.dr.toNat % 8))) 12)
  ∧ (a % 8 = 0 → samples (.ldm o) [(a, 64)] (if o.dr.toNat % 8 = 0 then [] else dests (.m (o.dr.toNat % 8))) 12)
  ∧ (o.sub.toNat % 4 < 3 → a % 8 = 0 → bValid b = true → (∀ x, bBase b ≤ x → x < bBase b + bBytes b → s.core.scratchPoison.contains (x / 16) = false) →
    samples (.ldc o) [(a, codedBytes (o.sub.toNat % 4) b)] (dests (.v o.dr.toNat)) 14)

/-- R75, R140, R246, R249, R250, R253: LDQ and the ring form of LDT read the slot that CONS and the slot index name once it has been produced and its bytes have been written, and block before; a ring in the cluster window is read by a window access on the sixth cycle after; LDT enters the matrix queue with its bytes, or with the access that will bring them; LDSTAT, PROBE and PROBE.fill on a hit read the statistics and the tag table. That PROBE.fill on a hit asks nothing of its ring and handle is log entry 32, and that a read past the slot's end gets the bytes as they stand there is log entry 73 (R358, Table 21-5).
R73, R253: PROBE.fill on a miss claims the victim slot, queues the fill and reports the miss. -/
def Obligations.RingTableAndProbeReads : Prop :=
  (∀ (o : LS) (s : State), sguard o.guard s.ctx = true →
    let a := (s.ctx.G o.gb.toNat + .ofInt 64 o.off.toInt : Word).toNat
    let q := s.ctx.Q o.q.toNat
    let k := o.off.toNat % 256
    let off := (s.ctx.G o.gb.toNat).toNat
    let slot := qSlot q (qCons q + k)
    let t := o.dr.toNat % 16
    let w := s.core.shape t
    let lines := (tileLines w).1
    let len := (tileLines w).2
    let p := if o.gs = 0 then len else (s.ctx.G o.gs.toNat).toNat
    let clean (n x : Nat) : Prop := ∀ y, x ≤ y → y < x + n → s.core.scratchPoison.contains (y / 16) = false
    let winClean (n x : Nat) : Prop := ∀ y, x ≤ y → y < x + n → localPoisoned s s.coreId true y = false
    let there : Prop := qConsumer q = true ∧ k < qN q ∧ k + 1 ≤ seenAvail s.core s.ctx o.q.toNat
    (there → qWin q = false → off % 16 = 0 → slot + off + 512 ≤ 0x400000 → clean 512 (slot + off) →
      Puts (.ldq o) s (sections.flatMap fun sec => putSec (.v o.dr.toNat sec)
        (ofLeBytes ((List.range 64).map fun i => Memory.byte s.core.scratch (slot + off + 64 * sec + i))) (2 ^ 512 - 1) 5))
    ∧ (there → qWin q = true → off % 16 = 0 → slot + off + 512 ≤ spaceBytes s.coreId true → winClean 512 (slot + off) →
      s.ctx.clearOf (fun d => sections.any fun sec => d == .v o.dr.toNat sec) = true →
      ∃ (x : WinAcc) (fs : List Flight), exec (.ldq o) s = .next { addAcc x s with ctx := s.ctx.fly fs } ∧ x.ctx = s.ctxId ∧ x.cycle = s.cycle + 6 ∧ x.write = []
        ∧ x.read = ((List.range 512).map fun i => slot + off + i) ∧ x.ring = some (o.q.toNat, (qCons q + k) % 2 ^ 32)
        ∧ (fs.map (·.dest)) = sections.map (.v o.dr.toNat) ∧ ∀ f ∈ fs, f.wait = x.id ∧ f.cnt = 12)
    ∧ (qConsumer q = true → k < qN q → seenAvail s.core s.ctx o.q.toNat ≤ k →
      k + 1 ≤ qAvail q ∨ (ringStop s.core s.ctxId o.q.toNat = none ∧ ∀ d ∈ s.ctx.dropped, d.ring ≠ o.q.toNat) →
      exec (.ldq o) s = .next (blockOn (.ring o.q.toNat k false) s)
      ∧ (s.core.mqueue.length < 16 → exec (.ldtRing o) s = .next (blockOn (.ring o.q.toNat k false) s)))
    ∧ (s.core.mqueue.length < 16 → tileOwner s.core t = s.ctxId → o.space = 0 → a % shZ w = 0 → p % shZ w = 0 →
      (∀ j, j < lines → a + j * p + len ≤ 0x400000 ∧ clean len (a + j * p)) →
      ∃ e : MEntry, exec (.ldt o) s = .next (enterMatrix e s) ∧ e.op = .ldt ∧ e.ta = t ∧ e.sa = w ∧ e.qin = none
        ∧ e.data = some ((List.range lines).flatMap fun j => (List.range len).map fun i => Memory.byte s.core.scratch (a + j * p + i)))
    ∧ (s.core.mqueue.length < 16 → tileOwner s.core t = s.ctxId → there → qWin q = false → off % 16 = 0 →
      (∀ j, j < lines → slot + off + j * len + len ≤ 0x400000 ∧ clean len (slot + off + j * len)) →
      ∃ e : MEntry, exec (.ldtRing o) s = .next (enterMatrix e s) ∧ e.op = .ldt ∧ e.ta = t ∧ e.sa = w
        ∧ e.qin = some (q, o.q.toNat, (qCons q + k) % 2 ^ 32, slot + off)
        ∧ e.data = some ((List.range lines).flatMap fun j => (List.range len).map fun i => Memory.byte s.core.scratch (slot + off + j * len + i)))
    ∧ (s.core.mqueue.length < 16 → tileOwner s.core t = s.ctxId → there → qWin q = true → off % 16 = 0 →
      (∀ j, j < lines → slot + off + j * len + len ≤ spaceBytes s.coreId true ∧ winClean len (slot + off + j * len)) →
      ∃ (e : MEntry) (x : WinAcc), exec (.ldtRing o) s = .next (addAcc x (enterMatrix e s)) ∧ e.op = .ldt ∧ e.ta = t ∧ e.sa = w ∧ e.data = none
        ∧ e.qin = some (q, o.q.toNat, (qCons q + k) % 2 ^ 32, slot + off) ∧ x.entry = e.id ∧ x.ctx = s.ctxId ∧ x.cycle = s.cycle + 6 ∧ x.write = []
        ∧ x.read = ((List.range lines).flatMap fun j => (List.range len).map fun i => slot + off + j * len + i))
    ∧ Puts (.ldstat o) s (sections.flatMap fun sec =>
        putSec (.v o.dr.toNat sec) (packE 128 (fun j => (tget 0 s.core.stats ((a + 4 * sec + j) % 16384)).toNat) 4) (2 ^ 512 - 1) 5)
    ∧ (s.core.cachecfg.getLsbD 0 = true →
      let r := o.dhi.toNat * 32 + o.dr.toNat
      let pd := o.space.toNat * 4 + o.width.toNat
      Puts (.probe o) s (putG r (.ofNat 64 ((probeHit s a).getD 0xFFFF)) 3 ++ putP pd (probeHit s a).isNone 3)
      ∧ (∀ n, probeHit s a = some n → (s.ctx.G o.gs.toNat).toNat % 2048 < bits s.core.cachecfg.toNat 26 16 →
        s.ctx.supv = true ∨ bits s.core.cachecfg.toNat 42 32 ≤ (s.ctx.G o.gs.toNat).toNat % 2048 →
        Puts (.probeFill o) s (putG r (.ofNat 64 n) 3 ++ putP pd false 3))))
  ∧ (∀ (o : LS) (s : State), sguard o.guard s.ctx = true →
    let a := (s.ctx.G o.gb.toNat + .ofInt 64 o.off.toInt : Word).toNat
    let g := (s.ctx.G o.gs.toNat).toNat
    let n := g % 2048
    let h := s.ctx.H (g / 2 ^ 16 % 16)
    let r := o.dhi.toNat * 32 + o.dr.toNat
    let pd := o.space.toNat * 4 + o.width.toNat
    let fs := putG r (.ofNat 64 n) 3 ++ putP pd true 3
    s.core.cachecfg.getLsbD 0 = true → probeHit s a = none → queuedCmds s.core 0 < 16 → n < bits s.core.cachecfg.toNat 26 16 →
    s.ctx.supv = true ∨ bits s.core.cachecfg.toNat 42 32 ≤ n → hValid h = true → hTier h ≠ 3 → hTier h ≠ 1 → qLocal (s.ctx.Q o.q.toNat) = true →
    collision s.ctx.flights fs = none →
    ∃ (m : Cmd) (t : State), exec (.probeFill o) s = .next t ∧ t.ctx = s.ctx.fly fs ∧ t.core.cmds = s.core.cmds ++ [m]
      ∧ m.op = .probeFill ∧ m.eng = 0 ∧ m.ring = some o.q.toNat ∧ m.h = h ∧ m.aux = n
      ∧ tget 0 t.core.tags n = tget 0 (tset 0 s.core.tags n (.ofNat 64 (5 + s.ctx.func.toNat * 8 + a / 2048 % 2 ^ 41 * 2048))) n
      ∧ t.core.scratch = s.core.scratch ∧ t.core.shared = s.core.shared ∧ t.mem = s.mem ∧ t.hub = s.hub)

/-- R65, R245 to R251: a store to the private scratchpad writes exactly its bytes at the end of its bundle, the last of two on one byte standing; no register and no other byte changes, and STC alone may raise UNENC.
R252, Table 12-1: an ATOM on the private scratchpad returns the old word and stores the new one in one step, at the end of its bundle. -/
def Obligations.PrivateStores : Prop :=
  (∀ (o : LS) (s : State), sguard o.guard s.ctx = true → o.space = 0 → s.core.scratch.wf = true →
  let a := effAddr o s.ctx
  let inSpace (runs : List (Nat × Nat)) : Prop := ∀ r ∈ runs, r.1 + r.2 ≤ 0x400000
  let st := if o.gs = 0 then 16 else (s.ctx.G o.gs.toNat).toNat
  let words := (List.range 32).map fun j => a + j * st
  let elems := gathered o s
  let n := 2 ^ o.width.toNat
  let vb (i : Nat) : Byte := (vbytes s o.dr.toNat).getD i 0
  let b := s.ctx.B (o.q.toNat % 8)
  let f := o.sub.toNat % 4
  let t := o.dr.toNat % 16
  let w := s.core.shape t
  let lines := (tileLines w).1
  let len := (tileLines w).2
  let p := if o.gs = 0 then len else (s.ctx.G o.gs.toNat).toNat
  let stores (i : Instr) (cells : List (Nat × Byte)) (flag : Context → Context) : Prop :=
    ∃ u, exec i s = .next u ∧ u.ctx = flag s.ctx ∧ u.core = { s.core with scratch := u.core.scratch, scratchPoison := u.core.scratchPoison }
      ∧ u.cores = s.cores ∧ u.mem = s.mem ∧ u.hub = s.hub ∧ u.tick = s.tick
      ∧ (∀ x, (∀ c ∈ cells, c.1 ≠ x) → Memory.byte u.core.scratch x = Memory.byte s.core.scratch x)
      ∧ (∀ x v l r, cells = l ++ (x, v) :: r → (∀ c ∈ r, c.1 ≠ x) → Memory.byte u.core.scratch x = v)
  (a % n = 0 → inSpace [(a, n)] → stores (.sts o) ((List.range n).map fun i => (a + i, .ofNat 8 ((s.ctx.G (o.dhi.toNat * 32 + o.dr.toNat)).toNat / 256 ^ i))) id)
  ∧ (a % 16 = 0 → st % 16 = 0 → st ≠ 0 → banks (numbered words) = [] → inSpace (words.map fun x => (x, 16)) →
    stores (.stv o) ((List.range 32).flatMap fun j => (List.range 16).map fun i => (a + j * st + i, vb (16 * j + i))) id)
  ∧ (a % 4 = 0 → (∀ x ∈ elems, x % 4 = 0) → banks (numbered elems) = [] → inSpace (elems.map fun x => (x, 4)) →
    stores (.stvx o) ((List.range 128).flatMap fun e => (List.range 4).map fun i => (elems.getD e 0 + i, vb (4 * e + i))) id)
  ∧ (a % 64 = 0 → inSpace [(a, 512)] →
    stores (.stw o) (sections.flatMap fun sec => (List.range 64).map fun i => (a + 64 * sec + i, .ofNat 8 ((s.ctx.W (o.dr.toNat % 8) sec).toNat / 256 ^ i))) id)
  ∧ (a % 8 = 0 → inSpace [(a, 64)] →
    stores (.stm o) (sections.flatMap fun sec => (List.range 8).map fun i => (a + 8 * sec + i, .ofNat 8 ((s.ctx.M (o.dr.toNat % 8) sec).toNat / 256 ^ i))) id)
  ∧ (tileOwner s.core t = s.ctxId → a % shZ w = 0 → p % shZ w = 0 → len ≤ p → s.core.tilePoison.getLsbD t = false → s.ctx.tileUnwaited.getLsbD t = false →
    inSpace ((List.range lines).map fun j => (a + j * p, len)) →
    stores (.stt o) ((List.range lines).flatMap fun j => (List.range len).map fun i => (a + j * p + i, tget 0 s.core.tile (t * 65536 + j * len + i))) id)
  ∧ (a % 8 = 0 → bValid b = true → (∀ x, bBase b ≤ x → x < bBase b + bBytes b → s.core.scratchPoison.contains (x / 16) = false) →
    inSpace [(a, codedBytes f b)] → stores (.stc o) (Memory.cellsOf a (packIndices (bW b) (codedStore o s b).1)) (fun c => c.flag 1 (codedStore o s b).2)))
  ∧ ∀ (o : LS) (s : State), sguard o.guard s.ctx = true → o.space = 0 → s.core.scratch.wf = true → 2 ≤ o.width.toNat →
  let a := effAddr o s.ctx
  let n := 2 ^ o.width.toNat
  let r := o.dhi.toNat * 32 + o.dr.toNat
  let old := ofLeBytes ((List.range n).map fun i => Memory.byte s.core.scratch (a + i))
  let b := (s.ctx.G o.gs.toNat).toNat % 256 ^ n
  let d := (s.ctx.G r).toNat % 256 ^ n
  let new_ : Nat := match o.sub.toNat with
    | 0 => (old + b) % 256 ^ n
    | 1 => if intOf (8 * n) true old ≤ intOf (8 * n) true b then old else b
    | 2 => if intOf (8 * n) true b ≤ intOf (8 * n) true old then old else b
    | 3 => old &&& b
    | 4 => old ||| b
    | 5 => old ^^^ b
    | 6 => b
    | _ => if old = b then d else old
  let fs := putG r (.ofNat 64 old) 5
  a % n = 0 → a + n ≤ 0x400000 → (∀ x, a ≤ x → x < a + n → s.core.scratchPoison.contains (x / 16) = false) → collision s.ctx.flights fs = none →
  ∃ t, exec (.atom o) s = .next t ∧ t.ctx = s.ctx.fly fs ∧ t.mem = s.mem ∧ t.hub = s.hub ∧ t.cores = s.cores
    ∧ t.core = { s.core with scratch := t.core.scratch, scratchPoison := t.core.scratchPoison }
    ∧ (∀ i, i < n → Memory.byte t.core.scratch (a + i) = .ofNat 8 (new_ / 256 ^ i))
    ∧ (∀ x, x < a ∨ a + n ≤ x → Memory.byte t.core.scratch x = Memory.byte s.core.scratch x)

/-- R69, R70, R252: a store or ATOM to the cluster window puts a window access in wait for the sixth cycle after its issue and changes no byte before it; the ATOM captures its operand and compare values, the low bytes of its registers. -/
def Obligations.WindowStores : Prop := ∀ (o : LS) (s : State), sguard o.guard s.ctx = true → o.space = 1 →
  let a := effAddr o s.ctx
  let inSpace (runs : List (Nat × Nat)) : Prop := ∀ r ∈ runs, r.1 + r.2 ≤ spaceBytes s.coreId true
  let st := if o.gs = 0 then 16 else (s.ctx.G o.gs.toNat).toNat
  let words := (List.range 32).map fun j => a + j * st
  let elems := gathered o s
  let n := 2 ^ o.width.toNat
  let b := s.ctx.B (o.q.toNat % 8)
  let f := o.sub.toNat % 4
  let t := o.dr.toNat % 16
  let w := s.core.shape t
  let lines := (tileLines w).1
  let len := (tileLines w).2
  let p := if o.gs = 0 then len else (s.ctx.G o.gs.toNat).toNat
  let writes (i : Instr) (cells : List (Nat × Byte)) (flag : Context → Context) : Prop :=
    ∃ x : WinAcc, exec i s = .next { addAcc x s with ctx := flag s.ctx } ∧ x.ctx = s.ctxId ∧ x.cycle = s.cycle + 6 ∧ x.read = [] ∧ x.atom = none ∧ x.write = cells
  (a % n = 0 → inSpace [(a, n)] → writes (.sts o) (Memory.cellsOf a (leBytes (s.ctx.G (o.dhi.toNat * 32 + o.dr.toNat)).toNat n)) id)
  ∧ (a % 16 = 0 → st % 16 = 0 → st ≠ 0 → banks (numbered words) = [] → inSpace (words.map fun x => (x, 16)) →
    writes (.stv o) (wordCells words (vbytes s o.dr.toNat)) id)
  ∧ (a % 4 = 0 → (∀ x ∈ elems, x % 4 = 0) → banks (numbered elems) = [] → inSpace (elems.map fun x => (x, 4)) →
    writes (.stvx o) ((List.range 128).flatMap fun i => Memory.cellsOf (elems.getD i 0) (((vbytes s o.dr.toNat).drop (4 * i)).take 4)) id)
  ∧ (a % 64 = 0 → inSpace [(a, 512)] →
    writes (.stw o) (sections.flatMap fun sec => Memory.cellsOf (a + 64 * sec) (leBytes (s.ctx.W (o.dr.toNat % 8) sec).toNat 64)) id)
  ∧ (a % 8 = 0 → inSpace [(a, 64)] →
    writes (.stm o) (sections.flatMap fun sec => Memory.cellsOf (a + 8 * sec) (leBytes (s.ctx.M (o.dr.toNat % 8) sec).toNat 8)) id)
  ∧ (tileOwner s.core t = s.ctxId → a % shZ w = 0 → p % shZ w = 0 → len ≤ p → s.core.tilePoison.getLsbD t = false → s.ctx.tileUnwaited.getLsbD t = false →
    inSpace ((List.range lines).map fun j => (a + j * p, len)) →
    writes (.stt o) ((List.range lines).flatMap fun j => (List.range len).map fun i => (a + j * p + i, tget 0 s.core.tile (t * 65536 + j * len + i))) id)
  ∧ (a % 8 = 0 → bValid b = true → (∀ x, bBase b ≤ x → x < bBase b + bBytes b → s.core.scratchPoison.contains (x / 16) = false) →
    inSpace [(a, codedBytes f b)] → writes (.stc o) (Memory.cellsOf a (packIndices (bW b) (codedStore o s b).1)) (fun c => c.flag 1 (codedStore o s b).2))
  ∧ (2 ≤ o.width.toNat → a % n = 0 → inSpace [(a, n)] → (∀ x, a ≤ x → x < a + n → localPoisoned s s.coreId true x = false) →
    s.ctx.clearOf (· == .g (o.dhi.toNat * 32 + o.dr.toNat)) = true →
    ∃ (x : WinAcc) (fs : List Flight), exec (.atom o) s = .next { addAcc x s with ctx := s.ctx.fly fs } ∧ x.cycle = s.cycle + 6 ∧ x.read = [] ∧ x.write = []
      ∧ (let low (r : Nat) : BitVec 64 := .ofNat 64 ((s.ctx.G r).toNat % 256 ^ n)
         x.atom = some (o.sub.toNat, a, n, low (if o.sub = 7 then o.dhi.toNat * 32 + o.dr.toNat else o.gs.toNat), low o.gs.toNat))
      ∧ ∀ f ∈ fs, f.wait = x.id ∧ f.cnt = 12)

/-- R72, R75, R246, R253, R254, R353: STQ writes its slot of a local ring once the slot is free, by a window access where the ring stands in the cluster window, and blocks before; that a slot is free only once the feeds and commands that read it before its release are done is the model's reading of R140 (log entry 34). TAGW writes an entry below NSLOT that is not the supervisor's, and faults on one that is. -/
def Obligations.RingAndTagWrites : Prop := ∀ (o : LS) (s : State), sguard o.guard s.ctx = true → s.core.scratch.wf = true →
  let q := s.ctx.Q o.q.toNat
  let k := o.off.toNat % 256
  let off := (s.ctx.G o.gb.toNat).toNat
  let at_ := qSlot q (qProd q + k) + off
  let n := effAddr o s.ctx
  let v := s.ctx.G (o.dhi.toNat * 32 + o.dr.toNat)
  (qLocal q = true → k < qN q → k + 1 ≤ storeFree s.core s.ctx o.q.toNat → qWin q = false → off % 16 = 0 → at_ + 512 ≤ 0x400000 →
    ∃ t, exec (.stq o) s = .next t ∧ t.ctx = s.ctx ∧ t.mem = s.mem ∧ t.hub = s.hub
      ∧ t.core = { s.core with scratch := t.core.scratch, scratchPoison := t.core.scratchPoison }
      ∧ (∀ i, i < 512 → Memory.byte t.core.scratch (at_ + i) = (vbytes s o.dr.toNat).getD i 0)
      ∧ (∀ x, x < at_ ∨ at_ + 512 ≤ x → Memory.byte t.core.scratch x = Memory.byte s.core.scratch x))
  ∧ (qLocal q = true → k < qN q → k + 1 ≤ storeFree s.core s.ctx o.q.toNat → qWin q = true → off % 16 = 0 → at_ + 512 ≤ spaceBytes s.coreId true →
    ∃ x : WinAcc, exec (.stq o) s = .next (addAcc x s) ∧ x.ctx = s.ctxId ∧ x.cycle = s.cycle + 6 ∧ x.read = [] ∧ x.atom = none
      ∧ x.write = (List.range 512).map fun i => (at_ + i, (vbytes s o.dr.toNat).getD i 0))
  ∧ (qLocal q = true → k < qN q → storeFree s.core s.ctx o.q.toNat ≤ k → exec (.stq o) s = .next (blockOn (.ring o.q.toNat k true) s))
  ∧ (s.core.cachecfg.getLsbD 0 = true → n < bits s.core.cachecfg.toNat 26 16 → v.toNat / 256 % 8 = 0 → v.toNat / 2 ^ 52 = 0 →
    (s.ctx.supv = true ∨ bits s.core.cachecfg.toNat 42 32 ≤ n →
      exec (.tagw o) s = .next { s with core := { s.core with tags := tset 0 s.core.tags n v } })
    ∧ (s.ctx.supv = false → n < bits s.core.cachecfg.toNat 42 32 →
      exec (.tagw o) s = .next (takeFault { cls := 3, code := 2, slots := 64, addr := .ofNat 64 n, info := .ofNat 32 (bits s.core.cachecfg.toNat 42 32) } s)))

/-- R69, R70, R136: on its cycle every due access of a cluster performs and leaves the window; a read delivers the bytes as they then stand to the results that wait for it, and a write stores exactly its bytes, the last of two on one byte standing; a supervisor core has no window.
R70, R252, Table 12-1: an ATOM delivers the old word and stores the new one in one step, and changes no other byte.
R332: an access that reads a poisoned word, poisoned since it issued, stores nothing, and freezes its context with CLASS 0x09, CODE 0x0002 and the offset of the first such byte where that context runs (the model's choice of when, log entry 33); the three clauses before are of accesses that meet no poison. -/
def Obligations.WindowAccessPerforms : Prop := ∀ (c : Nat) (s : State), isCore c = true →
  (isSupCore c = true → exec (.windowAccessPerform c) s = .next s)
  ∧ (isSupCore c = false → ∃ t, exec (.windowAccessPerform c) s = .next t ∧ t = performDue (coresOf (c / 4)) s
    ∧ ∀ d ∈ coresOf (c / 4), ∀ x ∈ (getCore t d).window, s.cycle < x.cycle)
  ∧ (∀ (x : WinAcc) (y : Nat) (l r : List Nat), x.reads = l ++ y :: r → (∀ z ∈ l, localPoisoned s c true z = false) → localPoisoned s c true y = true →
    (∀ z, winByte (performAcc (c, x) s) c z = winByte s c z)
    ∧ (x.entry = 0 → (getCtx s c x.ctx).life = .running → (getCtx s c x.ctx).frozen = none →
      (getCtx (performAcc (c, x) s) c x.ctx).frozen = some { cls := 9, code := 2, addr := .ofNat 64 y }))
  ∧ (∀ x : WinAcc, x.atom = none → x.read ≠ [] → x.entry = 0 → (∀ y ∈ x.read, localPoisoned s c true y = false) →
    (getCtx (performAcc (c, x) s) c x.ctx).flights = deliver x.id (loadVals x.shape x.arg x.arg2 (x.read.map (winByte s c))) (getCtx s c x.ctx).flights)
  ∧ (∀ x : WinAcc, x.atom = none → x.read = [] → (∀ d, (getCore s d).shared.wf = true) →
    (∀ y, (∀ p ∈ x.write, p.1 ≠ y) → winByte (performAcc (c, x) s) c y = winByte s c y)
    ∧ ∀ y v l r, x.write = l ++ (y, v) :: r → (∀ p ∈ r, p.1 ≠ y) → winByte (performAcc (c, x) s) c y = v)
  ∧ (∀ (x : WinAcc) (op y n : Nat) (b d : BitVec 64), x.atom = some (op, y, n, b, d) → n ≤ 8 → b.toNat < 256 ^ n → (∀ i, (getCore s i).shared.wf = true) →
    (∀ i, i < n → localPoisoned s c true (y + i) = false) →
    let old := ofLeBytes ((List.range n).map fun i => winByte s c (y + i))
    let new_ : Nat := match op with
      | 0 => (old + b.toNat) % 256 ^ n
      | 1 => if intOf (8 * n) true old ≤ intOf (8 * n) true b.toNat then old else b.toNat
      | 2 => if intOf (8 * n) true b.toNat ≤ intOf (8 * n) true old then old else b.toNat
      | 3 => old &&& b.toNat
      | 4 => old ||| b.toNat
      | 5 => old ^^^ b.toNat
      | 6 => b.toNat
      | _ => if old = d.toNat then b.toNat else old
    (getCtx (performAcc (c, x) s) c x.ctx).flights = deliver x.id [old] (getCtx s c x.ctx).flights
    ∧ (∀ i, i < n → winByte (performAcc (c, x) s) c (y + i) = .ofNat 8 (new_ / 256 ^ i))
    ∧ ∀ z, z < y ∨ y + n ≤ z → winByte (performAcc (c, x) s) c z = winByte s c z)

/-! ## The E slot -/

/-- R255, R257 to R261, R274, R275, R363, R365: a copy, an append or an RMW within its limits enters the queue of its engine with everything it captured. -/
def Obligations.CopyCommandsQueue : Prop := ∀ (o : EF) (s : State), sguard o.guard s.ctx = true →
  let q := s.ctx.Q o.qc.toNat
  let es (n : Nat) := stagingRun o n s
  let h := s.ctx.H o.h.toNat
  let d := dirOf o
  let local_ (w : BitVec 64) : Prop := bits w.toNat 63 25 = 0 ∧ w.getLsbD 23 = false
  let usable (write : Bool) : Prop := hValid h = true ∧ (write = true → hW h = true ∧ hTier h ≠ 1) ∧ (hTier h = 3 → 2 ≤ fSclim s s.ctx.func.toNat)
  let device (w : BitVec 64) (n : Nat) (write : Bool) : Prop := bits w.toNat 63 40 = 0 ∧ usable write ∧ devOff w + n ≤ hBytes h
    ∧ (hTier h = 1 → write = false → devOff w % 4096 = 0 ∧ n % 4096 = 0)
  let inside (w : BitVec 64) (n : Nat) : Prop := local_ w ∧ locOff w + n ≤ spaceBytes s.coreId (locWin w)
  let length_ (w : BitVec 64) : Prop := bits w.toNat 63 32 = 0 ∧ w ≠ 0
  let at_ := if o.at_ then some (s.ctx.G o.gt.toNat) else none
  let ga := (s.ctx.G o.ga.toNat).toNat
  let gb := (s.ctx.G o.gb.toNat).toNat
  let width := if o.sub.getLsbD 3 then 8 else 4
  let entry (dst : Bool) (limit : Nat) (skip base : Nat) : Prop :=
    ∀ i ∈ cpyaRuns (es 8), 0 ≤ cpyaOff (es 8) dst base skip i ∧ cpyaOff (es 8) dst base skip i + bits (word (es 8) 2).toNat 31 0 ≤ limit
  (queuedCmds s.core 0 < 16 → qLocal q = true → d < 3 → length_ (word (es 3) 2) →
    (let n := bits (word (es 3) 2).toNat 31 0
     let a := word (es 3) 0
     let b := word (es 3) 1
     (if d = 0 then device a n false else inside a n) → (if d = 1 then device b n true else inside b n) →
     (d = 2 → locWin a = locWin b → locOff a + n ≤ locOff b ∨ locOff b + n ≤ locOff a) →
     Queues (.cpy o) s s .cpy 0 (some o.qc.toNat) fun m => m.sub = d ∧ m.h = h ∧ m.es = es 3 ∧ m.at_ = at_))
  ∧ (queuedCmds s.core 0 < 16 → qLocal q = true → d < 3 → length_ (word (es 8) 2) → bits (word (es 8) 3).toNat 63 48 = 0 →
    (let n := bits (word (es 8) 2).toNat 31 0
     let w (dst : Bool) := word (es 8) (if dst then 1 else 0)
     let queues : Prop := Queues (.cpya o) s s .cpya 0 (some o.qc.toNat) fun m => m.sub = d ∧ m.h = h ∧ m.es = es 8 ∧ m.at_ = at_
     (word (es 8) 7 = 0 →
       (∀ dst, if cpyaDev d dst = true then
           bits (w dst).toNat 63 40 = 0 ∧ usable dst ∧ entry dst (hBytes h) 0 (devOff (w dst))
             ∧ (hTier h = 1 → dst = false → n % 4096 = 0 ∧ ∀ i ∈ cpyaRuns (es 8), cpyaOff (es 8) dst (devOff (w dst)) 0 i % 4096 = 0)
         else local_ (w dst) ∧ entry dst (spaceBytes s.coreId (locWin (w dst))) 0 (locOff (w dst))) →
       queues)
     ∧ (cpyaInd (es 8) = true → cpyaControl (es 8) d = true → cpyaTbl (es 8) % 8 = 0 →
       cpyaTbl (es 8) + 8 * cpyaFirst (es 8) + 8 * ixAt (cpyaCounts (es 8)) (cpyaDim (es 8)) ≤ 0x400000 →
       (∀ dst, if cpyaDev d dst = true then
           bits (w dst).toNat 63 40 = 0 ∧ (cpyaFillb (es 8) = false → entry dst 65536 (cpyaDim (es 8)) (devOff (w dst)))
         else local_ (w dst) ∧ (cpyaFillb (es 8) = false → entry dst (spaceBytes s.coreId (locWin (w dst))) 0 (locOff (w dst)))) →
       queues)))
  ∧ (queuedCmds s.core 0 < 16 → d = 0 ∨ d = 2 → qValid q = true → (qRemote q = true → qProducer q = true) → bits (word (es 2) 1).toNat 63 32 = 0 →
    (let n := bits (word (es 2) 1).toNat 31 0
     n ≠ 0 → n ≤ qSize q → (if d = 0 then device (word (es 2) 0) n false else inside (word (es 2) 0) n) →
     Queues (.cpyw o) s s .cpyw 0 (some o.qc.toNat) fun m => m.sub = d ∧ m.h = h ∧ m.es = es 2 ∧ m.at_ = at_))
  ∧ (queuedCmds s.core 0 < 16 → qLocal q = true → bits (word (es 2) 1).toNat 7 4 = 0 → bits (word (es 2) 1).toNat 63 16 = 0 → locOff (word (es 2) 0) % 64 = 0 →
    inside (word (es 2) 0) (4096 * (bits (word (es 2) 1).toNat 15 8 + 1)) → gb % 8 = 0 → gb + 8 ≤ 0x400000 →
    Queues (.flapp o) s s .flapp 0 (some o.qc.toNat) fun m => m.es = es 2 ∧ m.gb = s.ctx.G o.gb.toNat ∧ m.at_ = at_)
  ∧ (queuedCmds s.core 4 < 16 → qLocal q = true → usable false → hRat h = true → hW h = true → hTier h ≠ 1 → hTier h ≠ 2 → ga % width = 0 → ga + width ≤ hBytes h →
    bits (word (es 3) 2).toNat 63 23 = 0 → bits (word (es 3) 2).toNat 22 0 % 8 = 0 → bits (word (es 3) 2).toNat 22 0 + 8 ≤ 0x400000 →
    Queues (.rmw o) s s .rmw 4 (some o.qc.toNat) fun m => m.h = h ∧ m.ga = s.ctx.G o.ga.toNat ∧ m.es = es 3 ∧ m.sub = o.sub.toNat)

/-- R50, R53, R54, R62, R97 to R99, R101, R262 to R267, R353: a codebook, stitch or page command within its limits takes what it takes at issue and enters the queue of its engine; CBRET clears VALID alone and leaves the reference to drop; an UNPIN takes a pin that it names whose PIN has completed, marks it as leaving, waits for the completion of every earlier copy, and faults where the context holds no such pin. That SPLICE, PIN and UNPIN, which write the descriptor, need a handle with W set is the model's reading (log entry 60), and so is it that a SPLICE holds every outstanding write of its context (R98; log entry 37). -/
def Obligations.BookAndTensorCommandsQueue : Prop := ∀ (o : EF) (s : State), sguard o.guard s.ctx = true →
  let r := o.qc.toNat
  let f := s.ctx.func.toNat
  let b := o.h.toNat % 8
  let h := s.ctx.H o.h.toNat
  let ga := (s.ctx.G o.ga.toNat)
  let gb := (s.ctx.G o.gb.toNat)
  let usable : Prop := hValid h = true ∧ (hTier h = 3 → 2 ≤ fSclim s f)
  let tensor : Prop := usable ∧ hW h = true ∧ hTier h ≠ 1 ∧ ga.toNat % 64 = 0 ∧ ga.toNat + 320 ≤ hBytes h
  let record (n : Nat) : Prop := gb.toNat % n = 0 ∧ gb.toNat + n ≤ 0x400000
  let head := BitVec.ofNat 64 (hBase h + ga.toNat)
  let es := stagingRun o 3 s
  let bs := s.ctx.B (o.ga.toNat % 8)
  let bd := s.ctx.B (o.gb.toNat % 8)
  let g := bits (word es 2).toNat 23 0
  let rows := bits (word es 2).toNat 47 24
  let h2 := s.ctx.H (bits (word es 1).toNat 63 60)
  let ns := codedTensor (bW bs) rows g
  let nd := codedTensor (bW bd) rows g
  let x := hBase h + devOff (word es 0)
  let y := hBase h2 + devOff (word es 1)
  (qLocal (s.ctx.Q r) = true →
    (queuedCmds s.core 1 < 16 → bits (word es 0).toNat 63 40 = 0 → bits (word es 1).toNat 59 40 = 0 → bits (word es 2).toNat 63 48 = 0 →
      devOff (word es 0) % 8 = 0 → devOff (word es 1) % 8 = 0 → g ≠ 0 → rows ≠ 0 →
      hValid h = true → hTier h = 0 → hValid h2 = true → hTier h2 = 0 → hW h2 = true → bValid bs = true → bValid bd = true → bD bs = bD bd →
      devOff (word es 0) + ns ≤ hBytes h → devOff (word es 1) + nd ≤ hBytes h2 → (x = y ∧ bW bs = bW bd ∨ x + ns ≤ y ∨ y + nd ≤ x) →
      Queues (.enc o) s (addRef f (bId bd) (bVer bd) (addRef f (bId bs) (bVer bs) s)) .enc 1 (some r) fun m => m.h = h ∧ m.h2 = h2 ∧ m.es = es ∧ m.b1 = bs ∧ m.b2 = bd)
    ∧ (∀ float j, queuedCmds s.core 0 < 16 → bValid (s.ctx.B b) = false → bits ga.toNat 49 32 = 0 → (float = true → bits ga.toNat 31 16 = 0) →
      cbindSlot s float ga = some j → entryCause s f (bId ga) = none → readCause s f (svHdr (slotWord s f (bId ga) j)) 64 = none →
      (let hd := header s f (svHdr (slotWord s f (bId ga) j))
       let new := mkBinding (bId ga) (svVer (slotWord s f (bId ga) j)) hd float (bits ga.toNat 63 50)
       bBase ga + bits hd 159 144 ≤ 0x400000 →
       Queues (if float then .cbindFloat o else .cbindPin o) s (addRef f (bId ga) (bVer new) { s with ctx := s.ctx.setB b new }) .cbind 0 (some r)
         fun m => m.aux = b ∧ m.b1 = new ∧ m.ga = .ofNat 64 (svHdr (slotWord s f (bId ga) j))))
    ∧ (queuedCmds s.core 1 < 16 → record 8 → bVer ga = 0 → bFloat ga = false → bValid ga = false → bFmt ga ∈ [6, 8, 9, 10] → bBase ga + bBytes ga ≤ 0x400000 →
      Queues (.cbrev o) s s .cbrev 1 (some r) fun m => m.ga = ga ∧ m.gb = gb)
    ∧ (queuedCmds s.core 2 < 16 → tensor → record 32 →
      Queues (.splice o) s s .splice 2 (some r) (fun m => m.sub = 0 ∧ m.ga = head ∧ m.gb = gb ∧ ∀ w ∈ outstandingWrites s.core s.ctxId, w ∈ m.holds)
      ∧ Queues (.spliceTrap o) s s .splice 2 (some r) (fun m => m.sub = 1 ∧ m.ga = head ∧ m.gb = gb ∧ ∀ w ∈ outstandingWrites s.core s.ctxId, w ∈ m.holds)
      ∧ (pinCount s < 16 → Queues (.pin o) s s .pin 2 (some r) fun m => m.ga = head ∧ m.gb = gb))
    ∧ (queuedCmds s.core 2 < 16 → usable → hPsz h = 0 → record 8 → Queues (.share o) s s .share 2 (some r) fun m => m.h = h ∧ m.gb = gb)
    ∧ (queuedCmds s.core 3 < 16 → s.ctx.supv = true →
      (bits ga.toNat 4 0 ≤ 16 → record 8 → Queues (.pgalloc o) s s .pgalloc 3 (some r) fun m => m.ga = .ofNat 64 (bits ga.toNat 4 0) ∧ m.gb = gb)
      ∧ Queues (.pgfree o) s s .pgfree 3 (some r) fun m => m.ga = .ofNat 64 (bits ga.toNat 51 16)))
  ∧ (bValid (s.ctx.B b) = true → exec (.cbret o) s = .next { s with
      ctx := s.ctx.setB b (s.ctx.B b &&& ~~~((1 : BitVec 64) <<< 49)), core := { s.core with refDrops := s.core.refDrops ++ [refDropOf s.ctx s.core s.ctxId (s.ctx.B b)] } })
  ∧ (bValid (s.ctx.B b) = false → exec (.cbret o) s = .next s)
  ∧ (queuedCmds s.core 2 < 16 → tensor →
    (let names (p : Pin) : Prop := p.head = head.toNat ∧ p.ver = bits gb.toNat 15 0 ∧ p.leaving = false ∧ ∀ m ∈ s.core.cmds, m.id ≠ p.cmd
     (∀ a p b, s.ctx.pins = a ++ p :: b → names p → (∀ x ∈ a, ¬ names x) →
       Queues (.unpin o) s { s with ctx := { s.ctx with pins := a ++ { p with leaving := true } :: b } } .unpin 2 none
         fun m => m.ga = head ∧ m.gb = gb ∧ ∀ c ∈ s.core.cmds, c.ctx = s.ctxId → c.eng = 0 → c.id ∈ m.ends)
     ∧ ((∀ p ∈ s.ctx.pins, ¬ names p) → ∃ e, exec (.unpin o) s = .next (takeFault e s) ∧ e.cls = 6 ∧ e.code = 8)))
  ∧ (queuedCmds s.core 3 < 16 → s.ctx.supv = false →
    exec (.pgfree o) s = .next (takeFault { cls := 3, code := 1, slots := 128, addr := encode (.pgfree o) } s))

/-- R75, R77, R79, R268 to R270, R318, R353: XLAT lands the handle of a cached translation and waits for one that is not; HREL clears VALID; ADV moves a count of slots by G[ga], holds new slots back from every reader until the context's earlier writes, on the LS path and on the paths that filled them, have performed, and released ones from every producer until the reads of the ring issued in earlier bundles have completed, and returns a remote ring's slots; RINGSET writes a ring with both counts zero, and binds a remote one. What ADV hides and holds back is the model's reading of R140, and that RINGSET leaves out a command of its own bundle is its reading of R338 (log entry 34); what an entry on another package holds is a free value (log entry 35). -/
def Obligations.HandlesAndRings : Prop := ∀ (o : EF) (s : State), sguard o.guard s.ctx = true →
  let va := (s.ctx.G o.ga.toNat).toNat
  let n := va % 2 ^ 32
  let r := o.qc.toNat
  let q := s.ctx.Q r
  let w := s.ctx.G o.ga.toNat
  let new_ : BitVec 128 := (w ||| 0x8000000000000000).setWidth 128
  let f := s.ctx.func.toNat
  let e := rrEntry s f (qLink q)
  let dropped := s.ctx.dropped.filter fun d => d.ring != r
  let filled := s.ctx.filled.filter fun d => d.ring != r
  let others (l : List RingHold) := l.filter fun d => d.ring != r
  let back (done : Nat → Bool) (l : List RingHold) (first : Nat) (ids : List Nat) : List RingHold :=
    (l.filter fun d => !d.ids.all done) ++ if ids = [] then [] else [⟨r, first, ids⟩]
  let fits : Prop := bits w.toNat 21 18 ≤ 10 ∧ bits w.toNat 29 22 ≠ 0 ∧ bits w.toNat 62 48 = 0 ∧ qBase new_ + qN new_ * qSize new_ ≤ spaceBytes s.coreId (qWin new_)
    ∧ (∀ m ∈ ringCmds s.core s.ctxId r, m.cycle = s.cycle ∧ m.pc = s.ctx.pc) ∧ returning s s.coreId s.ctxId r = false
  (∀ t, tlbFind s.core f va = some t → Puts (.xlat o) s (putReg (.h o.h.toNat) t.handle 9))
  ∧ (tlbFind s.core f va = none → exec (.xlat o) s = .next (blockOn (.xlat va) s))
  ∧ Puts (.hrel o) s [{ dest := .h o.h.toNat, val := 0, mask := 1, cnt := 1 }]
  ∧ (n = 0 → exec (.advProd o) s = .next s ∧ exec (.advCons o) s = .next s)
  ∧ (n ≠ 0 → qLocal q = true → qAvail q + n ≤ qN q → exec (.advProd o) s = .next { s with
      ctx := { s.ctx.setQ r (qAdvProd q n) with
        hidden := back (performed s.core) s.ctx.hidden (qProd q) (fillWrites s.core s.ctxId s.ctx r (qProd q) n)
        filled := s.ctx.filled.filter fun d => d.ring != r || decide ((d.count + 2 ^ 32 - (qProd q + n) % 2 ^ 32) % 2 ^ 32 < qN q) } })
  ∧ (∀ i ∈ lsWrites s.core s.ctxId, i ∈ fillWrites s.core s.ctxId s.ctx r (qProd q) n)
  ∧ (∀ m ∈ s.core.cmds, m.ctx = s.ctxId → m.phase ≠ .done → m.op = .cpy →
    (∃ i, i < n ∧ m.dests.any (inSlot q ((qProd q + i) % 2 ^ 32)) = true) → m.id ∈ fillWrites s.core s.ctxId s.ctx r (qProd q) n)
  ∧ (n ≠ 0 → qConsumer q = true → n ≤ qAvail q → qRemote q = false → exec (.advCons o) s = .next { s with
      ctx := { s.ctx.setQ r (qAdvCons q n) with held := back (readDone s.core) s.ctx.held (qCons q) (slotReads s r) } })
  ∧ (n ≠ 0 → qConsumer q = true → n ≤ qAvail q → qRemote q = true → rrBad s f (qLink q) = none →
    ∃ t, exec (.advCons o) s = .next t ∧ t.mem = s.mem
      ∧ t.ctx = { s.ctx.setQ r (qAdvCons q n) with held := back (readDone s.core) s.ctx.held (qCons q) (slotReads s r) }
      ∧ t.hub.ringMsgs = s.hub.ringMsgs ++ (if rrHere s e then
        (List.range n).map fun i => .ret (rrFn e) (rrLink e) s.coreId s.ctxId r ((qCons q + i) % 2 ^ 32) (s.newId + i) else [])
      ∧ ∃ l, t.core.cmds = s.core.cmds ++ l ∧ l.length = n ∧ ∀ m ∈ l, m.op = .slotReturn ∧ m.ctx = s.ctxId ∧ m.sub = r ∧ m.remote = true)
  ∧ (fits → qRemote new_ = false → exec (.ringset o) s = .next { s with
      ctx := { s.ctx.setQ r new_ with dropped := dropped, hidden := others s.ctx.hidden, held := others s.ctx.held, filled := filled } })
  ∧ (fits → qRemote new_ = true → pairBad s f (qLink new_) = none → mayBind s (qLink new_) (qProducer new_) = true →
    exec (.ringset o) s = .next { s with
      ctx := { s.ctx.setQ r new_ with dropped := dropped, hidden := others s.ctx.hidden, held := others s.ctx.held, filled := filled }
      hub := { s.hub with bound := ⟨f * 65536 + qLink new_, s.coreId, s.ctxId, s.ctx.task, r⟩ :: s.hub.bound.filter fun b => b.key != f * 65536 + qLink new_ } })

/-- R112 to R115, R120, R129, R138, R139, R271 to R273, R379, R388: messages, signals and drains enter their queues; a wait lets its bundle pass once its condition holds, and blocks it before. What SYNC and a STEP without its MEMB bit do on their own is the model's choice (log entry 36). -/
def Obligations.MessagesWaitsAndBarriers : Prop := ∀ (o : EF) (s : State), sguard o.guard s.ctx = true →
  let r := o.qc.toNat
  let f := s.ctx.func.toNat
  let ga := s.ctx.G o.ga.toNat
  let gb := s.ctx.G o.gb.toNat
  let at_ := if o.at_ then some (s.ctx.G o.gt.toNat) else none
  let writes := outstandingWrites s.core s.ctxId
  let i := bits ga.toNat 11 0
  let thr : BitVec 16 := gb.setWidth 16
  let l := if o.sub.toNat % 8 = 7 then bits s.ctx.domain.toNat 8 6 else o.sub.toNat % 8
  let sc := o.scope.toNat
  let clear : Prop := ∀ m ∈ s.core.cmds, m.ctx = s.ctxId → m.cause = none
  let paths : Prop := ∀ m ∈ s.core.cmds, m.ctx = s.ctxId → m.cls.isSome = true ∨ m.remote = true → m.cause = none
  let allowed (need : Nat) : Prop := need ≤ fSclim s f ∨ fFpol s f = false
  let flagged (need : Nat) (c : Context) : Context := c.flag fFDOWN (decide (fSclim s f < need))
  let level := if l = 4 then 1 else if l = 5 then 2 else 0
  let whole : Prop := clear ∧ allowed level ∧ (l = 5 → s.hub.aligned = true ∧ s.hub.step5Bad = []) ∧ (4 ≤ l → groupBroken s s.ctx = false)
  (qLocal (s.ctx.Q r) = true → queuedCmds s.core 4 < 16 → gb.toNat % 64 = 0 → gb.toNat + 64 ≤ 0x400000 →
    ((bits ga.toNat 19 8 = s.hub.package.toNat ∨ 2 ≤ fSclim s f) →
      Queues (.msg o) s s .msg 4 (some r) fun m => m.ga = ga ∧ m.gb = gb ∧ m.at_ = at_ ∧ ∀ w ∈ writes, w ∈ m.holds)
    ∧ Queues (.task o) s s .task 4 (some r) fun m => m.ga = ga ∧ m.gb = gb ∧ m.at_ = at_ ∧ m.aux = dieOf s.coreId ∧ ∀ w ∈ writes, w ∈ m.holds)
  ∧ (queuedCmds s.core 5 < 16 → Queues (.evsig o) s s .evsig 5 none fun m => m.ga = ga ∧ m.gb = gb ∧ m.at_ = at_ ∧ ∀ w ∈ writes, w ∈ m.holds)
  ∧ exec (.evwait o) s = .next (if (tget 0 s.hub.counters (f * 4096 + i) - thr).toNat < 32768 then s else blockOn (.event i thr) s)
  ∧ exec (.twait o) s = .next (if ga ≤ s.tick then s else blockOn (.tick ga) s)
  ∧ (allowed sc → exec (.fence o) s = .next { s with ctx := flagged sc { s.ctx with
      fences := (s.ctx.fences.filter fun x => !x.ids.all (nearDone s.core)) ++ [⟨o.clb, outstanding s.core s.ctxId o.cla⟩] } })
  ∧ (queuedCmds s.core 5 < 16 → qLocal (s.ctx.Q r) = true → allowed sc → paths →
    Queues (.drain o) s { s with ctx := flagged sc { s.ctx with drainRemote := outstandingRemote s.core s.ctxId, drainAll := outstandingAll s.core s.ctxId } }
      .drain 5 (some r) fun m => m.allHolds = outstandingAll s.core s.ctxId)
  ∧ (whole → takesPart l s = false ∨ s.ctx.release = .here → exec (.bar o) s = .next { s with ctx := flagged level s.ctx })
  ∧ (whole → takesPart l s = false ∧ stale s = false ∧ s.ctx.release = .no ∨ s.ctx.release = .here → exec (.step o) s = .next { s with ctx := flagged level s.ctx })
  ∧ (whole → takesPart l s = true → s.ctx.release ≠ .here → exec (.bar o) s = .next (blockOn (.bar l) s) ∧ exec (.step o) s = .next (blockOn (.step l) s))
  ∧ (whole → takesPart l s = false → stale s = true → s.ctx.release ≠ .here → exec (.step o) s = .next (blockOn (.step l) s))
  ∧ (clear → exec (.sync o) s = .next (if isSupCore s.coreId = true ∨ s.ctx.release = .here then s else blockOn .sync s))

/-! ## Steps of the part: results and engines -/

/-- R104, R129, R255, R327, R380: due results land in their context alone; an engine starts its next command once it may start and its tick has come; an allocation that starts takes its page; a started command performs and settles behind the earlier commands on its bytes, and one that reads local bytes no earlier than the sixth cycle after its issue; a slot return to another package leaves; a suspended command resumes from its start or is discarded. What another package answers to a record is free (log entry 50); that a command performs in the one step of its completion is log entry 21, and that an indirect CPYA which resumes is remote only once it has read a far entry again is log entry 62. It says where exec answers a next state for resultLands, engineCommandStart, timedCommandStart, pgallocPageTaken, discardCommand, resumeCommand and engineCompletion.
R375, R391: a remote request that is retried with success counts as a corrected error; the third failure suspends its command, as does a request to CXL memory without an answer. Which address and package a record names is the model's reading, and the syndrome of a corrected retry is a free value (log entries 14 and 24). It says where exec answers a next state for endToEndRetry and cxlTimeout. -/
def Obligations.EngineSteps : Prop :=
  (∀ (c : Nat) (s : State), isCore c = true →
    (∀ k, k < 4 → ∃ t, exec (.resultLands c k) s = .next t ∧ getCtx t c k = (getCtx s c k).landDue ∧ t.mem = s.mem ∧ t.hub = s.hub
      ∧ ∀ d j, d ≠ c ∨ j ≠ k → getCtx t d j = getCtx s d j)
    ∧ (∀ e m, nextCmd (getCore s c) e = some m →
      (mayStart s c m = false → exec (.engineCommandStart c e) s = .next s ∧ exec (.timedCommandStart c e) s = .next s)
      ∧ (mayStart s c m = true →
        (m.at_ = none → exec (.engineCommandStart c e) s = .next (startCmd c m s) ∧ exec (.timedCommandStart c e) s = .next s)
        ∧ (∀ T, m.at_ = some T → exec (.engineCommandStart c e) s = .next s
          ∧ exec (.timedCommandStart c e) s = .next (if T ≤ s.tick then startCmd c m s else s))))
    ∧ (∀ m, nextCmd (getCore s c) 3 = some m → m.op = .pgalloc →
      (mayStart s c m = false → exec (.pgallocPageTaken c m.id) s = .next s)
      ∧ (mayStart s c m = true → exec (.pgallocPageTaken c m.id) s = .next (startCmd c m s)
        ∧ (withinQuota s m.ga.toNat 1 = true → ∃ p ∈ s.hub.free, (startCmd c m s).hub.free = s.hub.free.erase p
          ∧ (getCore (startCmd c m s) c).cmds = (getCore s c).cmds.map fun x => if x.id = m.id then { m with phase := .started, claim := [p] } else x)))
    ∧ (∀ m, m.op ≠ .cbrev → m.op ≠ .cpyw → m.op ≠ .pgalloc →
      (getCore (startCmd c m s) c).cmds = (getCore s c).cmds.map fun x => if x.id = m.id then { m with phase := .started } else x)
    ∧ (∀ id m, findCmd s c id = some m → m.phase = .started →
      ∀ p ∈ ([(.engineCompletion c id, [.cpy, .cpya, .cpyw, .flapp, .share, .pgalloc, .pgfree, .msg, .task, .rmw, .evsig, .drain]),
          (.cbindArrayLands c id, [.cbind]), (.cbrevPublish c id, [.cbrev]), (.encComplete c id, [.enc]), (.splicePerform c id, [.splice]),
          (.pinPerform c id, [.pin]), (.unpinDrop c id, [.unpin]), (.probeFillLands c id, [.probeFill])]
          : List (Instr × List Op)), m.op ∈ p.2 →
        (m.sources = [] ∨ m.cycle + 6 ≤ s.cycle → mustFollow s c m = false →
          exec p.1 s = .next (settleRefs c (onStore c m.func (fun u => conclude c m (perform c m u)) s)))
        ∧ ((m.sources ≠ [] ∧ s.cycle < m.cycle + 6) ∨ mustFollow s c m = true → exec p.1 s = .next s))
    ∧ (∀ id m, findCmd s c id = some m →
      (m.cause ≠ none → exec (.discardCommand c id) s = .next (onStore c m.func (discardCmd c m) s)
        ∧ ∃ t, exec (.resumeCommand c id) s = .next t ∧ t.mem = s.mem ∧ t.hub = s.hub
          ∧ (getCore t c).cmds = (getCore s c).cmds.map fun x =>
            if x.id = id then { x with
              phase := if x.op = .slotReturn then .sent else .started, began := 0, retries := 0, refused := 0, behind := false, runs := 0
              claim := if x.op = .cpya then [] else x.claim, remote := x.remote && !(x.op == .cpya && cpyaInd x.es) }
            else x)
      ∧ (m.cause = none → exec (.discardCommand c id) s = .next s)
      ∧ (m.op = .slotReturn → exec (.engineCompletion c id) s = .next (if carried s c id = false ∧ mayReturn s c m = true ∧ returnBehind s c m = false then leave c m s else s))
      ∧ (m.phase = .sent → m.op = .msg → bits m.ga.toNat 19 8 ≠ s.hub.package.toNat →
        (earlierMsg s c m = true → exec (.engineCompletion c id) s = .next (if m.behind = false ∧ droppedBefore s c m = true then nackAway c m false s else s))
        ∧ (earlierMsg s c m = false → (∃ T, m.at_ = some T ∧ s.tick < T) → exec (.engineCompletion c id) s = .next s)
        ∧ (earlierMsg s c m = false → (∀ T, m.at_ = some T → T ≤ s.tick) → ∃ t, exec (.engineCompletion c id) s = .next t
          ∧ (Config.peerAnswer s.fresh % 3 = 0 → t = finishCmd c m (comeAgain c m s.bump))
          ∧ (Config.peerAnswer s.fresh % 3 = 1 → t = suspendCmd c m { cls := 7, code := 3, addr := m.ga } (comeAgain c m s.bump))
          ∧ (Config.peerAnswer s.fresh % 3 = 2 → m.refused < 63 → t.mem = s.mem ∧ (getCore t c).cmds = (getCore s c).cmds.map fun x =>
            if x.id = m.id then { x with refused := x.refused + 1, behind := false, at_ := some (s.tick + m.backoff.setWidth 64) }
            else if x.op = .msg ∧ x.ctx = m.ctx ∧ bits x.ga.toNat 19 0 = bits m.ga.toNat 19 0 ∧ m.id < x.id then { x with behind := false } else x)))))
  ∧ (∀ (c id : Nat) (m : Cmd) (s : State), isCore c = true → findCmd s c id = some m →
    (m.remote = false ∨ inFlight s c m = false → exec (.endToEndRetry c id true) s = .next s ∧ exec (.endToEndRetry c id false) s = .next s)
    ∧ (m.remote = true → inFlight s c m = true →
      exec (.endToEndRetry c id true) s = .next (correctError (srcEngine c m.unit) 6 (farAddress s c m) (Config.openSyndrome s.fresh) (State.bump (setCmd c id (fun x => { x with retries := 0 }) s)))
      ∧ (m.retries < 2 → exec (.endToEndRetry c id false) s = .next (setCmd c id (fun x => { x with retries := x.retries + 1 }) s))
      ∧ (2 ≤ m.retries → exec (.endToEndRetry c id false) s = .next (failRequest c m { cls := 8, code := 6, addr := destPackage s c m } s)))
    ∧ (m.phase = .started →
      (∀ a, deviceByte s c m (· == 2) = some a → exec (.cxlTimeout c id) s = .next (failRequest c m { cls := 9, code := 4, addr := .ofNat 64 a } s))
      ∧ (deviceByte s c m (· == 2) = none → exec (.cxlTimeout c id) s = .next s)))

/-- What commands do when they perform, one command for each clause, where nothing that they read or write has an error and no page of a step window is met. That a command takes all its bytes before it writes any, in one step, is the model's reading (log entry 21).
R120, R258, R272: a copy writes exactly its destination, within the private scratchpad, to it and from it; EVSIG adds to its counter modulo 2^16.
R73, R139, R252, R261, R267, R271, R275: PROBE.fill brings its block and clears FILLING; CPYW fills the slot that it took; RMW returns the old word and leaves the new one; PGALLOC answers its page or QUOTA, PGFREE puts an allocated page into quarantine or is suspended; MSG and TASK put their record on its way to its queue; DRAIN changes nothing.
R50, R54, R62, R86, R274: the array of a CBIND lands at the binding's BASE; a CBREV writes its page with a header and the array, and in one step makes the new version live and latest and takes the mark of the old one, or writes the STAT that stops it, the other bits of such a result word being free (log entry 86), as they are for QUOTA and LOGFULL; an ENC writes the index of the nearest codeword for every group and says whether a search failed; a FLAPP appends its pages where the log's pointer stands and answers the index of the first, or LOGFULL.
R97 to R99, R101, R304, R368: a SPLICE answers the first STAT that applies and takes nothing then, an empty tensor's asking for no page, or waits for pages, or publishes a version in the first free slot, with the count and the length of the new list and BUSY clear; a PIN adds one to PINS and writes the slot as its record; an UNPIN that is not the last takes one; a SHARE counts one holder more.
R259, R260: a CPYA copies its runs in order, each like a copy, at the offsets that the strides give; an indirect one reads an entry before the runs that need it, one in 16 cycles, and skips what FILL leaves out. -/
def Obligations.CopiesAndSignalsPerform : Prop := ∀ (c : Nat) (m : Cmd) (s : State), (getCore s c).scratch.wf = true → s.mem.wf = true →
  let scratch (u : State) (x : Nat) : Byte := Memory.byte (getCore u c).scratch x
  let clean (x n : Nat) : Prop := ∀ i, i < n → localPoisoned s c false (x + i) = false
  let sound (tier x n : Nat) : Prop := ∀ i, i < n → tget 0 s.hub.copies ((x + i) / 65536) = 0 ∧ lineCode s tier (x + i) = none
  let fills (x n : Nat) (f : Nat → Byte) : Prop := ∃ t, perform c m s = .done t ∧ t.mem = s.mem ∧ t.hub = s.hub ∧ (∀ k, getCtx t c k = getCtx s c k)
    ∧ (∀ i, i < n → scratch t (x + i) = f i) ∧ ∀ y, y < x ∨ x + n ≤ y → scratch t y = scratch s y
  let stores (t : State) (x n : Nat) (f : Nat → Byte) : Prop := (∀ i, i < n → devByte t (x + i) = f i) ∧ ∀ y, y < x ∨ x + n ≤ y → devByte t y = devByte s y
  let le (v i : Nat) : Byte := .ofNat 8 (v / 256 ^ i)
  let writable (x n : Nat) : Prop := ∀ i, i < n → keepsByte s (x + i) = true ∧ lineBad s (x + i) = none
  let own (u : State) : Context := ownerCtx u c m
  (m.op = .cpy →
    let a := word m.es 0
    let b := word m.es 1
    let n := bits (word m.es 2).toNat 31 0
    (m.sub = 2 → locWin a = false → locWin b = false → clean (locOff a) n → fills (locOff b) n fun i => scratch s (locOff a + i))
    ∧ (m.sub = 0 → locWin b = false → sound (hTier m.h) (hBase m.h + devOff a) n → fills (locOff b) n fun i => devByte s (hBase m.h + devOff a + i))
    ∧ (m.sub = 1 → locWin a = false → clean (locOff a) n → sound (hTier m.h) (hBase m.h + devOff b) n → (∀ i, i < n → keepsByte s (hBase m.h + devOff b + i) = true) →
      ∃ t, perform c m s = .done t ∧ (∀ d, getCore t d = getCore s d) ∧ stores t (hBase m.h + devOff b) n fun i => scratch s (locOff a + i)))
  ∧ (m.op = .evsig → twf 0 s.hub.counters = true →
    let i := bits m.ga.toNat 11 0
    ∃ t, perform c m s = .done t ∧ t.mem = s.mem
      ∧ counter t m.func i = counter s m.func i + m.gb.setWidth 16
      ∧ ∀ f j, f * 4096 + j ≠ m.func * 4096 + i → counter t f j = counter s f j)
  ∧ (m.op = .probeFill → sound (hTier m.h) (hBase m.h + m.ga.toNat) 2048 → twf 0 (getCore s c).tags = true →
    ∃ t, perform c m s = .done t ∧ t.mem = s.mem ∧ t.hub = s.hub
      ∧ (∀ i, i < 2048 → scratch t (m.gb.toNat + i) = devByte s (hBase m.h + m.ga.toNat + i))
      ∧ (∀ y, y < m.gb.toNat ∨ m.gb.toNat + 2048 ≤ y → scratch t y = scratch s y)
      ∧ ∀ n b, b < 64 → (tget 0 (getCore t c).tags n).getLsbD b = ((tget 0 (getCore s c).tags n).getLsbD b && !(decide (n = m.aux) && decide (b = 2))))
  ∧ (m.op = .cpyw →
    let q := (ownerCtx s c m).Q (m.ring.getD 0)
    let a := word m.es 0
    let n := bits (word m.es 1).toNat 31 0
    qRemote q = false → qWin q = false →
    (m.sub = 2 → locWin a = false → clean (locOff a) n → fills (qSlot q m.aux) n fun i => scratch s (locOff a + i))
    ∧ (m.sub = 0 → sound (hTier m.h) (hBase m.h + devOff a) n → fills (qSlot q m.aux) n fun i => devByte s (hBase m.h + devOff a + i)))
  ∧ (m.op = .rmw →
    let n := if m.sub.testBit 3 then 8 else 4
    let x := hBase m.h + m.ga.toNat
    let old := devNat s x n
    let b := (word m.es 0).toNat % 256 ^ n
    let d := (word m.es 1).toNat % 256 ^ n
    let new_ : Nat := match m.sub % 8 with
      | 0 => (old + b) % 256 ^ n
      | 1 => if intOf (8 * n) true old ≤ intOf (8 * n) true b then old else b
      | 2 => if intOf (8 * n) true b ≤ intOf (8 * n) true old then old else b
      | 3 => old &&& b
      | 4 => old ||| b
      | 5 => old ^^^ b
      | 6 => b
      | _ => if old = d then b else old
    let dst := bits (word m.es 2).toNat 22 0
    m.ga.toNat % n = 0 → sound (hTier m.h) x n → (∀ i, i < n → keepsByte s (x + i) = true) →
    ∃ t, perform c m s = .done t ∧ stores t x n (le new_) ∧ (∀ i, i < 8 → scratch t (dst + i) = le old i) ∧ ∀ y, y < dst ∨ dst + 8 ≤ y → scratch t y = scratch s y)
  ∧ (m.op = .pgalloc →
    (∀ p l, m.claim = p :: l → fills m.gb.toNat 8 (le (p % 2 ^ 36 * 2 ^ 16)))
    ∧ (m.claim = [] → ∃ x, x < 2 ^ 36 ∧ fills m.gb.toNat 8 (le (x * 2 ^ 16 + 2 ^ 56))))
  ∧ (m.op = .pgfree → twf 0 s.hub.pages = true →
    let p := m.ga.toNat
    (dState (desc s p) = 1 → dShare (desc s p) = 0 → ∃ t, perform c m s = .done t ∧ dState (desc t p) = 2 ∧ t.mem = s.mem ∧ t.hub.free = s.hub.free)
    ∧ (dState (desc s p) ≠ 1 → ∃ e, perform c m s = .susp s e ∧ e.cls = 6 ∧ e.code = 0xA))
  ∧ (m.op = .msg ∨ m.op = .task → clean m.gb.toNat 64 →
    (m.op = .msg → bits m.ga.toNat 19 8 ≠ s.hub.package.toNat → perform c m s = .sent s)
    ∧ (m.op = .task ∨ bits m.ga.toNat 19 8 = s.hub.package.toNat → (ownerCtx s c m).replay = [] → ∃ t x, perform c m s = .sent t ∧ t.mem = s.mem
      ∧ t.hub.inbox = s.hub.inbox ++ [x] ∧ x.sender = .ctx c (m.ctx % 4) m.task ∧ x.queue = bits m.ga.toNat 7 0 ∧ x.cmd = m.id
      ∧ x.home = (if m.op = .task then some m.aux else none) ∧ ∀ i, i < 64 → (le x.lr.toNat i) = scratch s (m.gb.toNat + i)))
  ∧ (m.op = .drain → perform c m s = .done s)
  ∧ (m.op = .cbind → readCause s m.func m.ga.toNat 64 = none →
    let n := bits (header s m.func m.ga.toNat) 159 144
    let va := m.ga.toNat + 64
    ∀ l, walk s m.func va = .ok l →
      let h := handleOf m.func l
      let x := hBase h + va % hBytes h
      hTier h = 0 ∨ hTier h = 2 → sound (hTier h) x n → fills (bBase m.b1) n fun i => devByte s (x + i))
  ∧ (m.op = .cbrev →
    (m.sub ≠ 0 → m.sub ≠ 0x200 → ∃ x, x < 2 ^ 16 ∧ fills m.gb.toNat 8 (le (x + m.sub % 256 * 2 ^ 16)))
    ∧ (m.sub = 0 → ∀ j p vp v, m.claim = [j, p, vp] → clean (bBase m.ga) (bBytes m.ga) → entryCause s m.func (bId m.ga) = none →
      headersCause s m.func (bId m.ga) = none →
      (mismatch s m.func m.ga = true → ∃ x, x < 2 ^ 16 ∧ perform c m s = .done (State.bump (cbrevWord c m x 4 (quarantine p s))))
      ∧ (mismatch s m.func m.ga = false → cbrevVa s m.func vp = some v →
        let f := m.func
        let id := bId m.ga
        let ver := nextBookVer s f id
        ∃ head : Nat, bits head 15 0 = id ∧ bits head 31 16 = ver % 65536 ∧ bits head 47 32 = bits m.ga.toNat 47 32 ∧ bits head 127 64 = s.tick.toNat
          ∧ bits head 143 128 = srcEngine c 1 % 65536 ∧ bits head 159 144 = bBytes m.ga % 65536
          ∧ perform c m s = .done (cbrevWord c m ver 0 (setSlot f id j (1 + 4 + v * 65536 % 2 ^ 52 + ver % 65536 * 2 ^ 64 + 2 ^ 80) (dethrone f id
              (devWrite (mapPage f (v * 65536) p s) (p * 65536)
                (leBytes head 64 ++ (List.range (bBytes m.ga)).map fun i => scratch s (bBase m.ga + i)))))))))
  ∧ (m.op = .enc → heldCause s m.func m.b1 = none → heldCause s m.func m.b2 = none →
    let src := heldBook s m.func m.b1
    let dst := heldBook s m.func m.b2
    let x := hBase m.h + devOff (word m.es 0)
    let y := hBase m.h2 + devOff (word m.es 1)
    let g := bits (word m.es 2).toNat 23 0
    let r := bits (word m.es 2).toNat 47 24
    let row (u : State) (at_ w j : Nat) : List Byte := (List.range (codedTensor w 1 g)).map fun i => devByte u (at_ + j * codedTensor w 1 g + i)
    let best (j n : Nat) : Nat × Bool := search dst.rounded ((List.range src.d).map fun i => rv32 (src.qx (packedIndex src.w (row s x src.w j) n) i))
    sound (hTier m.h) x (codedTensor src.w r g) → sound (hTier m.h2) y (codedTensor dst.w r g) → (∀ i, i < codedTensor dst.w r g → keepsByte s (y + i) = true) →
    ∃ t, perform c m s = .done t ∧ (∀ j n, j < r → n < g → packedIndex dst.w (row t y dst.w j) n = (best j n).1)
      ∧ (∀ z, z < y ∨ y + codedTensor dst.w r g ≤ z → devByte t z = devByte s z)
      ∧ ∀ u ∈ (getCore t c).cmds, u.id = m.id → (u.sub = 1 ↔ ∃ j n, j < r ∧ n < g ∧ (best j n).2 = true))
  ∧ (m.op = .flapp →
    let a := word m.es 0
    let key := m.func * 16 + bits (word m.es 1).toNat 3 0
    let n := bits (word m.es 1).toNat 15 8 + 1
    let l := tget {} s.hub.logs key
    (l.pages < l.ptr + n + l.bad.length → ∃ x, x < 2 ^ 48 ∧ fills m.gb.toNat 8 (le (x + 7 * 2 ^ 48)))
    ∧ (l.ptr + n ≤ l.pages → l.bad = [] → locWin a = false → clean (locOff a) (4096 * n) →
      ∃ t, perform c m s = .done t ∧ tget {} t.hub.logs key = { l with ptr := l.ptr + n } ∧ (∀ k, k ≠ key → tget {} t.hub.logs k = tget {} s.hub.logs k)
        ∧ (∀ i, i < 4096 * n → Memory.byte t.mem (l.base + 4096 * l.ptr + i) = scratch s (locOff a + i))
        ∧ (∀ z, z < l.base + 4096 * l.ptr ∨ l.base + 4096 * (l.ptr + n) ≤ z → Memory.byte t.mem z = Memory.byte s.mem z)
        ∧ ∀ i, i < 8 → scratch t (m.gb.toNat + i) = le (l.ptr % 2 ^ 48) i))
  ∧ (m.op = .splice → m.began ≠ 0 → headCause s m false = none → (m.aux = 1 ∨ hdBusy (headAt s m.ga.toNat) = false ∧ headTaken s m = false) → spliceCause s c m = none →
    let f := m.func
    let a := m.ga.toNat
    let off := m.gb.toNat
    let h := headAt s a
    let r := spliceReq s c off
    let old := currentPieces s f a
    let plan := old.take r.pos ++ r.ins ++ old.drop (r.pos + r.nrem)
    let fresh := r.ins.countP fun e => pePage e == 0
    let need := (plan.length + 8191) / 8192 + fresh
    let taken := vslots.all fun j => vsState (vslot s a j) != 0
    let out := splice f a (srcEngine c 2) c off s
    (spliceRange s f a r old = false → out = .stat 6)
    ∧ (spliceRange s f a r old = true → taken = true → out = .stat 3)
    ∧ (spliceRange s f a r old = true → taken = false → need ≠ 0 → withinQuota s f need = false → out = .stat 1)
    ∧ (spliceRange s f a r old = true → taken = false → withinQuota s f need = true → (areaFree s f a).length < need → out = .stat 5)
    ∧ (need = 0 → out ≠ .stat 1 ∧ out ≠ .wait)
    ∧ (∀ code, out = .stat code → (m.sub = 0 → perform c m s = .done (answerSplice c off code none (letHead c m s)))
      ∧ (m.sub = 1 → ∃ e, perform c m s = .susp (letHead c m s) e ∧ e.cls = 6 ∧ e.code = 0x10 + code))
    ∧ (out = .wait → ∃ t, perform c m s = .wait t ∧ t = setBusy a true (setCmd c m.id (fun x => { x with aux := 1 }) s))
    ∧ (∀ t ver, out = .ok t ver → perform c m s = .done (answerSplice c off 0 (some ver) t) ∧ ver = nextStitchVer s a
      ∧ (writable a 64 → (hdVer h = 0 ∨ 0 < vsPins (vslot s a (hdSlot h))) →
        let h' := devNat t a 64
        hdVer h' = ver % 65536 ∧ hdBusy h' = false ∧ vsState (vslot s a (hdSlot h')) = 0 ∧ (∀ j, j < hdSlot h' → vsState (vslot s a j) ≠ 0)
        ∧ hdN h' = old.length - r.nrem + r.nins ∧ hdLen h' = (plan.map peFill).sum % 2 ^ 32 ∧ hdEunit h' = hdEunit h ∧ hdArea h' = hdArea h ∧ hdAnum h' = hdAnum h
        ∧ hdFunc h' = if hdVer h = 0 then f % 32 else hdFunc h)))
  ∧ (m.op = .pin → headCause s m true = none → m.ctx < 4 → (own s).life = .running → (own s).task = m.task →
    let a := m.ga.toNat
    let j := hdSlot (headAt s a)
    let x := vslot s a j
    writable (vslotPa a j) 32 → ∃ t, perform c m s = .done t ∧
      let y := devNat t (vslotPa a j) 32
      vsState y = vsState x ∧ vsCur y = vsCur x ∧ vsVer y = vsVer x ∧ vsN y = vsN x ∧ vsLen y = vsLen x ∧ vsList y = vsList x ∧ vsPins y = (vsPins x + 1) % 2 ^ 32
      ∧ (∀ i, i < 32 → scratch t (m.gb.toNat + i) = le y i) ∧ (∀ z, z < vslotPa a j ∨ vslotPa a j + 32 ≤ z → devByte t z = devByte s z)
      ∧ ∃ p : Pin, (own t).pins = (own s).pins ++ [p] ∧ p.head = a ∧ p.ver = vsVer x ∧ p.leaving = false ∧ p.cmd = m.id)
  ∧ (m.op = .unpin → m.sub = 0 → headCause s m false = none → m.ctx < 4 → (own s).task = m.task → (own s).pins.any m.takes = true →
    let a := m.ga.toNat
    ∀ j, stitchSlot s a (bits m.gb.toNat 15 0) = some j →
      let x := vslot s a j
      1 < vsPins x ∨ vsCur x = true → writable (vslotPa a j) 32 → ∃ t, perform c m s = .done t ∧
        let y := devNat t (vslotPa a j) 32
        vsState y = 1 ∧ vsCur y = vsCur x ∧ vsVer y = vsVer x ∧ vsN y = vsN x ∧ vsLen y = vsLen x ∧ vsList y = vsList x ∧ vsPins y = vsPins x - 1
        ∧ (∀ z, z < vslotPa a j ∨ vslotPa a j + 32 ≤ z → devByte t z = devByte s z) ∧ (own t).pins = (own s).pins.eraseP m.takes)
  ∧ (m.op = .share → headsCause s m.func = none → twf 0 s.hub.pages = true →
    let p := bits m.h.toNat 51 16
    let n := dShare (desc s p)
    let word (t : State) (v : Nat) : Prop := ∀ i, i < 8 → scratch t (m.gb.toNat + i) = le v i
    (∀ a ∈ holders s p, hdVer (headAt s a) ≠ 0 ∧ hdFunc (headAt s a) = m.func ∧ headSound s a = true) →
    ∃ t, perform c m s = .done t ∧ t.mem = s.mem ∧ (∀ q, q ≠ p → desc t q = desc s q) ∧ dOwner (desc t p) = dOwner (desc s p) ∧ dState (desc t p) = dState (desc s p)
      ∧ (holders s p = [] → word t (8 + n * 256) ∧ dShare (desc t p) = n)
      ∧ (holders s p ≠ [] → n = 32767 → word t (2 + n * 256) ∧ dShare (desc t p) = n)
      ∧ (holders s p ≠ [] → n < 32767 → word t ((n + 1) * 256) ∧ dShare (desc t p) = n + 1))
  ∧ (m.op = .cpya →
    let n := bits (word m.es 2).toNat 31 0
    let lo (w : BitVec 64) : Int := (w.extractLsb' 0 32).toInt
    let hi (w : BitVec 64) : Int := (w.extractLsb' 32 32).toInt
    let along (part : BitVec 64 → Int) (i : Nat × Nat × Nat) : Int := i.1 * part (word m.es 4) + i.2.1 * part (word m.es 5) + i.2.2 * part (word m.es 6)
    let runs (i : Nat × Nat × Nat) (t : State) : Prop := ∀ rest, cpyaLoop c m (i :: rest) s = cpyaLoop c m rest t
    (cpyaInd m.es = false → m.runs = 0 → ∀ t l, cpyaLoop c m (cpyaRuns m.es) s = .ok t l → perform c m s = .done t)
    ∧ (cpyaInd m.es = false → ∀ i, i ∈ cpyaRuns m.es →
      let side (w : BitVec 64) (part : BitVec 64 → Int) : Int := locOff w + along part i
      (m.sub = 2 → 0 ≤ side (word m.es 0) lo → side (word m.es 0) lo + n ≤ spaceBytes c (locWin (word m.es 0)) →
        0 ≤ side (word m.es 1) hi → side (word m.es 1) hi + n ≤ spaceBytes c (locWin (word m.es 1)) →
        cpyaSides s c m i = .ok (some (.loc (locWin (word m.es 0)) (side (word m.es 0) lo).toNat, .loc (locWin (word m.es 1)) (side (word m.es 1) hi).toNat)))
      ∧ (m.sub = 0 → 0 ≤ side (word m.es 1) hi → side (word m.es 1) hi + n ≤ spaceBytes c (locWin (word m.es 1)) →
        cpyaSides s c m i = .ok (some (.dev m.h (devOff (word m.es 0) + along lo i).toNat, .loc (locWin (word m.es 1)) (side (word m.es 1) hi).toNat)))
      ∧ (m.sub = 1 → 0 ≤ side (word m.es 0) lo → side (word m.es 0) lo + n ≤ spaceBytes c (locWin (word m.es 0)) →
        cpyaSides s c m i = .ok (some (.loc (locWin (word m.es 0)) (side (word m.es 0) lo).toNat, .dev m.h (devOff (word m.es 1) + along hi i).toNat))))
    ∧ (∀ i, cpyaSides s c m i = .ok none → runs i s)
    ∧ (∀ i a b, cpyaSides s c m i = .ok (some (.loc false a, .loc false b)) → clean a n → ∃ t, runs i t ∧ t.mem = s.mem ∧ t.hub = s.hub
      ∧ (∀ j, j < n → scratch t (b + j) = scratch s (a + j)) ∧ ∀ y, y < b ∨ b + n ≤ y → scratch t y = scratch s y)
    ∧ (∀ i h a b, cpyaSides s c m i = .ok (some (.dev h a, .loc false b)) → sound (hTier h) (hBase h + a) n → ∃ t, runs i t ∧ t.mem = s.mem ∧ t.hub = s.hub
      ∧ (∀ j, j < n → scratch t (b + j) = devByte s (hBase h + a + j)) ∧ ∀ y, y < b ∨ b + n ≤ y → scratch t y = scratch s y)
    ∧ (∀ i a h b, cpyaSides s c m i = .ok (some (.loc false a, .dev h b)) → clean a n → sound (hTier h) (hBase h + b) n →
      (∀ j, j < n → keepsByte s (hBase h + b + j) = true) → ∃ t, runs i t ∧ stores t (hBase h + b) n fun j => scratch s (a + j))
    ∧ (cpyaInd m.es = true → m.claim = [] →
      let x := cpyaTbl m.es + 8 * cpyaFirst m.es
      0 < cpyaEntries m.es → clean x 8 → ∃ t, perform c m s = .wait t ∧ t.mem = s.mem
        ∧ ∀ u ∈ (getCore t c).cmds, u.id = m.id → u.claim = [ofLeBytes ((List.range 8).map fun i => scratch s (x + i))] ∧ u.aux = s.cycle)
    ∧ (cpyaInd m.es = true → m.claim ≠ [] → s.cycle < m.aux + 16 → perform c m s = .wait s)
    ∧ (cpyaInd m.es = true → cpyaFillb m.es = true → ∀ i e, m.claim[ixAt i (cpyaDim m.es)]? = some e → peFill e ≤ ixAt i (cpyaDim m.es - 1) → cpyaSides s c m i = .ok none))

/-! ## Steps of the part: pages and translation -/

/-- R84, R336, R371, R373: the scrub engine takes a quarantined page once quiescence has passed its epoch; a scrubbed page reads zero everywhere, is free and joins the free list, unless it once held a poisoned line; clearing a line that is pending scrub changes what no byte reads as. It says where exec answers a next state for scrubStart, scrubDone and scrubLineClear. -/
def Obligations.Scrub : Prop := ∀ (pfn line : Nat) (s : State), s.mem.wf = true → twf 0 s.hub.pages = true →
  ((∀ p ∈ s.hub.resetPages, p.1 ≠ pfn) →
    (dState (desc s pfn) = 2 → dStamp (desc s pfn) < quiescence s → ∃ t, exec (.scrubStart pfn) s = .next t ∧ dState (desc t pfn) = 3
      ∧ dOwner (desc t pfn) = dOwner (desc s pfn) ∧ t.mem = s.mem ∧ t.hub.free = s.hub.free ∧ ∀ q, q ≠ pfn → desc t q = desc s q)
    ∧ (dState (desc s pfn) ≠ 2 ∨ quiescence s ≤ dStamp (desc s pfn) → exec (.scrubStart pfn) s = .next s))
  ∧ (∀ e, s.hub.resetPages.find? (fun p => p.1 == pfn) = some (pfn, e) →
    exec (.scrubStart pfn) s = .next (if e < quiescence s then joinReset pfn s else s))
  ∧ (dState (desc s pfn) = 3 → ∃ t, exec (.scrubDone pfn) s = .next t ∧ dState (desc t pfn) = 0
    ∧ ((∀ l ∈ s.hub.linked, ∀ i, i < l.len → (l.slot + i) / 65536 ≠ pfn) → ∀ x, pfn * 65536 ≤ x → x < pfn * 65536 + 65536 → devByte t x = 0)
    ∧ (pfn ∉ s.hub.oncePoisoned → t.hub.free = s.hub.free ++ [pfn])
    ∧ (pfn ∈ s.hub.oncePoisoned → t.hub.free = s.hub.free ∧ pfn ∈ t.hub.withdrawn))
  ∧ (dState (desc s pfn) ≠ 3 → exec (.scrubDone pfn) s = .next s)
  ∧ (∃ t, exec (.scrubLineClear pfn line) s = .next t ∧ pfn * 1024 + line % 1024 ∉ t.hub.scrubLines ∧ ∀ x, devByte t x = devByte s x)

/-- R79, R161, R361, R362, R394: the walk of a missed XLAT fills the translation cache or faults the context in slot E; the fetch of a missing line fills the instruction cache with the 64 bytes of the line, or faults the context with the fetch's code.
R332, R373: a walk that meets an uncorrected error in a table faults with the error's own code and the physical address, which is the model's choice (log entry 72). It says where exec answers a next state for pageWalkDone and icacheFill. -/
def Obligations.WalksAndFetches : Prop := ∀ (c k va : Nat) (s : State), isCore c = true → k < 4 →
  let x := getCtx s c k
  let f := x.func.toNat
  (x.block = some (.xlat va) → tlbFind (getCore s c) f va = none →
    (∀ l, walk s f va = .ok l → ∃ t, exec (.pageWalkDone c k) s = .next t ∧ t.mem = s.mem ∧ t.hub = s.hub ∧ getCtx t c k = x
      ∧ (getCore t c).tlb.head? = some ⟨f, (va - va % pageBytes l.psz) / 65536, handleOf f l⟩ ∧ (getCore t c).tlb.length ≤ max 1024 ((getCore s c).tlb.length))
    ∧ (∀ e, walk s f va = .bad e → exec (.pageWalkDone c k) s = .next (faultAt c k { cls := 4, code := e, slots := 128, addr := .ofNat 64 va } s))
    ∧ (∀ e pa, walk s f va = .lost e pa → exec (.pageWalkDone c k) s = .next (faultAt c k { cls := 9, code := e, slots := 128, addr := .ofNat 64 pa } (markMet pa s))))
  ∧ (x.block = some (.icache va) → icSyll (getCore s c) f va = none →
    (∀ l u bs, walk s f va = .ok l → devIn ⟨f, x.stepno.toNat, bits l.pte 5 4⟩ (l.base + va / 64 * 64 % pageBytes l.psz) 64 s = .ok u bs →
      ∃ t, exec (.icacheFill c k) s = .next t ∧ (getCore t c).icache.head? = some (f, va / 64, .ofNat 512 (ofLeBytes bs)))
    ∧ (∀ e, walk s f va = .bad e → exec (.icacheFill c k) s = .next (faultAt c k
        { cls := 4, code := if e = 1 then 3 else if e = 2 then 4 else e, addr := .ofNat 64 va } s)))

/-- R80, R364: after a tag is revoked no register of any context, running or saved, and no translation cache, holds a valid handle of that function and tag; the revocation is done only when no command in flight has captured one. It says where exec answers a next state for mtagRevoke and revokeDone. -/
def Obligations.Revocation : Prop := ∀ (f tag : Nat) (s : State), (∀ c k, twf 0 (getCtx s c k).h = true) →
  (∀ v ∈ s.hub.saved, twf 0 v.ctx.h = true) →
  (∃ t, exec (.mtagRevoke f tag) s = .next t ∧ ⟨f, tag⟩ ∈ t.hub.revokes ∧ (s.hub.saved = [] → t.mem = s.mem)
    ∧ (∀ c k r, tagged f tag ((getCtx t c k).H r) = false) ∧ (∀ c, ∀ e ∈ (getCore t c).tlb, tagged f tag e.handle = false)
    ∧ (∀ v ∈ t.hub.saved, ∀ r, tagged f tag (v.ctx.H r) = false) ∧ ∀ c k r, (getCtx t c k).G r = (getCtx s c k).G r)
  ∧ (usesTag s f tag = true → exec (.revokeDone f tag) s = .next s)
  ∧ (usesTag s f tag = false → exec (.revokeDone f tag) s = .next { s with hub := { s.hub with
      revokes := s.hub.revokes.filter fun r => !(r.func == f && r.tag == tag) } })

/-- R86, R88, R362: the supervisor evicts a page of the range whose next use lies farthest ahead, ties to the higher address; evicting clears V and sets RSV of the entry, keeps the page's bytes in the reserve zone and quarantines the page; expanding maps exactly those bytes again in a fresh page, and the context that waited for it goes on; erasing a log resets its pointer and zeroes it, the zeros being the model's choice (log entry 3). Which pages may be evicted, the order of the uses ahead, and that the eviction frees the page to quarantine, are the model's reading (log entries 47 and 56). The entry and the bytes are those of the eviction where no saved context holds a handle of the page's tag, whose save area could lie over them. It says where exec answers a next state for pageEvict, pageExpand and logErase. -/
def Obligations.ReserveAndLogs : Prop := ∀ (f va c k log : Nat) (s : State), s.mem.wf = true → twf 0 s.hub.pages = true → isCore c = true → k < 4 →
  let page := va / 65536
  let kept := reservePfn f page * 65536
  let within (r : Nat × Nat × Nat) : Prop := r.1 = f ∧ r.2.1 ≤ page ∧ page < r.2.1 + r.2.2
  let staged (r : Nat × Nat × Nat) : Prop := (∃ p ∈ s.hub.staged, r ∈ p.uses) ∧ ∃ i, i < r.2.2 ∧ (evictable s r.1 (65536 * (r.2.1 + i))).isSome = true
  (∀ r, evictRange s = some r → staged r ∧ ∀ b, staged b → let next := (usesAhead s).idxOf
    next b < next r ∨ (next b = next r ∧ b.2.1 ≤ r.2.1))
  ∧ (evictable s f va = none ∨ (∃ r, evictRange s = some r ∧ ¬within r) → exec (.pageEvict f va) s = .next s)
  ∧ (∀ a e, evictable s f va = some (a, e) → (∀ r, evictRange s = some r → within r) → (∀ i, i < 8 → keepsByte s (a + i) = true) →
    let pfn := bits e 51 16
    pte3Addr s f va = some a ∧ e = devNat s a 8 ∧ e % 2 = 1 ∧ dOwner (desc s pfn) = f
    ∧ ∃ t, exec (.pageEvict f va) s = .next t ∧ dState (desc t pfn) = 2 ∧ t.hub.reserve = (f, page) :: s.hub.reserve
      ∧ ⟨f, bits e 63 52⟩ ∈ t.hub.revokes
      ∧ ((∀ v ∈ s.hub.saved, ∀ p ∈ v.ctx.h, tagged f (bits e 63 52) p.2 = false) →
        devNat t a 8 % 2 = 0 ∧ bits (devNat t a 8) 6 6 = 1 ∧ bits (devNat t a 8) 63 16 = bits e 63 16
        ∧ ∀ i, i < 65536 → Memory.byte t.mem (kept + i) = devByte s (pfn * 65536 + i)))
  ∧ (∀ a, pte3Addr s f va = some a → reserved s f va = true → eligible s f ≠ [] → (∀ p ∈ s.hub.free, p < 2 ^ 36) → (∀ i, i < 8 → keepsByte s (a + i) = true) →
    ∃ t, exec (.pageExpand f va c k) s = .next t
      ∧ (∃ p ∈ eligible s f, devNat t a 8 % 2 = 1 ∧ bits (devNat t a 8) 6 6 = 0 ∧ bits (devNat t a 8) 51 16 = p
        ∧ (a / 65536 ≠ p → ∀ i, i < 65536 → devByte t (p * 65536 + i) = devByte s (kept + i)))
      ∧ reserved t f va = false
      ∧ ((getCtx s c k).frozen.any (fun e => e.cls == 4 && (e.code == 2 || e.code == 4)) = true → (getCtx t c k).frozen = none ∧ (getCtx t c k).retrying = true
        ∧ (getCtx t c k).block = if (taskOf s (getCtx s c k).task).any (·.team) = true then some .team else some .thawed))
  ∧ (let l := tget {} s.hub.logs (f * 16 + log % 16)
    ∃ t, exec (.logErase f log) s = .next t ∧ (tget {} t.hub.logs (f * 16 + log % 16)).ptr = 0
      ∧ (∀ x, l.base ≤ x → x < l.base + 4096 * l.pages → Memory.byte t.mem x = 0)
      ∧ ∀ x, x < l.base ∨ l.base + 4096 * l.pages ≤ x → Memory.byte t.mem x = Memory.byte s.mem x)

/-! ## Steps of the part: records, rings, tasks and graphs -/

/-- R123, R143, R271, R315, R324, R389: a record that a host writes takes one of eight places of its window's replay window and is on its way to its queue, one whose response was negative comes again in its own place, and what a ninth does is the model's choice (log entry 64); the first on its way is accepted at the end of the queue with the next SEQ and the queue's function, refused by a queue not enabled or not its sender's, or, where the queue is full or drops its sender's records, negatively acknowledged and resent; before bring-up is complete none is accepted. It says where exec answers a next state for launchRecordWrite, queueRecordAccept, negativeAcknowledgement and replay. -/
def Obligations.QueueRecords : Prop := ∀ (q : Nat) (r : BitVec 512) (s : State),
  (q < 256 →
    let again (x : HostRec) : Bool := x.queue == q && x.lr == r && x.nacked
    let here := s.hub.hostRecs.countP fun x => x.queue == q
    (s.hub.hostRecs.any again = false → here < 8 → exec (.launchRecordWrite q r) s = .next { s with hub := { s.hub with
      hostRecs := s.hub.hostRecs ++ [{ queue := q, lr := r }], inbox := s.hub.inbox ++ [{ sender := .host q, queue := q, lr := r }] } })
    ∧ (s.hub.hostRecs.any again = false → 8 ≤ here → exec (.launchRecordWrite q r) s = .next s)
    ∧ (s.hub.hostRecs.any again = true → ∃ t, exec (.launchRecordWrite q r) s = .next t ∧ t.hub.hostRecs.length = s.hub.hostRecs.length
      ∧ t.hub.inbox = s.hub.inbox ++ [{ sender := .host q, queue := q, lr := r }] ∧ t.mem = s.mem))
  ∧ (256 ≤ q → exec (.launchRecordWrite q r) s = .fault .absentAgent)
  ∧ (s.hub.bringUp < 8 ∨ firstTo s q = none → exec (.queueRecordAccept q) s = .next s ∧ exec (.negativeAcknowledgement q) s = .next s)
  ∧ (∀ x, firstTo s q = some x → 8 ≤ s.hub.bringUp →
    (refuses s x = true → exec (.queueRecordAccept q) s = .next (refuse x s))
    ∧ (refuses s x = false → drops s x = true → exec (.queueRecordAccept q) s = .next s
      ∧ ((∀ g, x.sender ≠ .graph g) → exec (.negativeAcknowledgement q) s = .next (nack x s)))
    ∧ (refuses s x = false → drops s x = false →
      (let recs := (queueOf s q).recs ++ [⟨lrWithVf x.lr (qcVf (queueOf s q)), (queueOf s q).seq + 1, x.home, x.graph⟩]
       x.sender = .host q → (∀ h ∈ recs.head?, runnable s h.lr = true) →
       ∃ t, exec (.queueRecordAccept q) s = .next t ∧ (queueOf t q).recs = recs ∧ (queueOf t q).seq = (queueOf s q).seq + 1
         ∧ t.hub.inbox = s.hub.inbox.erase x ∧ t.mem = s.mem)
      ∧ exec (.queueRecordAccept q) s = .next (accept x s)))
  ∧ (∀ c k t, isCore c = true → k < 4 → (tasksAt s c k).find? (mayReplay s c k q) = some t → exec (.replay c k q) s = .next (resend c k q t s))

/-- R103, R121, R124, R125, R216, R382, R387: DISPATCH places records on idle contexts of cores of the package alone, one for a record of one core; a task with nothing left to do finishes; an abandoned one ends with STAT 0x01, its barrier group broken; a reply to a call goes into the next slot of its ring, and then PROD advances. Where the spec leaves the dispatcher open, log entries 39 and 42 say how the model goes on, and that the first call posted is answered first is log entry 63. It says where exec answers a next state for dispatch, taskComplete, abandonTask and svcReply.
R127, R128, R383: a ready node acts: a launch node sends its record to the graph's queue and lives until its task has completed; an if, while or switch node makes the successor ready that its condition word names; a join node counts the arrivals in its own header and passes control on with the last. It says where exec answers a next state for graphLaunchNode and graphJoinNode. -/
def Obligations.TasksGraphsAndCalls : Prop :=
  (∀ (s : State),
    exec .dispatch s = .next (dispatchRun s).1.1
    ∧ (readyHeads s = [] → exec .dispatch s = .next s)
    ∧ (∀ r prio home l, placement s r prio home = some l → (∀ p ∈ l, p.1 < 192 ∧ p.2 < 4 ∧ (getCtx s p.1 p.2).life = .idle) ∧ (lrShape r = 0 → l.length = 1))
    ∧ (∀ t x, taskOf s t = some x →
      (x.finished = false → taskDone s x = true → exec (.taskComplete t) s = .next (finishTask x s))
      ∧ (x.finished = true ∨ taskDone s x = false → exec (.taskComplete t) s = .next s)
      ∧ (x.ended = none → ∃ u, exec (.abandonTask t) s = .next u ∧ (∀ y ∈ u.hub.tasks, y.id = t → y.ended = some (1, u.tick))
        ∧ (lrGroup x.lr ≠ 0 → x.func * 64 + lrGroup x.lr ∈ u.hub.bgBroken)))
    ∧ (∀ die reply x, nextCall s die [] s.hub.calls = some x →
      let q := callRing s x
      let f := (taskCtx s x.core x.ctxId x.task).func.toNat
      exec (.svcReply die reply) s = .next
        (modTaskCtx x.core x.ctxId x.task (fun y => y.setQ x.ring (qAdvProd (y.Q x.ring) 1))
          (modHub (fun h => { h with calls := h.calls.erase x })
            (onStore x.core f (localOut x.core (qWin q) (qSlot q (qProd q)) (leBytes reply.toNat 64)) s)))))
  ∧ (∀ (g n h : Nat) (x : Graph) (s : State), graphOf s g = some x → n ∈ x.ready → nodeHeader s x n = some h →
    let u := modGraph g (fun y => { y with ready := y.ready.erase n }) s
    let picks (i : Instr) (f : Nat → Option Nat) : Prop := ∀ v, ndCond s x h = some v → exec i s = .next (readyAll g [f v] u)
    (5 ≤ ndKind h → ∀ i ∈ [Instr.graphLaunchNode g n, .graphIfNode g n, .graphWhileNode g n, .graphSwitchNode g n, .graphJoinNode g n],
      exec i s = .next (stopGraph x s))
    ∧ (ndKind h = 0 → ∀ r, vread s x.func (x.array.toNat + 128 * n + 64) 64 = some r →
      exec (.graphLaunchNode g n) s = .next (modGraph g (fun y => { y with live := n :: y.live })
        (modHub (fun h => { h with inbox := h.inbox ++ [{ sender := .graph g, queue := x.queue, lr := .ofNat 512 r, graph := some (g, n) }] }) u)))
    ∧ (ndKind h = 1 → picks (.graphIfNode g n) fun v => ndSucc h (if v = 0 then 1 else 0))
    ∧ (ndKind h = 2 → picks (.graphWhileNode g n) fun v => ndSucc h (if v = 0 then 1 else 0))
    ∧ (ndKind h = 3 → picks (.graphSwitchNode g n) fun v => ndSucc h (min v (ndNsucc h - 1)))
    ∧ (ndKind h = 4 → ∀ a w, vphys s x.func (x.array.toNat + 128 * n + 48) = some (a, w) →
      let k := (bits h 399 384 + 1) % 65536
      exec (.graphJoinNode g n) s = .next (if k = bits h 23 8 then readyAll g [ndSucc h 0] (devPut u a 0 2) else devPut u a k 2)))

/-- R77, R140, R261, R309, R318, R392: data of a remote ring arrives in the slot that its send took of a consumer end that is bound, PROD advances, and the send is accepted; behind a send that was discarded it fills its own slot and counts for nothing; a send to an end that is not bound is suspended; an accept completes the producer's oldest send; a slot return advances the producer's CONS once the reads of the slots up to its own have completed, or is dropped with a unit record, of the fabric port by which it came where it comes from another package, a free one of those that are up (log entry 35). What arrives from another package enters once the slot is free and what was issued before its release has read it (log entries 34 and 35), ends of unequal slots log entry 78. It says where exec answers a next state for remoteDataArrive, remoteSendAccept and slotReturnArrive. -/
def Obligations.RemoteRings : Prop := ∀ (f link : Nat) (s : State),
  let e := rrEntry s f link
  let here := rrHere s e
  (∀ data c id bs m, firstData s f link = some (c, id, bs) → findCmd s c id = some m →
    (sendBehind s c m = true → exec (.remoteDataArrive f link data) s = .next s)
    ∧ (sendBehind s c m = false →
      (∀ b, boundEnd s f link false = some b → exec (.remoteDataArrive f link data) s = .next (landData f link b c m bs (dropData id s)))
      ∧ (boundEnd s f link false = none → exec (.remoteDataArrive f link data) s =
        .next (suspendCmd c m { cls := 7, code := 1, addr := .ofNat 64 link } (dropData id s)))))
  ∧ (∀ (b : Bound) (c : Nat) (m : Cmd) (bs : List Byte), isSaved s b.core b.ctxId b.task = false → (getCtx s b.core b.ctxId).task = b.task → s.hub.clusterSaves = [] →
    (getCore s b.core).scratch.wf = true →
    let q := (getCtx s b.core b.ctxId).Q b.ring
    let scratch (u : State) (x : Nat) : Byte := Memory.byte (getCore u b.core).scratch x
    let placed (u : State) : Prop := ∀ i, (i < bs.length → i < qSize q → scratch u (qSlot q m.aux + i) = bs.getD i 0)
      ∧ ∀ x, x < qSlot q m.aux ∨ qSlot q m.aux + min bs.length (qSize q) ≤ x → scratch u x = scratch s x
    qWin q = false → placed (putSlot b m.aux bs s) ∧ (putSlot b m.aux bs s).hub = s.hub ∧ (putSlot b m.aux bs s).mem = s.mem
      ∧ (∀ d k, getCtx (putSlot b m.aux bs s) d k = getCtx s d k)
      ∧ (behindLost s c m = false → let t := landData f link b c m bs s
        placed t ∧ t.mem = s.mem ∧ t.hub = { s.hub with ringMsgs := s.hub.ringMsgs ++ [.accept (rrFn e) (rrLink e)] }
        ∧ getCtx t b.core b.ctxId = (getCtx s b.core b.ctxId).setQ b.ring (qAdvProd q 1))
      ∧ (behindLost s c m = true → landData f link b c m bs s = finishCmd c m (putSlot b m.aux bs s)))
  ∧ (∀ data b, firstData s f link = none → boundEnd s f link false = some b → here = false →
    (let q := (taskCtx s b.core b.ctxId b.task).Q b.ring
     let free := qFree q - unreleased (taskCtx s b.core b.ctxId b.task) (readDone (getCore s b.core)) b.ring
     (1 ≤ free → exec (.remoteDataArrive f link data) s = .next (fillSlot b data s)) ∧ (free = 0 → exec (.remoteDataArrive f link data) s = .next s)))
  ∧ (∀ (b : Bound) (bs : List Byte), isSaved s b.core b.ctxId b.task = false → (getCtx s b.core b.ctxId).task = b.task →
    (getCtx (fillSlot b bs s) b.core b.ctxId) = (getCtx s b.core b.ctxId).setQ b.ring (qAdvProd ((getCtx s b.core b.ctxId).Q b.ring) 1))
  ∧ (let done (u : State) : Prop := (∀ b m, boundEnd u f link true = some b → firstSent u b = some m →
        exec (.remoteSendAccept f link) s = .next (finishCmd b.core m u))
      ∧ (∀ b, boundEnd u f link true = some b → firstSent u b = none → exec (.remoteSendAccept f link) s = .next u)
      ∧ (boundEnd u f link true = none → exec (.remoteSendAccept f link) s = .next u)
    (∀ l, takeAccept f link s.hub.ringMsgs = some l → done { s with hub := { s.hub with ringMsgs := l } })
    ∧ (takeAccept f link s.hub.ringMsgs = none → here = false → done s)
    ∧ (takeAccept f link s.hub.ringMsgs = none → here = true → exec (.remoteSendAccept f link) s = .next s))
  ∧ (let back (u : State) (src die : Nat) : Prop := (∀ b, boundEnd u f link true = some b → exec (.slotReturnArrive f link) s =
        .next (modTaskCtx b.core b.ctxId b.task (fun y => y.setQ b.ring (qAdvCons (y.Q b.ring) 1)) u))
      ∧ (boundEnd u f link true = none → exec (.slotReturnArrive f link) s =
        .next (toSupervisor die (faultRecord u src f 0 { cls := 7, code := 1, addr := .ofNat 64 link }) u))
    (∀ c id l, takeReturn f link s.hub.ringMsgs = some ((c, id), l) →
      (mayLeave s c id = false → exec (.slotReturnArrive f link) s = .next s)
      ∧ (mayLeave s c id = true → back (leaveId c id { s with hub := { s.hub with ringMsgs := l } }) (srcEngine c 0) (dieOf c)))
    ∧ (takeReturn f link s.hub.ringMsgs = none → bits e 0 0 = 1 → here = true → exec (.slotReturnArrive f link) s = .next s)
    ∧ (takeReturn f link s.hub.ringMsgs = none → bits e 0 0 = 0 ∨ here = false →
      (portsUp s = [] → exec (.slotReturnArrive f link) s = .next s)
      ∧ (portsUp s ≠ [] →
        (∀ b, boundEnd s f link true = some b → exec (.slotReturnArrive f link) s =
          .next (if returnable s b then modTaskCtx b.core b.ctxId b.task (fun y => y.setQ b.ring (qAdvCons (y.Q b.ring) 1)) s else s))
        ∧ (boundEnd s f link true = none → ∃ p, p < 16 ∧ p ∉ s.hub.portsDown ∧ exec (.slotReturnArrive f link) s =
          .next (State.bump (toSupervisor 0 (faultRecord s (0x4000 + p) f 0 { cls := 7, code := 1, addr := .ofNat 64 link }) s))))))

/-! ## Steps of the part: scheduling -/

/-- R105, R106, R326: the core in focus runs the next ready context once its own has nothing to issue, and each context keeps its registers over the switch. The next is the first ready one of CTXID + 1, + 2 and + 3, or, of those that all became ready on one cycle since the last block, the lowest CTXID. A context is aged that has been ready and has not run for 4,096 cycles; of the aged ones the oldest runs, at a bundle boundary, and the next one at the boundary after the bundle that it issues; a team whose last stop has cleared goes on. What the order counts from behind an EXIT is log entry 65. It says where exec answers a next state for contextSwitch, agingSwitch and teamResume. -/
def Obligations.Switching : Prop := ∀ (c k : Nat) (s : State), isCore c = true →
  (nextReady (focusCore c s) = some k → maySwitch (focusCore c s) = true → exec (.contextSwitch c) s = .next (inFocus c (runReady k) s))
  ∧ (nextReady (focusCore c s) = some k → maySwitch (focusCore c s) = false → exec (.contextSwitch c) s = .next (inFocus c id s))
  ∧ (c = s.coreId → nextReady s = some k → maySwitch s = true → ∃ t, exec (.contextSwitch c) s = .next t ∧ t.ctxId = k
    ∧ t.ctx = { getCtx s c k with block := none, readySince := 0 } ∧ (∀ j, j ≠ k → getCtx t c j = getCtx s c j) ∧ t.mem = s.mem ∧ t.hub = s.hub)
  ∧ (let f := focusCore c s
    oldestAged f = some k → f.ctx.life = .running → f.ctx.block = none → f.ctx.frozen = none → f.ctx.delay = 0 → inTeam f = false →
    (f.core.agedIn = false → exec (.agingSwitch c) s = .next (inFocus c (fun u =>
      let v := runReady k { u with core := { u.core with freeAt := max u.core.freeAt u.cycle + 2, blockAt := u.cycle } }
      { v with core := { v.core with agedIn := true } }) s))
    ∧ (f.core.agedIn = true → exec (.agingSwitch c) s = .next (inFocus c id s)))
  ∧ (let since (j : Nat) : Nat := (getCtx s s.coreId j).readySince
    let waits (j : Nat) : Prop := ready s s.coreId j = true ∧ since j ≠ 0
    let line := [(s.ctxId + 1) % 4, (s.ctxId + 2) % 4, (s.ctxId + 3) % 4]
    s.ctxId < 4 →
    ((∀ j ∈ line, ¬ waits j) → nextReady s = none)
    ∧ (∀ a j b, line = a ++ j :: b → waits j → (∀ i ∈ a, ¬ waits i) →
      (since j ≤ s.core.blockAt ∨ ∃ i ∈ b, waits i ∧ since i ≠ since j) → nextReady s = some j)
    ∧ (∀ j, j ∈ line → waits j → s.ctx.block = none → s.core.blockAt < since j → (∀ i ∈ line, waits i → since i = since j ∧ j ≤ i) → nextReady s = some j)
    ∧ (∀ j, oldestAged s = some j → j ∈ line ∧ waits j ∧ since j + 4095 ≤ s.cycle ∧ ∀ i ∈ line, waits i → since i + 4095 ≤ s.cycle → since j ≤ since i)
    ∧ (oldestAged s = none → ∀ i ∈ line, waits i → s.cycle < since i + 4095))
  ∧ (∀ t x, taskOf s t = some x → x.team = true → teamPlaced s x = true → x.places.any (fun p => frozenWithTeam (memberCtx s x p)) = true →
    (∀ p ∈ x.places, (memberCtx s x p).frozen = none ∧ halts s p.1 p.2 = false) → exec (.teamResume t) s = .next (resumeTeam x s))

/-- R52, R112 to R115, R141: a barrier's release is decided for all its participants in the step in which the last has arrived and every window access before has performed, a STEP's after its counter has advanced and only where every participant's floating bindings can move; a decided release that no reload holds reaches its member, whose STEPNO then reads the counter; a reload of floating bindings lands before its member goes on, once no queued operation reads the old array, or faults it; a SYNC releases every participant six cycles after the last arrived. That a STEP at which the context takes no part moves its bindings alone is the model's reading (log entry 36); that a participant whose binding cannot be read faults before the release, that a saved one holds the release back, and that a reload which cannot be read faults its context, is the model's choice (log entry 57). It says where exec answers a next state for barRelease, stepRelease, bindingReloadLands and syncRelease. -/
def Obligations.BarrierReleases : Prop := ∀ (c k l : Nat) (t : TaskSt) (s : State), isCore c = true → k < 4 →
  let x := getCtx s c k
  let seat : Seat := ⟨x.func.toNat, c, k, x.task⟩
  taskOf s x.task = some t → t.team = false → isSaved s c k t.id = false →
  (x.block = some (.bar l) →
    (x.release = .no →
      (allArrived s t (c, k) l (.bar l) = true → exec (.barRelease c k) s = .next (arriveRelease t (c, k) none l (decideRelease t (c, k) l false s)))
      ∧ (allArrived s t (c, k) l (.bar l) = false → exec (.barRelease c k) s = .next s))
    ∧ (∀ rs, x.release = .decided rs → exec (.barRelease c k) s = .next (reach t none rs (c, k) s))
    ∧ (x.release = .decided [] → ∃ u, exec (.barRelease c k) s = .next u ∧ getCtx u c k = { x with release := .here } ∧ u.mem = s.mem ∧ u.hub = s.hub))
  ∧ (x.block = some (.step l) → takesPartAt x c l = true →
    (x.release = .no →
      (allArrived s t (c, k) l (.step l) = true →
        ((∀ u ∈ participants s t (c, k) l, resolveCause (seatOf u.1 u.2) s = none) →
          exec (.stepRelease c k) s = .next (arriveRelease t (c, k) (some l) l (decideRelease t (c, k) l true s)))
        ∧ (∀ u e, (participants s t (c, k) l).find? (fun u => (resolveCause (seatOf u.1 u.2) s).isSome) = some u → resolveCause (seatOf u.1 u.2) s = some e →
          exec (.stepRelease c k) s = .next (if isSaved s u.2.1 u.2.2 u.1.id then s else faultAt u.2.1 u.2.2 e (e.met s))))
      ∧ (allArrived s t (c, k) l (.step l) = false → exec (.stepRelease c k) s = .next s))
    ∧ (∀ rs, x.release = .decided rs → exec (.stepRelease c k) s = .next (reach t (some l) rs (c, k) s))
    ∧ (x.release = .decided [] → ∃ u, exec (.stepRelease c k) s = .next u ∧ u.mem = s.mem ∧ u.hub = s.hub
      ∧ getCtx u c k = { x with release := .here, stepno := if bits x.domain.toNat 8 6 = l then stepCount s t (c, k) l else x.stepno }))
  ∧ (x.block = some (.step l) → takesPartAt x c l = false → exec (.stepRelease c k) s = .next (stepAlone seat s))
  ∧ (∀ b, b = .bar l ∨ b = .step l → allArrived s t (c, k) l b = true → ∀ u ∈ participants s t (c, k) l,
    (memberCtx s u.1 u.2).block = some b ∧ ∀ a ∈ (getCore s u.2.1).window, a.ctx ≠ ctxKey s u.2.1 u.2.2 u.1.id)
  ∧ (x.block = some (.step l) →
    (∀ rs, x.release = .reloading rs →
      (arrayRead s c k = true → exec (.bindingReloadLands c k) s = .next s)
      ∧ (arrayRead s c k = false → (∀ e, reloadCause seat rs s = some e → exec (.bindingReloadLands c k) s = .next (faultAt c k e (e.met s)))
        ∧ (reloadCause seat rs s = none → exec (.bindingReloadLands c k) s = .next (landReload seat .here s)
          ∧ ∃ u, exec (.bindingReloadLands c k) s = .next u ∧ (getCtx u c k).release = .here)))
    ∧ ((∀ rs, x.release ≠ .reloading rs) → exec (.bindingReloadLands c k) s = .next s))
  ∧ (x.block = some .sync → (∀ a, syncTime s t (dieOf c) = some a → exec (.syncRelease c k) s = .next (releaseSync t (dieOf c) a s))
    ∧ (syncTime s t (dieOf c) = none → exec (.syncRelease c k) s = .next s))

/-- R130, R131, R381, R384, R385: a context of lower priority outside delay bundles, of the lowest priority and latest start, gives way to a head that finds no place: it is taken where it stands, issues no more, and is saved once none of its window accesses and matrix operations is left; a team gives way where no free-mode context does; a faulted context is saved with every register it holds.
R326: a saved context whose place is free again comes back with the registers, tiles, accumulators and statistics entries that its save area then holds by Table 6-9, and every other field as it was saved. What the save area leaves open, and what comes back where it cannot be read, is log entries 9 and 44. It says where exec answers a next state for preemptSave, saveFaulted and contextRestore. -/
def Obligations.SavingAndRestoring : Prop := ∀ (c k : Nat) (t : TaskSt) (s : State), isCore c = true → k < 4 →
  let x := getCtx s c k
  (∀ h, needy s = some h → taskOf s x.task = some t → t.team = false → nextVictim s h c k = true → fitsThen s h = false → x.frozen ≠ none ∨ x.retrying = false →
    x.delay = 0 → x.saving = false →
    let u := modCtx c k (fun y => { y with saving := true }) s
    (maySave u c k = true → exec (.preemptSave c k) s = .next (saveCtx c k (countPreempt x.task u))) ∧ (maySave u c k = false → exec (.preemptSave c k) s = .next u))
  ∧ (x.saving = true → (maySave s c k = true → exec (.preemptSave c k) s = .next (saveCtx c k (countPreempt x.task s)))
    ∧ (maySave s c k = false → exec (.preemptSave c k) s = .next s))
  ∧ (s.ctx.saving = true → mayIssue s = false)
  ∧ (∀ h, needy s = some h → taskOf s x.task = some t → t.team = true → x.life = .running → t.prio < h.prio → x.saving = false →
    (∀ p ∈ ctxIds s, givesWay s h p.1 p.2 = false) → exec (.preemptSave c k) s = .next (preemptTeam h t s))
  ∧ (x.saving = false → needy s = none → exec (.preemptSave c k) s = .next s)
  ∧ (x.frozen ≠ none → x.life = .running → taskOf s x.task = some t → t.team = false → maySave s c k = true →
    ∃ u, exec (.saveFaulted c k) s = .next u ∧ ∃ v ∈ u.hub.saved, v.core = c ∧ v.ctxId = k ∧ v.faulted = true ∧ v.ctx = { x with readySince := 0, saving := false })
  ∧ (∀ v, s.hub.saved.find? (fun v => v.core == c && v.ctxId == k && mayRestore s v) = some v → taskOf s v.ctx.task = some t → t.team = false →
    exec (.contextRestore c k) s = .next (restoreCtx v s))
  ∧ (∀ v, v.core = c → v.ctxId = k →
    twf 0 v.ctx.g = true → twf 0 v.ctx.q = true → twf 0 v.ctx.h = true → twf 0 v.ctx.b = true → twf 0 v.ctx.xp = true → twf 0 v.ctx.es = true →
    twf 0 v.ctx.v = true → twf 0 v.ctx.m = true → twf 0 v.ctx.w = true →
    let old := v.ctx
    let y := getCtx (restoreCtx v s) c k
    let base := saveBase old
    let area (off w i : Nat) : Option Nat := vread s old.func.toNat (base + off + w * i) w
    let back {w : Nat} (o : Option Nat) (new kept : BitVec w) (f : Nat → BitVec w) : Prop := (∀ d, o = some d → new = f d) ∧ (o = none → new = kept)
    (∀ i, 1 ≤ i → i < 64 → back (area 0x40 8 i) (y.G i) (old.G i) (.ofNat 64))
    ∧ (∀ i, i < 16 → back (area 0x400 16 i) (y.Q i) (old.Q i) (fun d => .ofNat 128 d &&& qMask) ∧ back (area 0x500 8 i) (y.H i) (old.H i) (fun d => .ofNat 64 d &&& hMask)
      ∧ back (area 0x5C0 8 i) (y.XP i) (old.XP i) (.ofNat 64) ∧ back (area 0x640 8 i) (y.ES i) (old.ES i) (.ofNat 64))
    ∧ (∀ i, i < 8 → back (area 0x580 8 i) (y.B i) (old.B i) (.ofNat 64))
    ∧ (∀ i, i < 256 → back (area 0x4800 64 i) (y.V (i / 8) (i % 8)) (old.V (i / 8) (i % 8)) (.ofNat 512))
    ∧ (∀ i, 8 ≤ i → i < 64 → back (area 0x8800 8 i) (y.M (i / 8) (i % 8)) (old.M (i / 8) (i % 8)) (.ofNat 64))
    ∧ (∀ i, i < 64 → back (area 0x8A00 33 i) (y.W (i / 8) (i % 8)) (old.W (i / 8) (i % 8)) (.ofNat 264))
    ∧ y = { old with g := y.g, q := y.q, h := y.h, b := y.b, xp := y.xp, es := y.es, v := y.v, m := y.m, w := y.w, savecfg := y.savecfg,
                     frozen := none, block := if old.frozen.isSome then none else old.block })
  ∧ (∀ v, v.core = c → v.ctxId = k → twf 0 v.tile = true → twf 0 v.acc = true → twf 0 v.stats = true → s.hub.clusterSaves = [] →
    twf 0 (getCore s c).tile = true → twf 0 (getCore s c).acc = true → twf 0 (getCore s c).stats = true →
    let t := getCore (restoreCtx v s) c
    let area (off w i : Nat) : Option Nat := vread s v.ctx.func.toNat (saveBase v.ctx + off + w * i) w
    let ts := ownedTiles { tshare := v.tshare } k
    let as := ownedAccs { tshare := v.tshare } k
    let base := 0x10000 + 0x10000 * ts.length
    let st := statRange v.ctx
    (∀ p ∈ ts.zipIdx, ∀ i d, i < 1024 → area (0x10000 + 0x10000 * p.2) 64 i = some d → ∀ j, j < 64 → tget 0 t.tile (p.1 * 0x10000 + 64 * i + j) = .ofNat 8 (d / 256 ^ j))
    ∧ (∀ p ∈ as.zipIdx, ∀ i d, i < 0x10000 → area (base + 0x40000 * p.2) 4 i = some d → tget 0 t.acc (p.1 * 0x10000 + i) = .ofNat 32 d)
    ∧ (∀ i d, i < st.2 - st.1 → area (base + 0x40000 * as.length) 16 i = some d → tget 0 t.stats (st.1 + i) = .ofNat 128 d))

/-! ## Steps of the part: functions, management, alignment, the stud book and links -/

/-- R86, R110, R123, R315, R317, R318, R324, R336, R373, R390: behind step 6 of bring-up enabling a function writes its block, updating an enabled one changes WEIGHT and QUOTA alone, resetting one disables it, leaves it no context and zeroes its counters, the other fields of its block standing by the model's reading (log entry 66); a queue's configuration keeps its records and SEQ, and its EN is taken behind step 7 alone; a management write changes the register it names, its reserved bits reading 0, or the bytes that it names where a device keeps them; an entry of the range table is taken behind step 3, and firmware starts behind step 2; a rewrite of one group's level-5 counter settles that group alone, by the model's choice (log entry 45); a page copy carries every byte, and poison with each poisoned line. That such a write before its step has no effect is the model's choice (log entry 68), that a step which is to fail does nothing but write its report is its reading (log entry 68), and block values taken as written (log entry 80), a CACHECFG word taken as written (log entry 83) and a write to flash that leaves its bytes (log entry 74) are its choices. It says where exec answers a next state for functionEnable, functionUpdate, functionReset, queueConfigWrite, remoteRingEntryWrite and managementWrite. -/
def Obligations.FunctionsAndManagement : Prop := ∀ (f q c k : Nat) (blk : BitVec 1024) (w : BitVec 64) (e : BitVec 128) (s : State),
  (f ≤ 16 → broughtTo s 6 = true → fEnabled s f = false → blk.getLsbD 0 = true → bits blk.toNat 2 1 ≠ 3 → (∀ cause, s.hub.bringFail ≠ some (7, cause)) → ∃ t, exec (.functionEnable f blk) s = .next t
    ∧ fEnabled t f = true ∧ fSclim t f = bits blk.toNat 2 1 ∧ fFpol t f = blk.getLsbD 3 ∧ fQuota t f = bits blk.toNat 47 16 ∧ fblk t f 15 8 = bits blk.toNat 15 8
    ∧ fblk t f 7 4 = 0 ∧ t.hub.bringUp = max s.hub.bringUp 7 ∧ t.mem = s.mem ∧ t.ctx = s.ctx)
  ∧ (f ≤ 16 → broughtTo s 6 = false → exec (.functionEnable f blk) s = .next s)
  ∧ (∀ cause, let failed (n : Nat) : State := { s with hub := { s.hub with status := .ofNat 64 (n + cause % 256 * 256), bringFail := none } }
    (f ≤ 16 → broughtTo s 6 = true → fEnabled s f = false → blk.getLsbD 0 = true → bits blk.toNat 2 1 ≠ 3 → s.hub.bringFail = some (7, cause) →
      exec (.functionEnable f blk) s = .next (failed 7))
    ∧ (q < 256 → broughtTo s 7 = true → w.getLsbD 0 = true → s.hub.bringFail = some (8, cause) → exec (.queueConfigWrite q w) s = .next (failed 8))
    ∧ (∀ n, broughtTo s 5 = true → s.hub.bringUp < 6 → s.hub.bringFail = some (6, cause) → exec (.managementWrite (.package n)) s = .next (failed 6)))
  ∧ (f ≤ 16 → fEnabled s f = true → blk.getLsbD 0 = true → ∃ t, exec (.functionUpdate f blk) s = .next t
    ∧ fblk t f 15 8 = bits blk.toNat 15 8 ∧ fQuota t f = bits blk.toNat 47 16 ∧ fblk t f 7 0 = fblk s f 7 0
    ∧ ∀ hi lo, 48 ≤ lo → hi < 1024 → fblk t f hi lo = fblk s f hi lo)
  ∧ (f ≤ 16 → fEnabled s f = true → twf 0 s.hub.funcs = true → ∃ t, exec (.functionReset f) s = .next t ∧ fEnabled t f = false
    ∧ (∀ d j, j < 4 → (getCtx t d j).life ≠ .idle → (getCtx t d j).func.toNat ≠ f)
    ∧ (∀ hi lo, 1 ≤ lo → hi < 1024 → fblk t f hi lo = fblk s f hi lo)
    ∧ (∀ i, i < 4096 → counter t f i = 0) ∧ (∀ x ∈ t.hub.tasks, x.func ≠ f)
    ∧ (s.hub.inbox = [] → s.hub.saved = [] → (∀ r ∈ s.hub.reserve, r.1 ≠ f) → t.mem = s.mem))
  ∧ (q < 256 → broughtTo s 6 = true → (w.getLsbD 0 = false ∨ broughtTo s 7 = false ∨ ∀ cause, s.hub.bringFail ≠ some (8, cause)) → ∃ t, exec (.queueConfigWrite q w) s = .next t ∧ (queueOf t q).conf = w.setWidth 32 &&& (if broughtTo s 7 then 0x3FF else 0x3FE)
    ∧ (queueOf t q).recs = (queueOf s q).recs ∧ (queueOf t q).seq = (queueOf s q).seq ∧ ∀ r, r ≠ q → queueOf t r = queueOf s r)
  ∧ (q < 256 → broughtTo s 6 = false → exec (.queueConfigWrite q w) s = .next s)
  ∧ (f ≤ 16 → ∀ i a v, i < fblk s f 528 512 → vphys s f (fblk s f 511 448 + 16 * i) = some (a, v) →
    exec (.remoteRingEntryWrite f i e) s = .next (devPut s a (e.toNat &&& 0x1FFFFF0FFF0003) 16))
  ∧ (∀ m, exec (.managementWrite m) s = .next (manage m s))
  ∧ (broughtTo s 3 = false → ∀ i r, manage (.range i r) s = s)
  ∧ (broughtTo s 2 = false → ∀ pc, manage (.startSup c k f pc) s = s)
  ∧ (∀ g n, (manage (.level5 f g n) s).hub.step5Bad = s.hub.step5Bad.filter (· != f * 64 + g))
  ∧ (∀ a b, a ≠ b → dState (desc s a) = 1 → dState (desc s b) = 1 → s.mem.wf = true → s.hub.scrubLines = [] →
    let t := manage (.copyPage a b) s
    (∀ i, i < 65536 → devByte t (b * 65536 + i) = devByte s (a * 65536 + i)) ∧ (∀ x, x / 65536 ≠ b → devByte t x = devByte s x)
    ∧ ∀ l, l < 1024 → a * 1024 + l ∈ s.hub.poison ∨ a * 1024 + l ∈ s.hub.badLines → a * 1024 + l ∈ t.hub.poison ∧ b * 1024 + l ∈ t.hub.poison)
  ∧ (isCore c = true → (getCore (manage (.tshare c w) s) c).tshare = w &&& 0x00FFFFFFFFFFFFFF ∧ (getCore (manage (.cachecfg c w) s) c).cachecfg = w &&& 0x000007FF07FF0003)
  ∧ (isCore c = true → k < 4 → (getCtx (manage (.domain c k w) s) c k).domain = w &&& 0x7FFFF
    ∧ (getCtx (manage (.savecfg c k w) s) c k).savecfg = w &&& 0x01FFFFFFFFFFFFFF)
  ∧ (∀ pa bs, s.mem.wf = true →
    ((∀ i, i < bs.length → keepsByte s (pa + i) = true ∧ lineBad s (pa + i) = none) → devRead (manage (.mem pa bs) s) pa bs.length = bs)
    ∧ ((∀ i, i < bs.length → lineTier s (pa + i) = 1) → (manage (.mem pa bs) s).mem = s.mem) ∧ ∀ x, x < pa ∨ pa + bs.length ≤ x → devByte (manage (.mem pa bs) s) x = devByte s x)

/-- R320, R390: a flit goes out on every link every 1,024 ticks; a received one steers the tick one step toward the root's, once in 1,024 ticks and never backward, and more than one tick of deviation ends alignment, as does silence for 65,536 ticks, on package 0 too, which is the root and steers toward no one; 1,024 ticks within one tick of the root restore it. A group whose level-5 step counter differs is noted, which writes no record, by the model's reading (log entry 45). It says where exec answers a next state for alignFlitSend, alignFlitReceive, alignTimeout and alignRejoin.
R323, R332 to R335, R372, R375, R391: a resent link flit is a corrected error, and a full buffer counts what it cannot hold; draining appends the records of the ring in device memory to the log in their order, moves the buffer to the ring, and writes one KIND 8 record for each source that counted, while the buffer has space; a record appended joins the open page, and the 127th closes it with the hash of the chain word before it and the page (where the ring stands is log entry 81, and that LOC of a KIND 8 record is zero is log entry 16); an erase needs the root's signature and restarts the chain (what else it keeps is log entry 46); a report uses up one key, and none is released where the write of the key's counter fails; a port goes down; a throttled row is let go 200 ticks later, its bank and row coming with the step (log entry 50). It says where exec answers a next state for linkFlitResend, studBookDrain, secureErase, attestationReport, linkDown, rowThrottle and throttleRelease. -/
def Obligations.AlignmentRecordsAndLinks : Prop :=
  (∀ (root : BitVec 64) (steps : List (Nat × BitVec 64)) (s : State),
    let away := if s.tick ≤ root then root.toNat - s.tick.toNat else s.tick.toNat - root.toNat
    (s.hub.lastSent.toNat + 1024 ≤ s.tick.toNat → ∃ t, exec .alignFlitSend s = .next t ∧ t.hub.lastSent = s.tick
      ∧ t.hub.flits = s.hub.flits ++ (portsUp s).map fun p => (p, s.hub.package, s.tick, level5Counters s))
    ∧ (s.tick.toNat < s.hub.lastSent.toNat + 1024 → exec .alignFlitSend s = .next s)
    ∧ (s.hub.package = 0 → ∃ t, exec (.alignFlitReceive root steps) s = .next t ∧ t.tick = s.tick ∧ t.hub.slow = s.hub.slow
      ∧ t.hub.aligned = s.hub.aligned ∧ t.hub.lastFlit = s.tick ∧ t.hub.supFaults = s.hub.supFaults ∧ (∀ g, g ∈ t.hub.step5Bad ↔ g ∈ s.hub.step5Bad ∨ ∃ p ∈ steps, p.1 = g ∧ tget 0 s.hub.bgSteps (g * 8 + 5) ≠ p.2))
    ∧ (s.hub.package ≠ 0 → ∃ t, exec (.alignFlitReceive root steps) s = .next t
      ∧ t.tick = (if maySteer s = true ∧ s.tick < root then s.tick + 1 else s.tick) ∧ (maySteer s = true → root < s.tick → t.hub.slow = true)
      ∧ t.hub.aligned = (s.hub.aligned && decide (away ≤ 1)) ∧ t.hub.lastFlit = s.tick ∧ (1 < away → t.hub.inRange = 0)
      ∧ (∀ g, g ∈ t.hub.step5Bad ↔ g ∈ s.hub.step5Bad ∨ ∃ p ∈ steps, p.1 = g ∧ tget 0 s.hub.bgSteps (g * 8 + 5) ≠ p.2))
    ∧ (s.hub.aligned = true → s.hub.lastFlit.toNat + 65536 ≤ s.tick.toNat →
      ∃ t, exec .alignTimeout s = .next t ∧ t.hub.aligned = false ∧ (tget {} t.hub.supFaults 0).seq = (tget {} s.hub.supFaults 0).seq + 1)
    ∧ (s.hub.aligned = false → s.hub.inRange ≠ 0 → s.hub.inRange + 1023 ≤ s.tick.toNat → exec .alignRejoin s = .next { s with hub := { s.hub with aligned := true } }))
  ∧ (∀ (port lane bank row : Nat) (syn : BitVec 64) (nonce : BitVec 256) (s : State), twf 0 s.hub.studBook.missed = true →
    let src := 0x4000 + port
    let b := s.hub.studBook
    let counted := tget 0 b.missed src
    (port ≤ 16 → b.buffer.length < 1024 → ∃ t, exec (.linkFlitResend port lane syn) s = .next t ∧ t.hub.studBook.buffer.length = b.buffer.length + 1
      ∧ (∃ r ∈ t.hub.studBook.buffer, bits r.toNat 63 0 = s.tick.toNat ∧ bits r.toNat 79 64 = src ∧ bits r.toNat 87 80 = 5 ∧ bits r.toNat 255 192 = syn.toNat)
      ∧ t.mem = s.mem ∧ t.ctx = s.ctx)
    ∧ (port ≤ 16 → 1024 ≤ b.buffer.length → ∃ t, exec (.linkFlitResend port lane syn) s = .next t ∧ t.hub.studBook.buffer = b.buffer ∧ tget 0 t.hub.studBook.missed src = counted + 1)
    ∧ (let b' := b.ring.foldl studAppend b
      ∃ t, exec .studBookDrain s = .next t ∧ t.mem = s.mem ∧ t.ctx = s.ctx ∧ t.hub.studBook.page = b'.page ∧ t.hub.studBook.closed = b'.closed ∧ t.hub.studBook.chain = b'.chain
      ∧ t.hub.studBook.lms = b'.lms ∧ t.hub.studBook.signed = b'.signed ∧ t.hub.studBook.ring = b.buffer ∧ t.hub.studBook.missed = b.missed.drop 1024
      ∧ t.hub.studBook.buffer.length = min 1024 b.missed.length ∧ (∀ r, r ∈ t.hub.studBook.buffer ↔ ∃ p ∈ b.missed.take 1024, r = studRecord s p.1 8 0 (.ofNat 64 p.2)))
    ∧ (∀ r, (b.page.length < 126 → studAppend b r = { b with page := b.page ++ [r] })
      ∧ (b.page.length = 126 → let n := Sha.sha256 (Sha.digest b.chain ++ (b.page ++ [r]).flatMap fun x => leBytes x.toNat 32)
        (studAppend b r).page = [] ∧ (studAppend b r).chain = n ∧ (studAppend b r).closed = b.closed ++ [(b.page ++ [r], n)]))
    ∧ (∃ t, exec (.secureErase true) s = .next t ∧ t.hub.studBook.closed = [] ∧ t.hub.studBook.page = [] ∧ t.hub.studBook.chain = 0 ∧ t.hub.studBook.lms = b.lms)
    ∧ exec (.secureErase false) s = .next s
    ∧ (b.keyBad = false → ∃ t, exec (.attestationReport nonce) s = .next t ∧ t.hub.studBook.lms = b.lms + 1 ∧ t.hub.studBook.chain = b.chain
      ∧ ∃ r, t.hub.reports = s.hub.reports ++ [r])
    ∧ (b.keyBad = true → ∃ t, exec (.attestationReport nonce) s = .next t ∧ t.hub.studBook.lms = b.lms ∧ t.hub.reports = s.hub.reports)
    ∧ (port < 16 → ∃ t, exec (.linkDown port) s = .next t ∧ port ∈ t.hub.portsDown ∧ t.hub.cxlDown = s.hub.cxlDown)
    ∧ exec (.linkDown 16) s = .next { s with hub := { s.hub with cxlDown := true, cxlRevoked := [] } }
    ∧ (16 < port → exec (.linkDown port) s = .next s ∧ exec (.linkFlitResend port lane syn) s = .next s)
    ∧ ((∀ r ∈ s.hub.rows, ¬(r.1 = bank ∧ r.2.1 = row)) → exec (.rowThrottle bank row) s = .next { s with hub := { s.hub with rows := (bank, row, s.tick) :: s.hub.rows } })
    ∧ (∃ t, exec (.throttleRelease bank row) s = .next t ∧ (∀ r, r ∈ t.hub.rows ↔ r ∈ s.hub.rows ∧ ¬(r.1 = bank ∧ r.2.1 = row ∧ r.2.2.toNat + 200 ≤ s.tick.toNat))))
end

