-- ==== Sys2Proof/Laws/Encoding.lean ====
section
/-! SUPPORT. The fields of a syllable come back out of it: pieces of an appended bit vector, the parts of an encoded syllable, and the operand fields of each format. -/

namespace Sys2Proof.Laws

open Sys2Proof Machine.Encoding

/-- The low part of an appended pair. -/
theorem extract_low {a b : Nat} (x : BitVec a) (y : BitVec b) : (x ++ y).extractLsb' 0 b = y := by
  ext k hk
  simp [BitVec.getLsbD_append, BitVec.getLsbD_eq_getElem, hk]

/-- Bits of the high part of an appended pair. -/
theorem extract_high {a b : Nat} (x : BitVec a) (y : BitVec b) (k n : Nat) : (x ++ y).extractLsb' (b + k) n = x.extractLsb' k n := by
  ext j hj
  simp only [BitVec.getElem_extractLsb', BitVec.getLsbD_append]
  rw [if_neg (by omega), show b + k + j - b = k + j by omega]

/-- All bits of a vector. -/
theorem extract_all {a : Nat} (x : BitVec a) : x.extractLsb' 0 a = x := by
  ext k hk
  simp

/-- A bit of the high part of an appended pair. -/
theorem bit_high {a b : Nat} (x : BitVec a) (y : BitVec b) (k : Nat) : (x ++ y).getLsbD (b + k) = x.getLsbD k := by
  simp [BitVec.getLsbD_append]

/-- A bit of the low part of an appended pair. -/
theorem bit_low {a b : Nat} (x : BitVec a) (y : BitVec b) (k : Nat) (h : k < b) : (x ++ y).getLsbD k = y.getLsbD k := by
  simp [BitVec.getLsbD_append, h]

/-- The one bit of a Boolean. -/
theorem bit_ofBool (b : Bool) : (BitVec.ofBool b).getLsbD 0 = b := by cases b <;> rfl

/-- The operand field of an encoded syllable (R157). -/
theorem fieldBits_encodeWith (b : Bool) (i : Instr) : fieldBits (encodeWith b i) = field i := extract_low _ _

/-- The guard of an encoded syllable (R157, R162). -/
theorem guardBits_encodeWith (b : Bool) (i : Instr) : guardBits (encodeWith b i) = guardOf i := by
  have h1 : (encodeWith b i).extractLsb' 47 4 = (guardOf i).idx := (extract_high _ _ 0 4).trans (extract_low _ _)
  have h2 : (encodeWith b i).getLsbD 51 = (guardOf i).neg :=
    (bit_high _ _ 4).trans ((bit_high _ _ 0).trans ((bit_low _ _ 0 (by decide)).trans (bit_ofBool _)))
  rw [guardBits, h1, h2]

/-- The opcode of an encoded syllable (R157). -/
theorem opcOf_encodeWith (b : Bool) (i : Instr) : opcOf (encodeWith b i) = opc i :=
  (extract_high _ _ 5 8).trans ((extract_high _ _ 1 8).trans ((extract_high _ _ 0 8).trans (extract_low _ _)))

/-- The slot tag of an encoded syllable (R157). -/
theorem tagOf_encodeWith (b : Bool) (i : Instr) : tagOf (encodeWith b i) = (tag i).getD 0 :=
  (extract_high _ _ 13 3).trans ((extract_high _ _ 9 3).trans ((extract_high _ _ 8 3).trans ((extract_high _ _ 0 3).trans (extract_low _ _))))

/-- The STOP bit of an encoded syllable (R157). -/
theorem stopOf_encodeWith (b : Bool) (i : Instr) : stopOf (encodeWith b i) = b :=
  (bit_high _ _ 16).trans ((bit_high _ _ 12).trans ((bit_high _ _ 11).trans ((bit_high _ _ 3).trans ((bit_high _ _ 0).trans (bit_ofBool _)))))

/-- Unpacking the operand field that packs the fields of SR gives them back. -/
theorem unpackSR_pack (o : SR) : unpackSR o.guard (packSR o) = o := by
  cases o
  simp only [unpackSR, packSR]
  congr 1
  · exact (extract_high _ _ 35 6).trans ((extract_high _ _ 30 6).trans ((extract_high _ _ 26 6).trans ((extract_high _ _ 22 6).trans ((extract_high _ _ 18 6).trans ((extract_high _ _ 12 6).trans ((extract_high _ _ 6 6).trans ((extract_high _ _ 0 6).trans (extract_all _))))))))
  · exact (extract_high _ _ 29 6).trans ((extract_high _ _ 24 6).trans ((extract_high _ _ 20 6).trans ((extract_high _ _ 16 6).trans ((extract_high _ _ 12 6).trans ((extract_high _ _ 6 6).trans ((extract_high _ _ 0 6).trans (extract_low _ _)))))))
  · exact (extract_high _ _ 23 6).trans ((extract_high _ _ 18 6).trans ((extract_high _ _ 14 6).trans ((extract_high _ _ 10 6).trans ((extract_high _ _ 6 6).trans ((extract_high _ _ 0 6).trans (extract_low _ _))))))
  · exact (extract_high _ _ 17 6).trans ((extract_high _ _ 12 6).trans ((extract_high _ _ 8 6).trans ((extract_high _ _ 4 6).trans ((extract_high _ _ 0 6).trans (extract_low _ _)))))
  · exact (extract_high _ _ 13 4).trans ((extract_high _ _ 8 4).trans ((extract_high _ _ 4 4).trans ((extract_high _ _ 0 4).trans (extract_low _ _))))
  · exact (extract_high _ _ 9 4).trans ((extract_high _ _ 4 4).trans ((extract_high _ _ 0 4).trans (extract_low _ _)))
  · exact (extract_high _ _ 5 4).trans ((extract_high _ _ 0 4).trans (extract_low _ _))
  · exact (extract_high _ _ 0 5).trans (extract_low _ _)

/-- Unpacking the operand field that packs the fields of SI gives them back. -/
theorem unpackSI_pack (o : SI) : unpackSI o.guard (packSI o) = o := by
  cases o
  simp only [unpackSI, packSI]
  congr 1
  · exact (extract_high _ _ 38 6).trans ((extract_high _ _ 6 6).trans ((extract_high _ _ 0 6).trans (extract_all _)))
  · exact (extract_high _ _ 32 6).trans ((extract_high _ _ 0 6).trans (extract_low _ _))
  · exact (extract_high _ _ 0 32).trans (extract_low _ _)
  · exact (extract_low _ _)

/-- Unpacking the operand field that packs the fields of SL gives them back. -/
theorem unpackSL_pack (o : SL) : unpackSL o.guard (packSL o) = o := by
  cases o
  simp only [unpackSL, packSL]
  congr 1
  · exact (extract_high _ _ 0 6).trans (extract_all _)
  · exact (extract_low _ _)

/-- Unpacking the operand field that packs the fields of SB gives them back. -/
theorem unpackSB_pack (o : SB) : unpackSB o.guard (packSB o) = o := by
  cases o
  simp only [unpackSB, packSB]
  congr 1
  · exact (extract_high _ _ 32 6).trans ((extract_high _ _ 0 6).trans (extract_all _))
  · exact (extract_high _ _ 0 32).trans (extract_low _ _)

/-- Unpacking the operand field that packs the fields of VF gives them back. -/
theorem unpackVF_pack (o : VF) : unpackVF o.guard o.v1 (packVF o) = o := by
  cases o
  simp only [unpackVF, packVF]
  congr 1
  · exact (extract_high _ _ 20 5).trans ((extract_high _ _ 19 5).trans ((extract_high _ _ 15 5).trans ((extract_high _ _ 10 5).trans ((extract_high _ _ 5 5).trans ((extract_high _ _ 0 5).trans (extract_all _))))))
  · exact (extract_high _ _ 15 5).trans ((extract_high _ _ 14 5).trans ((extract_high _ _ 10 5).trans ((extract_high _ _ 5 5).trans ((extract_high _ _ 0 5).trans (extract_low _ _)))))
  · exact (extract_high _ _ 10 5).trans ((extract_high _ _ 9 5).trans ((extract_high _ _ 5 5).trans ((extract_high _ _ 0 5).trans (extract_low _ _))))
  · exact (extract_high _ _ 5 5).trans ((extract_high _ _ 4 5).trans ((extract_high _ _ 0 5).trans (extract_low _ _)))
  · exact (extract_high _ _ 1 4).trans ((extract_high _ _ 0 4).trans (extract_low _ _))
  · exact (bit_high _ _ 0).trans ((bit_low _ _ 0 (by decide)).trans (bit_ofBool _))
  · exact (extract_low _ _)

/-- Unpacking the operand field that packs the fields of XF gives them back. -/
theorem unpackXF_pack (o : XF) : unpackXF o.guard (packXF o) = o := by
  cases o
  simp only [unpackXF, packXF]
  congr 1
  · exact (extract_high _ _ 31 5).trans ((extract_high _ _ 26 5).trans ((extract_high _ _ 18 5).trans ((extract_high _ _ 14 5).trans ((extract_high _ _ 9 5).trans ((extract_high _ _ 5 5).trans ((extract_high _ _ 0 5).trans (extract_all _)))))))
  · exact (extract_high _ _ 26 5).trans ((extract_high _ _ 21 5).trans ((extract_high _ _ 13 5).trans ((extract_high _ _ 9 5).trans ((extract_high _ _ 4 5).trans ((extract_high _ _ 0 5).trans (extract_low _ _))))))
  · exact (extract_high _ _ 22 4).trans ((extract_high _ _ 17 4).trans ((extract_high _ _ 9 4).trans ((extract_high _ _ 5 4).trans ((extract_high _ _ 0 4).trans (extract_low _ _)))))
  · exact (extract_high _ _ 17 5).trans ((extract_high _ _ 12 5).trans ((extract_high _ _ 4 5).trans ((extract_high _ _ 0 5).trans (extract_low _ _))))
  · exact (extract_high _ _ 13 4).trans ((extract_high _ _ 8 4).trans ((extract_high _ _ 0 4).trans (extract_low _ _)))
  · exact (extract_high _ _ 5 8).trans ((extract_high _ _ 0 8).trans (extract_low _ _))
  · exact (extract_high _ _ 0 5).trans (extract_low _ _)

/-- Unpacking the operand field that packs the fields of MF gives them back. -/
theorem unpackMF_pack (o : MF) : unpackMF o.guard (packMF o) = o := by
  cases o
  simp only [unpackMF, packMF]
  congr 1
  · exact (extract_high _ _ 33 4).trans ((extract_high _ _ 28 4).trans ((extract_high _ _ 24 4).trans ((extract_high _ _ 16 4).trans ((extract_high _ _ 12 4).trans ((extract_high _ _ 8 4).trans ((extract_high _ _ 4 4).trans ((extract_high _ _ 0 4).trans (extract_all _))))))))
  · exact (extract_high _ _ 29 4).trans ((extract_high _ _ 24 4).trans ((extract_high _ _ 20 4).trans ((extract_high _ _ 12 4).trans ((extract_high _ _ 8 4).trans ((extract_high _ _ 4 4).trans ((extract_high _ _ 0 4).trans (extract_low _ _)))))))
  · exact (extract_high _ _ 25 4).trans ((extract_high _ _ 20 4).trans ((extract_high _ _ 16 4).trans ((extract_high _ _ 8 4).trans ((extract_high _ _ 4 4).trans ((extract_high _ _ 0 4).trans (extract_low _ _))))))
  · exact (extract_high _ _ 21 4).trans ((extract_high _ _ 16 4).trans ((extract_high _ _ 12 4).trans ((extract_high _ _ 4 4).trans ((extract_high _ _ 0 4).trans (extract_low _ _)))))
  · exact (extract_high _ _ 17 4).trans ((extract_high _ _ 12 4).trans ((extract_high _ _ 8 4).trans ((extract_high _ _ 0 4).trans (extract_low _ _))))
  · exact (extract_high _ _ 9 8).trans ((extract_high _ _ 4 8).trans ((extract_high _ _ 0 8).trans (extract_low _ _)))
  · exact (extract_high _ _ 5 4).trans ((extract_high _ _ 0 4).trans (extract_low _ _))
  · exact (extract_high _ _ 0 5).trans (extract_low _ _)

/-- Unpacking the operand field that packs the fields of LS gives them back. -/
theorem unpackLS_pack (o : LS) : unpackLS o.guard (packLS o) = o := by
  cases o
  simp only [unpackLS, packLS]
  congr 1
  · exact (extract_high _ _ 41 5).trans ((extract_high _ _ 40 5).trans ((extract_high _ _ 36 5).trans ((extract_high _ _ 30 5).trans ((extract_high _ _ 29 5).trans ((extract_high _ _ 27 5).trans ((extract_high _ _ 25 5).trans ((extract_high _ _ 22 5).trans ((extract_high _ _ 6 5).trans ((extract_high _ _ 0 5).trans (extract_all _))))))))))
  · exact (extract_high _ _ 35 6).trans ((extract_high _ _ 34 6).trans ((extract_high _ _ 30 6).trans ((extract_high _ _ 24 6).trans ((extract_high _ _ 23 6).trans ((extract_high _ _ 21 6).trans ((extract_high _ _ 19 6).trans ((extract_high _ _ 16 6).trans ((extract_high _ _ 0 6).trans (extract_low _ _)))))))))
  · exact (extract_high _ _ 19 16).trans ((extract_high _ _ 18 16).trans ((extract_high _ _ 14 16).trans ((extract_high _ _ 8 16).trans ((extract_high _ _ 7 16).trans ((extract_high _ _ 5 16).trans ((extract_high _ _ 3 16).trans ((extract_high _ _ 0 16).trans (extract_low _ _))))))))
  · exact (extract_high _ _ 16 3).trans ((extract_high _ _ 15 3).trans ((extract_high _ _ 11 3).trans ((extract_high _ _ 5 3).trans ((extract_high _ _ 4 3).trans ((extract_high _ _ 2 3).trans ((extract_high _ _ 0 3).trans (extract_low _ _)))))))
  · exact (extract_high _ _ 14 2).trans ((extract_high _ _ 13 2).trans ((extract_high _ _ 9 2).trans ((extract_high _ _ 3 2).trans ((extract_high _ _ 2 2).trans ((extract_high _ _ 0 2).trans (extract_low _ _))))))
  · exact (extract_high _ _ 12 2).trans ((extract_high _ _ 11 2).trans ((extract_high _ _ 7 2).trans ((extract_high _ _ 1 2).trans ((extract_high _ _ 0 2).trans (extract_low _ _)))))
  · exact (extract_high _ _ 11 1).trans ((extract_high _ _ 10 1).trans ((extract_high _ _ 6 1).trans ((extract_high _ _ 0 1).trans (extract_low _ _))))
  · exact (extract_high _ _ 5 6).trans ((extract_high _ _ 4 6).trans ((extract_high _ _ 0 6).trans (extract_low _ _)))
  · exact (extract_high _ _ 1 4).trans ((extract_high _ _ 0 4).trans (extract_low _ _))
  · exact (bit_high _ _ 0).trans ((bit_low _ _ 0 (by decide)).trans (bit_ofBool _))

/-- Unpacking the operand field that packs the fields of EF gives them back. -/
theorem unpackEF_pack (o : EF) : unpackEF o.guard (packEF o) = o := by
  cases o
  simp only [unpackEF, packEF]
  congr 1
  · exact (extract_high _ _ 38 4).trans ((extract_high _ _ 32 4).trans ((extract_high _ _ 31 4).trans ((extract_high _ _ 27 4).trans ((extract_high _ _ 23 4).trans ((extract_high _ _ 20 4).trans ((extract_high _ _ 16 4).trans ((extract_high _ _ 12 4).trans ((extract_high _ _ 6 4).trans ((extract_high _ _ 0 4).trans (extract_all _))))))))))
  · exact (extract_high _ _ 32 6).trans ((extract_high _ _ 26 6).trans ((extract_high _ _ 25 6).trans ((extract_high _ _ 21 6).trans ((extract_high _ _ 17 6).trans ((extract_high _ _ 14 6).trans ((extract_high _ _ 10 6).trans ((extract_high _ _ 6 6).trans ((extract_high _ _ 0 6).trans (extract_low _ _)))))))))
  · exact (extract_high _ _ 26 6).trans ((extract_high _ _ 20 6).trans ((extract_high _ _ 19 6).trans ((extract_high _ _ 15 6).trans ((extract_high _ _ 11 6).trans ((extract_high _ _ 8 6).trans ((extract_high _ _ 4 6).trans ((extract_high _ _ 0 6).trans (extract_low _ _))))))))
  · exact (extract_high _ _ 22 4).trans ((extract_high _ _ 16 4).trans ((extract_high _ _ 15 4).trans ((extract_high _ _ 11 4).trans ((extract_high _ _ 7 4).trans ((extract_high _ _ 4 4).trans ((extract_high _ _ 0 4).trans (extract_low _ _)))))))
  · exact (extract_high _ _ 18 4).trans ((extract_high _ _ 12 4).trans ((extract_high _ _ 11 4).trans ((extract_high _ _ 7 4).trans ((extract_high _ _ 3 4).trans ((extract_high _ _ 0 4).trans (extract_low _ _))))))
  · exact (extract_high _ _ 15 3).trans ((extract_high _ _ 9 3).trans ((extract_high _ _ 8 3).trans ((extract_high _ _ 4 3).trans ((extract_high _ _ 0 3).trans (extract_low _ _)))))
  · exact (extract_high _ _ 11 4).trans ((extract_high _ _ 5 4).trans ((extract_high _ _ 4 4).trans ((extract_high _ _ 0 4).trans (extract_low _ _))))
  · exact (extract_high _ _ 7 4).trans ((extract_high _ _ 1 4).trans ((extract_high _ _ 0 4).trans (extract_low _ _)))
  · exact (bit_high _ _ 6).trans ((bit_high _ _ 0).trans ((bit_low _ _ 0 (by decide)).trans (bit_ofBool _)))
  · exact (extract_high _ _ 0 6).trans (extract_low _ _)
  · exact (extract_low _ _)

/-- A well-formed term whose tag and opcode name it decodes from its own syllable. -/
theorem decodeSyll_of_raw (b : Bool) (i : Instr) (hop : Nat.blt (opc i).toNat 0xF0 = true)
    (hraw : ofOpcode ((tag i).getD 0) (opc i) (guardOf i) (field i) = some i) (h : WellFormed i = true) :
    decodeSyll (encodeWith b i) = .ok i := by
  simp only [WellFormed, Bool.and_eq_true, List.isEmpty_iff, reservedClear, beq_iff_eq] at h
  obtain ⟨⟨⟨-, hg⟩, hr⟩, hl⟩ := h
  rw [decodeSyll, if_neg (by rw [opcOf_encodeWith]; exact Nat.not_le.2 (Nat.blt_eq ▸ hop)), rawOf, tagOf_encodeWith, opcOf_encodeWith, guardBits_encodeWith,
    fieldBits_encodeWith, hraw]
  simp [hg, hr, hl]

/-- A well-formed term has no field outside its limits. -/
theorem limits_nil {i : Instr} (h : WellFormed i = true) : limits i = [] := by
  simp only [WellFormed, Bool.and_eq_true, List.isEmpty_iff] at h
  exact h.2

/-- SUB is the one value listed. -/
theorem sub_of_inSub {s v : Nat} (h : inSub s [v] = []) : s = v := by
  by_contra hs
  simp [inSub, hs] at h

/-- RF has the value that the instruction takes. -/
theorem rf_of_rf {o : LS} {b : Bool} (h : rf o b = []) : o.rf = b := by
  by_contra hs
  simp [rf, lim, hs] at h

end Sys2Proof.Laws
end

