-- ==== Sys2Proof/Laws/Tab.lean ====
section
/-! SUPPORT. Sparse tables and memories: what a read after a write gives, and that every operation keeps the canonical form. -/

namespace Sys2Proof.Laws

open Sys2Proof Sys2Proof.Machine

variable {α : Type}

/-! ## Canonical form -/

section
variable [DecidableEq α] {d : α}

/-- Every key of a table lies above a bound. -/
def Above (b : Option Nat) (k : Nat) : Prop := ∀ x, b = some x → x < k

theorem twfFrom_cons {b : Option Nat} {j : Nat} {w : α} {t : Tab α} :
    twfFrom d b ((j, w) :: t) = true ↔ Above b j ∧ w ≠ d ∧ twfFrom d (some j) t = true := by
  cases b <;> simp [twfFrom, Above, and_assoc]

theorem above_trans {b : Option Nat} {j k : Nat} (h : Above b j) (hk : j < k) : Above b k := fun x hx => (h x hx).trans hk

/-- A lower bound may be weakened to that of the canonical form of a longer table. -/
theorem twfFrom_weaken {b : Option Nat} {j : Nat} {t : Tab α} (hb : Above b j) (h : twfFrom d (some j) t = true) :
    twfFrom d b t = true := by
  cases t with
  | nil => rfl
  | cons p t =>
    obtain ⟨k, w⟩ := p
    rw [twfFrom_cons] at h ⊢
    exact ⟨above_trans hb (h.1 j rfl), h.2⟩

/-- Below the bound of a table every key reads as the default. -/
theorem tget_of_le {j k : Nat} {t : Tab α} (h : twfFrom d (some j) t = true) (hk : k ≤ j) : tget d t k = d := by
  cases t with
  | nil => rfl
  | cons p t =>
    obtain ⟨i, w⟩ := p
    rw [twfFrom_cons] at h
    simp [tget, Nat.lt_of_le_of_lt hk (h.1 j rfl)]

/-- A write keeps the canonical form. -/
theorem twfFrom_tset {k : Nat} {v : α} : ∀ {t : Tab α} {b : Option Nat}, twfFrom d b t = true → Above b k → twfFrom d b (tset d t k v) = true
  | [], b, _, hk => by
    unfold tset
    split
    · rfl
    · next h => exact twfFrom_cons.2 ⟨hk, h, rfl⟩
  | (j, w) :: t, b, h, hk => by
    have h' := twfFrom_cons.1 h
    unfold tset
    split
    · next hkj =>
      split
      · exact h
      · next hv => exact twfFrom_cons.2 ⟨hk, hv, twfFrom_cons.2 ⟨fun x hx => by cases hx; exact hkj, h'.2⟩⟩
    · next hkj =>
      split
      · next e =>
        subst e
        split
        · exact twfFrom_weaken h'.1 h'.2.2
        · next hv => exact twfFrom_cons.2 ⟨h'.1, hv, h'.2.2⟩
      · next e => exact twfFrom_cons.2 ⟨h'.1, h'.2.1, twfFrom_tset h'.2.2 fun x hx => by cases hx; omega⟩

/-- A write keeps the canonical form of a table. -/
theorem twf_tset {t : Tab α} (k : Nat) (v : α) (h : twf d t = true) : twf d (tset d t k v) = true :=
  twfFrom_tset h fun _ hx => nomatch hx

/-- A read after a write of the same key. -/
theorem tget_tset_same {k : Nat} {v : α} : ∀ {t : Tab α} {b : Option Nat}, twfFrom d b t = true → tget d (tset d t k v) k = v
  | [], _, _ => by
    unfold tset
    split
    · next h => exact h.symm
    · simp [tget]
  | (j, w) :: t, _, h => by
    have h' := twfFrom_cons.1 h
    unfold tset
    split
    · next hkj =>
      split
      · next hv => simp [tget, hkj, hv]
      · simp [tget]
    · next hkj =>
      split
      · next e =>
        subst e
        split
        · next hv => rw [hv]; exact tget_of_le h'.2.2 (Nat.le_refl _)
        · simp [tget]
      · next e =>
        rw [tget, if_neg hkj, if_neg e]
        exact tget_tset_same h'.2.2

/-- A read after a write of another key. -/
theorem tget_tset_other {k i : Nat} {v : α} (hi : i ≠ k) : ∀ {t : Tab α} {b : Option Nat}, twfFrom d b t = true → tget d (tset d t k v) i = tget d t i
  | [], _, _ => by
    unfold tset
    split
    · rfl
    · simp [tget, hi]
  | (j, w) :: t, _, h => by
    have h' := twfFrom_cons.1 h
    unfold tset
    split
    · next hkj =>
      split
      · rfl
      · rcases Nat.lt_trichotomy i k with h1 | h1 | h1
        · simp [tget, h1, Nat.lt_trans h1 hkj]
        · exact absurd h1 hi
        · rw [tget, if_neg (by omega), if_neg hi]
    · next hkj =>
      split
      · next e =>
        subst e
        split
        · rcases Nat.lt_trichotomy i k with h1 | h1 | h1
          · rw [tget_of_le h'.2.2 (Nat.le_of_lt h1), tget, if_pos h1]
          · exact absurd h1 hi
          · rw [tget, if_neg (by omega), if_neg hi]
        · simp [tget, hi]
      · next e => simp only [tget, tget_tset_other hi h'.2.2]

/-- Dropping keys keeps the canonical form. -/
theorem twfFrom_filter (p : Nat × α → Bool) : ∀ {t : Tab α} {b : Option Nat}, twfFrom d b t = true → twfFrom d b (t.filter p) = true
  | [], _, _ => rfl
  | (j, w) :: t, b, h => by
    have h' := twfFrom_cons.1 h
    rw [List.filter_cons]
    split
    · exact twfFrom_cons.2 ⟨h'.1, h'.2.1, twfFrom_filter p h'.2.2⟩
    · exact twfFrom_weaken h'.1 (twfFrom_filter p h'.2.2)

/-- Clearing a range of keys keeps the canonical form. -/
theorem twf_tclear {t : Tab α} (a b : Nat) (h : twf d t = true) : twf d (tclear t a b) = true := twfFrom_filter _ h

/-- Writes in order keep the canonical form. -/
theorem twf_tsetMany (l : List (Nat × α)) : ∀ {t : Tab α}, twf d t = true → twf d (tsetMany d t l) = true := by
  induction l with
  | nil => exact fun h => h
  | cons p l ih => exact fun h => ih (twf_tset _ _ h)

/-- A read outside a cleared range. -/
theorem tget_tclear_outside {a b i : Nat} (hi : i < a ∨ b ≤ i) : ∀ {t : Tab α} {c : Option Nat}, twfFrom d c t = true → tget d (tclear t a b) i = tget d t i
  | [], _, _ => rfl
  | (j, w) :: t, c, h => by
    have h' := twfFrom_cons.1 h
    have ih := tget_tclear_outside hi h'.2.2
    unfold tclear at ih ⊢
    rw [List.filter_cons]
    split
    · simp only [tget, ih]
    · next hj =>
      simp only [Bool.or_eq_true, decide_eq_true_eq, not_or] at hj
      rw [ih, tget]
      split
      · next hij => exact tget_of_le h'.2.2 (Nat.le_of_lt hij)
      · split
        · next hij => omega
        · rfl

/-- A read inside a cleared range. -/
theorem tget_tclear_inside {a b i : Nat} (hi : a ≤ i ∧ i < b) : ∀ {t : Tab α} {c : Option Nat}, twfFrom d c t = true → tget d (tclear t a b) i = d
  | [], _, _ => rfl
  | (j, w) :: t, c, h => by
    have h' := twfFrom_cons.1 h
    have ih := tget_tclear_inside hi h'.2.2
    unfold tclear at ih ⊢
    rw [List.filter_cons]
    split
    · next hj =>
      simp only [Bool.or_eq_true, decide_eq_true_eq] at hj
      rw [tget, ih, if_neg (show i ≠ j by omega)]
      split <;> rfl
    · exact ih

end

/-! ## Tables that keep every entry -/

/-- A read after a put of the same key. -/
theorem tget_tput_same (d : α) (k : Nat) (v : α) : ∀ t : Tab α, tget d (tput t k v) k = v
  | [] => by simp [tput, tget]
  | (j, w) :: t => by
    unfold tput
    split
    · simp [tget]
    · next h =>
      split
      · simp [tget]
      · next e => simp only [tget, if_neg h, if_neg e]; exact tget_tput_same d k v t

/-- A read after a put of another key. -/
theorem tget_tput_other (d : α) (k i : Nat) (v : α) (hi : i ≠ k) : ∀ t : Tab α, tget d (tput t k v) i = tget d t i
  | [] => by simp [tput, tget, hi]
  | (j, w) :: t => by
    unfold tput
    split
    · next h =>
      rcases Nat.lt_trichotomy i k with h1 | h1 | h1
      · simp [tget, h1, Nat.lt_trans h1 h]
      · exact absurd h1 hi
      · rw [tget, if_neg (by omega), if_neg hi]
    · next h =>
      split
      · next e => subst e; simp [tget, hi]
      · simp only [tget, tget_tput_other d k i v hi t]

/-- What holds of every entry holds after a put of a value of which it holds. -/
theorem all_tput (p : Nat × α → Bool) {k : Nat} {v : α} (hv : p (k, v) = true) : ∀ {t : Tab α}, t.all p = true → (tput t k v).all p = true
  | [], _ => by simp [tput, hv]
  | (j, w) :: t, h => by
    simp only [List.all_cons, Bool.and_eq_true] at h
    unfold tput
    split
    · simp [hv, h.1, h.2]
    · split
      · next e => subst e; simp [hv, h.2]
      · simp [h.1, all_tput p hv h.2]

/-- What holds of the default and of every entry holds of each read. -/
theorem tget_of_all (p : Nat × α → Bool) {d : α} {k : Nat} (hd : p (k, d) = true) : ∀ {t : Tab α}, t.all p = true → p (k, tget d t k) = true
  | [], _ => hd
  | (j, w) :: t, h => by
    simp only [List.all_cons, Bool.and_eq_true] at h
    unfold tget
    split
    · exact hd
    · split
      · next e => subst e; exact h.1
      · exact tget_of_all p hd h.2

/-! ## Memories -/

/-- Storing a byte keeps the canonical form. -/
theorem wf_setByte {m : Memory} (a : Nat) (b : Byte) (h : m.wf = true) : (m.setByte a b).wf = true := twf_tset a b h

/-- The byte stored reads back. -/
theorem byte_setByte_same {m : Memory} (a : Nat) (b : Byte) (h : m.wf = true) : (m.setByte a b).byte a = b := tget_tset_same h

/-- Every other byte stays. -/
theorem byte_setByte_other {m : Memory} {a i : Nat} (b : Byte) (hi : i ≠ a) (h : m.wf = true) : (m.setByte a b).byte i = m.byte i :=
  tget_tset_other hi h

/-- Storing the bytes of a number keeps the canonical form. -/
theorem wf_writeN : ∀ (n : Nat) {m : Memory} (a v : Nat), m.wf = true → (m.writeN a v n).wf = true
  | 0, _, _, _, h => h
  | n + 1, _, _, _, h => wf_writeN n _ _ (wf_setByte _ _ h)

/-- Bytes outside a number stored stay. -/
theorem byte_writeN_outside : ∀ (n : Nat) {m : Memory} (a v i : Nat), m.wf = true → (i < a ∨ a + n ≤ i) → (m.writeN a v n).byte i = m.byte i
  | 0, _, _, _, _, _, _ => rfl
  | n + 1, m, a, v, i, h, hi =>
    (byte_writeN_outside n (a + 1) (v / 256) i (wf_setByte _ _ h) (by omega)).trans (byte_setByte_other _ (by omega) h)

/-- Storing cells keeps the canonical form. -/
theorem wf_store (l : List Host.Cell) : ∀ {m : Memory}, m.wf = true → (m.store l).wf = true := by
  induction l with
  | nil => exact fun h => h
  | cons p l ih => exact fun h => ih (wf_setByte _ _ h)

/-- A byte that no cell names stays. -/
theorem byte_store_outside (l : List Host.Cell) : ∀ {m : Memory} {i : Nat}, m.wf = true → (∀ p ∈ l, p.1 ≠ i) → (m.store l).byte i = m.byte i := by
  induction l with
  | nil => exact fun _ _ => rfl
  | cons p l ih =>
    intro m i h hi
    exact (ih (wf_setByte _ _ h) fun q hq => hi q (List.mem_cons_of_mem _ hq)).trans
      (byte_setByte_other _ (Ne.symm (hi p (List.mem_cons_self ..))) h)

/-- Zeroing a range keeps the canonical form. -/
theorem wf_zero {m : Memory} (a n : Nat) (h : m.wf = true) : (m.zero a n).wf = true := twf_tclear _ _ h

/-- A byte of a zeroed range. -/
theorem byte_zero_inside {m : Memory} {a n i : Nat} (hi : a ≤ i ∧ i < a + n) (h : m.wf = true) : (m.zero a n).byte i = 0 :=
  tget_tclear_inside hi h

/-- A byte outside a zeroed range. -/
theorem byte_zero_outside {m : Memory} {a n i : Nat} (hi : i < a ∨ a + n ≤ i) (h : m.wf = true) : (m.zero a n).byte i = m.byte i :=
  tget_tclear_outside hi h

end Sys2Proof.Laws
end

