-- ==== Sys2Proof/Laws/Ops.lean ====
section
/-! SUPPORT. What each shared operation can do, said once: issuing an operation of a slot, taking a fault and returning from it, waits, changes of a core or context, and the order of causes. -/

namespace Sys2Proof.Laws

open Sys2Proof Sys2Proof.Machine

/-! ## The order of causes (R339) -/

/-- A list of causes has a first one unless it is empty. -/
theorem bestCause_eq_none {l : List Cause} : bestCause l = none ↔ l = [] := by
  cases l with
  | nil => exact ⟨fun _ => rfl, fun _ => rfl⟩
  | cons c t =>
    refine ⟨fun h => ?_, nofun⟩
    unfold bestCause at h
    split at h
    · nomatch h
    · split at h <;> nomatch h

/-- The first cause is one of those listed. -/
theorem bestCause_mem {l : List Cause} {c : Cause} (h : bestCause l = some c) : c ∈ l := by
  induction l generalizing c with
  | nil => nomatch h
  | cons d t ih =>
    unfold bestCause at h
    split at h
    · cases h; exact List.mem_cons_self ..
    · next e he =>
      split at h <;> cases h
      · exact List.mem_cons_of_mem _ (ih he)
      · exact List.mem_cons_self ..

/-- A check that holds gives no cause. -/
@[simp] theorem chk_true (cls code : Nat) (addr : BitVec 64) (info : Nat) : chk true cls code addr info = [] := rfl

/-- A check gives no cause exactly where it holds. -/
theorem chk_eq_nil {ok : Bool} {cls code : Nat} {addr : BitVec 64} {info : Nat} : chk ok cls code addr info = [] ↔ ok = true := by
  cases ok <;> simp [chk]

/-- A wait whose condition holds is none. -/
@[simp] theorem await_true (b : Block) : await true b = [] := rfl

/-- No result that collides: nothing to fault. -/
theorem clashes_eq_nil {c : Context} {fs : List Flight} : clashes c fs = [] ↔ collision c.flights fs = none := by
  unfold clashes; cases collision c.flights fs <;> simp

/-- With nothing in flight no result collides. -/
theorem collision_nil (fs : List Flight) : collision [] fs = none := by
  simp [collision]

/-- No result: nothing collides. -/
theorem collision_none (old : List Flight) : collision old [] = none := rfl

/-! ## Issuing an operation (R105, R162, R325, R339) -/

/-- A guard that does not hold: the operation has no effect (R162). -/
theorem issueOp_off (slot : Nat) (waits : List Block) (causes : List Cause) (effect : State → State) (s : State) :
    issueOp slot false waits causes effect s = .next s := rfl

/-- Nothing to wait for and no cause: the operation has its effect. -/
theorem issueOp_runs (slot : Nat) (effect : State → State) (s : State) : issueOp slot true [] [] effect s = .next (effect s) := rfl

/-- The operation always answers a next state: unchanged, waiting, faulted, or with its effect. -/
theorem issueOp_cases {slot : Nat} {guard : Bool} {waits : List Block} {causes : List Cause} {effect : State → State} {s t : State}
    (h : issueOp slot guard waits causes effect s = .next t) :
    (guard = false ∧ t = s) ∨ (guard = true ∧ ∃ b l, waits = b :: l ∧ t = blockOn b s)
      ∨ (guard = true ∧ waits = [] ∧ ∃ c ∈ causes, t = takeFault { c with slots := 1 <<< slot } s)
      ∨ (guard = true ∧ waits = [] ∧ causes = [] ∧ t = effect s) := by
  unfold issueOp at h
  split at h
  · next hg =>
    split at h
    · next b l => cases h; exact .inr (.inl ⟨hg, b, l, rfl, rfl⟩)
    · split at h
      · next c hc => cases h; exact .inr (.inr (.inl ⟨hg, rfl, c, bestCause_mem hc, rfl⟩))
      · next hc => cases h; exact .inr (.inr (.inr ⟨hg, rfl, bestCause_eq_none.1 hc, rfl⟩))
  · next hg => cases h; exact .inl ⟨by simpa using hg, rfl⟩

/-- The operation answers a next state. -/
theorem issueOp_next (slot : Nat) (guard : Bool) (waits : List Block) (causes : List Cause) (effect : State → State) (s : State) :
    ∃ t, issueOp slot guard waits causes effect s = .next t := by
  unfold issueOp
  split
  · split
    · exact ⟨_, rfl⟩
    · split <;> exact ⟨_, rfl⟩
  · exact ⟨_, rfl⟩

/-- An operation of the context alone that has its effect. -/
theorem issueCtx_runs (slot : Nat) (effect : Context → Context) (s : State) :
    issueCtx slot true [] [] effect s = .next { s with ctx := effect s.ctx } := rfl

/-- Results that do not collide are put in flight. -/
theorem issueFlights_runs {slot : Nat} {guard : Bool} {causes : List Cause} {fs : List Flight} {s : State} (hg : guard = true)
    (hc : causes = []) (h : collision s.ctx.flights fs = none) :
    issueFlights slot guard causes fs s = .next { s with ctx := s.ctx.fly fs } := by
  subst hg hc
  simp [issueFlights, clashes_eq_nil.2 h, issueCtx_runs]

/-- An operation that only puts results in flight leaves the state, faults it, or adds those results. -/
theorem issueFlights_cases {slot : Nat} {guard : Bool} {causes : List Cause} {fs : List Flight} {s t : State}
    (h : issueFlights slot guard causes fs s = .next t) :
    (guard = false ∧ t = s) ∨ (guard = true ∧ ∃ c ∈ causes ++ clashes s.ctx fs, t = takeFault { c with slots := 1 <<< slot } s)
      ∨ (guard = true ∧ causes = [] ∧ collision s.ctx.flights fs = none ∧ t = { s with ctx := s.ctx.fly fs }) := by
  have h' : issueOp slot guard [] (causes ++ clashes s.ctx fs) (fun s => { s with ctx := s.ctx.fly fs }) s = .next t := h
  rcases issueOp_cases h' with h | ⟨-, b, l, h, -⟩ | ⟨hg, -, c, hc, rfl⟩ | ⟨hg, -, hc, rfl⟩
  · exact .inl h
  · nomatch h
  · exact .inr (.inl ⟨hg, c, hc, rfl⟩)
  · rw [List.append_eq_nil_iff] at hc
    exact .inr (.inr ⟨hg, hc.1, clashes_eq_nil.1 hc.2, rfl⟩)

/-- An operation of the context and its core that has its effect. -/
theorem issueLocal_runs (slot : Nat) (effect : Context × Core → Context × Core) (s : State) :
    issueLocal slot true [] [] effect s = .next { s with ctx := (effect (s.ctx, s.core)).1, core := (effect (s.ctx, s.core)).2 } := rfl

/-- A step named for a context that exists. -/
theorem atCtx_of {c k : Nat} (h : isCore c = true) (hk : k < 4) (f : State → Result) (s : State) : atCtx c k f s = f s := by
  simp [atCtx, h, hk]

/-- A step named for a core that exists. -/
theorem atCore_of {c : Nat} (h : isCore c = true) (f : State → Result) (s : State) : atCore c f s = f s := by
  simp [atCore, h]

/-! ## Stores to device memory (R371) -/

/-- What is not device memory or the hub. -/
structure SameBut (s t : State) : Prop where
  coreId : t.coreId = s.coreId
  ctxId : t.ctxId = s.ctxId
  ctx : t.ctx = s.ctx
  core : t.core = s.core
  cores : t.cores = s.cores
  cycle : t.cycle = s.cycle
  phase : t.phase = s.phase
  tick : t.tick = s.tick
  agenda : t.agenda = s.agenda
  fresh : t.fresh = s.fresh

theorem SameBut.refl (s : State) : SameBut s s := ⟨rfl, rfl, rfl, rfl, rfl, rfl, rfl, rfl, rfl, rfl⟩

theorem SameBut.trans {s t u : State} (h : SameBut s t) (k : SameBut t u) : SameBut s u :=
  ⟨k.1.trans h.1, k.2.trans h.2, k.3.trans h.3, k.4.trans h.4, k.5.trans h.5, k.6.trans h.6, k.7.trans h.7, k.8.trans h.8,
    k.9.trans h.9, k.10.trans h.10⟩

theorem sameBut_devByteWrite (s : State) (a : Nat) (b : Byte) : SameBut s (devByteWrite s a b) := by
  unfold devByteWrite scrubFirst
  split
  · exact SameBut.refl s
  · dsimp only
    split <;> exact ⟨rfl, rfl, rfl, rfl, rfl, rfl, rfl, rfl, rfl, rfl⟩

theorem sameBut_devStore (l : List (Nat × Byte)) : ∀ s : State, SameBut s (devStore s l) := by
  induction l with
  | nil => exact SameBut.refl
  | cons p l ih => exact fun s => (sameBut_devByteWrite s p.1 p.2).trans (ih _)

theorem sameBut_clearWhole (a n : Nat) (s : State) : SameBut s (clearWhole a n s) := by
  unfold clearWhole
  split
  · exact ⟨rfl, rfl, rfl, rfl, rfl, rfl, rfl, rfl, rfl, rfl⟩
  · exact SameBut.refl s

/-- Storing bytes at physical addresses changes device memory and the marks of its lines alone. -/
theorem sameBut_devWrite (s : State) (a : Nat) (bs : List Byte) : SameBut s (devWrite s a bs) :=
  (sameBut_clearWhole a bs.length s).trans (sameBut_devStore _ _)

theorem wf_devByteWrite {s : State} (a : Nat) (b : Byte) (h : s.mem.wf = true) : (devByteWrite s a b).mem.wf = true := by
  unfold devByteWrite scrubFirst
  split
  · exact h
  · dsimp only
    split
    · exact wf_setByte _ _ (wf_zero _ _ h)
    · exact wf_setByte _ _ h

/-- Clearing the errors of lines leaves every byte. -/
theorem clearWhole_mem (a n : Nat) (s : State) : (clearWhole a n s).mem = s.mem ∧ (clearWhole a n s).hub.scrubLines = s.hub.scrubLines := by
  unfold clearWhole
  split <;> exact ⟨rfl, rfl⟩

/-- Storing cells at physical addresses keeps the canonical form. -/
theorem wf_devStore (l : List (Nat × Byte)) : ∀ {s : State}, s.mem.wf = true → (devStore s l).mem.wf = true := by
  induction l with
  | nil => exact fun h => h
  | cons p l ih => exact fun h => ih (wf_devByteWrite _ _ h)

/-- Storing bytes at physical addresses keeps the canonical form. -/
theorem wf_devWrite {s : State} (a : Nat) (bs : List Byte) (h : s.mem.wf = true) : (devWrite s a bs).mem.wf = true :=
  wf_devStore _ (by rw [(clearWhole_mem a bs.length s).1]; exact h)

/-- A byte set in a line that scrubs first reads back, and every other byte reads as before, those of a line pending scrub as zero (R371). -/
theorem devByte_scrubFirst {s : State} (a i : Nat) (b : Byte) (h : s.mem.wf = true) :
    devByte { scrubFirst (a / 64) s with mem := Memory.setByte (scrubFirst (a / 64) s).mem a b } i = if i = a then b else devByte s i := by
  unfold devByte scrubFirst
  by_cases hl : (a / 64) ∈ s.hub.scrubLines
  · simp only [if_pos hl, List.mem_filter]
    by_cases hi : i = a
    · subst hi
      simp [hl, byte_setByte_same _ _ (wf_zero _ _ h)]
    · simp only [if_neg hi, byte_setByte_other _ hi (wf_zero _ _ h)]
      by_cases hla : i / 64 = a / 64
      · rw [if_neg (by simp [hla]), if_pos (by rw [hla]; exact hl)]
        exact byte_zero_inside (by omega) h
      · by_cases hm : (i / 64) ∈ s.hub.scrubLines
        · simp [hm, hla]
        · simp [hm]
          exact byte_zero_outside (by omega) h
  · simp only [if_neg hl]
    by_cases hi : i = a
    · subst hi
      simp [hl, byte_setByte_same _ _ h]
    · simp only [if_neg hi, byte_setByte_other _ hi h]

/-- A byte stored reads back where the device keeps it. -/
theorem devByte_devByteWrite_same {s : State} (a : Nat) (b : Byte) (h : s.mem.wf = true) (hk : keepsByte s a = true) :
    devByte (devByteWrite s a b) a = b := by
  simp only [keepsByte, Bool.and_eq_true, bne_iff_ne, ne_eq, Bool.not_eq_true', Bool.and_eq_false_imp, beq_iff_eq] at hk
  unfold devByteWrite
  rw [if_neg hk.1]
  dsimp only
  rw [devByte_scrubFirst _ _ _ h, if_pos rfl, if_neg fun x => by simp [hk.2 x.1] at x]

/-- Every other byte reads as before. -/
theorem devByte_devByteWrite_other {s : State} {a i : Nat} (b : Byte) (h : s.mem.wf = true) (hi : i ≠ a) :
    devByte (devByteWrite s a b) i = devByte s i := by
  unfold devByteWrite
  split
  · rfl
  · dsimp only
    rw [devByte_scrubFirst _ _ _ h, if_neg hi]

/-- A byte that no cell stores reads as before. -/
theorem devByte_devStore_other (l : List (Nat × Byte)) (i : Nat) : ∀ {s : State}, s.mem.wf = true → (∀ p ∈ l, p.1 ≠ i) →
    devByte (devStore s l) i = devByte s i := by
  induction l with
  | nil => exact fun _ _ => rfl
  | cons p l ih =>
    intro s h hi
    refine (ih (wf_devByteWrite _ _ h) fun q hq => hi q (List.mem_cons_of_mem _ hq)).trans ?_
    exact devByte_devByteWrite_other _ h (Ne.symm (hi p (List.mem_cons_self ..)))

/-! ## Taking a fault and returning from it (R325, R326, R328) -/

theorem sameBut_toSupervisor (die r : Nat) (s : State) : SameBut s (toSupervisor die r s) := ⟨rfl, rfl, rfl, rfl, rfl, rfl, rfl, rfl, rfl, rfl⟩

theorem sameBut_writeThrough (s : State) (f va r src die what : Nat) : SameBut s (writeThrough s f va r src die what) := by
  unfold writeThrough
  split
  · split
    · exact sameBut_devWrite _ _ _
    · exact sameBut_toSupervisor _ _ _
  · exact sameBut_toSupervisor _ _ _

theorem sameBut_dropStandIn (die : Nat) (test : Nat → Bool) (s : State) : SameBut s (dropStandIn die test s) := by
  unfold dropStandIn
  dsimp only
  split
  · exact ⟨rfl, rfl, rfl, rfl, rfl, rfl, rfl, rfl, rfl, rfl⟩
  · exact SameBut.refl s

/-- The record that stands for a lost one lies outside device memory. -/
theorem mem_dropStandIn (die : Nat) (test : Nat → Bool) (s : State) : (dropStandIn die test s).mem = s.mem := by
  unfold dropStandIn
  dsimp only
  split <;> rfl

theorem sameBut_fqMove (f n : Nat) (p : Nat × Bool) (s : State) : SameBut s (fqMove f n p s).1 := by
  unfold fqMove
  dsimp only
  split
  · exact sameBut_writeThrough ..
  · split
    · exact (sameBut_dropStandIn ..).trans (sameBut_writeThrough ..)
    · exact ⟨rfl, rfl, rfl, rfl, rfl, rfl, rfl, rfl, rfl, rfl⟩

theorem sameBut_fqMoveDown (f : Nat) (l : List (Nat × Bool)) : ∀ (n : Nat) (s : State), SameBut s (fqMoveDown f n l s).1 := by
  induction l with
  | nil => exact fun _ s => SameBut.refl s
  | cons p l ih => exact fun n s => (sameBut_fqMove ..).trans (ih (n - 1) _)

theorem sameBut_fqPut (f n r : Nat) (s : State) : SameBut s (fqPut f n r s).1 := by
  unfold fqPut
  dsimp only
  split
  · exact (sameBut_fqMoveDown ..).trans (sameBut_fqMove ..)
  · exact sameBut_fqMoveDown ..

theorem sameBut_toFunction (f r : Nat) (s : State) : SameBut s (toFunction f r s) :=
  (sameBut_fqPut f _ r s).trans ⟨rfl, rfl, rfl, rfl, rfl, rfl, rfl, rfl, rfl, rfl⟩

/-- A report changes device memory and the hub alone. -/
theorem sameBut_report (src f die : Nat) (pc : BitVec 64) (c : Cause) (s : State) : SameBut s (report src f die pc c s) :=
  (sameBut_toFunction f _ s).trans (sameBut_toSupervisor die _ _)

/-- Taking a fault: the running context freezes with the cause and waits for nothing; no other register of the package changes. -/
theorem takeFault_ctx (c : Cause) (s : State) : (takeFault c s).ctx = { s.ctx with frozen := some c, block := none } := by
  have h := (sameBut_report (srcCtx s.coreId s.ctxId) s.ctx.func.toNat (dieOf s.coreId) s.ctx.pc c s).ctx
  simp only [takeFault, h]

/-- Taking a fault leaves everything but the running context, the hub and device memory. -/
theorem takeFault_same (c : Cause) (s : State) : SameBut { s with ctx := (takeFault c s).ctx } (takeFault c s) := by
  have h := sameBut_report (srcCtx s.coreId s.ctxId) s.ctx.func.toNat (dieOf s.coreId) s.ctx.pc c s
  exact ⟨h.1, h.2, rfl, h.4, h.5, h.6, h.7, h.8, h.9, h.10⟩

/-- The return from a fault undoes the freeze: nothing else of the context has changed, but that the faulting bundle is the next to issue. -/
theorem resume_takeFault (c : Cause) (s : State) : resumeCtx (takeFault c s).ctx = { s.ctx with frozen := none, block := some .thawed, retrying := true } := by
  rw [takeFault_ctx]; rfl

theorem wf_writeThrough {s : State} (f va r src die what : Nat) (h : s.mem.wf = true) : (writeThrough s f va r src die what).mem.wf = true := by
  unfold writeThrough
  split
  · split
    · exact wf_devWrite _ _ h
    · exact h
  · exact h

theorem wf_fqMove (f n : Nat) (p : Nat × Bool) {s : State} (h : s.mem.wf = true) : (fqMove f n p s).1.mem.wf = true := by
  unfold fqMove
  dsimp only
  split
  · exact wf_writeThrough _ _ _ _ _ _ h
  · split
    · exact wf_writeThrough _ _ _ _ _ _ ((congrArg Memory.wf (mem_dropStandIn ..)).trans h)
    · exact h

theorem wf_fqMoveDown (f : Nat) (l : List (Nat × Bool)) : ∀ (n : Nat) {s : State}, s.mem.wf = true → (fqMoveDown f n l s).1.mem.wf = true := by
  induction l with
  | nil => exact fun _ _ h => h
  | cons p l ih => exact fun n s h => ih (n - 1) (wf_fqMove _ _ _ h)

theorem wf_fqPut (f n r : Nat) {s : State} (h : s.mem.wf = true) : (fqPut f n r s).1.mem.wf = true := by
  unfold fqPut
  dsimp only
  split
  · exact wf_fqMove _ _ _ (wf_fqMoveDown _ _ _ h)
  · exact wf_fqMoveDown _ _ _ h

/-- Taking a fault keeps device memory in canonical form. -/
theorem wf_takeFault {s : State} (c : Cause) (h : s.mem.wf = true) : (takeFault c s).mem.wf = true := wf_fqPut _ _ _ h

/-! ## Cores and contexts -/

/-- Outside path FB an access has performed wherever all of it has. -/
theorem nearDone_of_performed {co : Core} {id : Nat} (h : performed co id = true) : nearDone co id = true := by
  simp only [performed, nearDone, Bool.and_eq_true, List.all_eq_true, Bool.or_eq_true] at *
  exact ⟨⟨fun m hm => .inl (h.1.1 m hm), h.1.2⟩, h.2⟩

/-- Marking filled slots adds marks and changes nothing else of the context. -/
theorem markFilled_eq (c : Context) (p : Path) (runs : List (Bool × Nat × Nat)) :
    ∃ l, c.markFilled p runs = { c with filled := c.filled ++ l } := ⟨_, rfl⟩

/-- The bubble that a leaving context keeps is all that may change (R105). -/
theorem keepBubble_cases (c k : Nat) (s : State) :
    keepBubble c k s = s ∨ keepBubble c k s = modCore c (fun co => { co with freeAt := max co.freeAt (co.blockAt + 2) }) s := by
  unfold keepBubble
  simp only
  generalize (if c = s.coreId then s.ctxId else (getCore s c).running) = r
  split
  · exact .inr rfl
  · exact .inl rfl

/-- A step of bring-up that is to fail leaves its report and nothing else; one that is not happens (R324). -/
theorem completeStep_cases (n : Nat) (act : State → State) (s : State) :
    (∃ c, s.hub.bringFail = some (n, c)
      ∧ completeStep n act s = { s with hub := { s.hub with status := .ofNat 64 (n + place c 8 8), bringFail := none } })
    ∨ completeStep n act s = { act s with hub := { (act s).hub with bringUp := max (act s).hub.bringUp n } } := by
  unfold completeStep
  split
  · next f c h =>
    split
    · next e => exact .inl ⟨c, e ▸ h, rfl⟩
    · exact .inr rfl
  · exact .inr rfl

/-- A change of a core is read back from it. -/
theorem getCore_modCore_same (c : Nat) (f : Core → Core) (s : State) : getCore (modCore c f s) c = f (getCore s c) := by
  by_cases h : c = s.coreId
  · simp [modCore, getCore, h]
  · simp [modCore, getCore, h, tget_tput_same]

/-- A change of a core leaves the others. -/
theorem getCore_modCore_other {c d : Nat} (hd : d ≠ c) (f : Core → Core) (s : State) : getCore (modCore c f s) d = getCore s d := by
  by_cases h : c = s.coreId
  · subst h; simp [modCore, getCore, hd]
  · simp [modCore, getCore, h, tget_tput_other _ _ _ _ hd]

/-- A change of a context is read back from it. -/
theorem getCtx_modCtx_same (c k : Nat) (f : Context → Context) (s : State) : getCtx (modCtx c k f s) c k = f (getCtx s c k) := by
  by_cases h : c = s.coreId ∧ k = s.ctxId
  · simp [modCtx, getCtx, h]
  · have hm : modCtx c k f s = modCore c (fun co => { co with parked := tput co.parked k (f (tget (resetContext c) co.parked k)) }) s := by
      simp [modCtx, h]
    have h1 : ∀ g, (modCore c g s).coreId = s.coreId ∧ (modCore c g s).ctxId = s.ctxId := by
      intro g; unfold modCore; split <;> exact ⟨rfl, rfl⟩
    rw [hm, getCtx, (h1 _).1, (h1 _).2, if_neg h, getCore_modCore_same, tget_tput_same, getCtx, if_neg h]

/-- Bringing a core into focus that is in focus changes nothing. -/
@[simp] theorem focusCore_self (s : State) : focusCore s.coreId s = s := by simp [focusCore]

/-- Switching to the running context changes nothing. -/
@[simp] theorem switchTo_self (s : State) : switchTo s.ctxId s = s := by simp [switchTo]

end Sys2Proof.Laws
end

