-- ==== Sys2Proof/Laws/PerInstr.lean ====
section
/-! SUPPORT. The family RoundTrip: decoding the syllable that encodes a well-formed instruction gives the instruction back, one lemma for each constructor. -/

namespace Sys2Proof.Laws.RoundTrip

open Sys2Proof Machine.Encoding

/-- The syllable of a well-formed instruction, with either value of STOP, decodes to it. -/
def Statement (i : Instr) : Prop := ∀ stop : Bool, WellFormed i = true → decodeSyll (encodeWith stop i) = .ok i

theorem nop (o : SR) : Statement (.nop o) := fun b => decodeSyll_of_raw b _ rfl
  (congrArg (fun x => some (Instr.nop x)) (unpackSR_pack o))

theorem add (o : SR) : Statement (.add o) := fun b => decodeSyll_of_raw b _ rfl
  (congrArg (fun x => some (Instr.add x)) (unpackSR_pack o))

theorem addi (o : SI) : Statement (.addi o) := fun b => decodeSyll_of_raw b _ rfl
  (congrArg (fun x => some (Instr.addi x)) (unpackSI_pack o))

theorem sub (o : SR) : Statement (.sub o) := fun b => decodeSyll_of_raw b _ rfl
  (congrArg (fun x => some (Instr.sub x)) (unpackSR_pack o))

theorem mul (o : SR) : Statement (.mul o) := fun b => decodeSyll_of_raw b _ rfl
  (congrArg (fun x => some (Instr.mul x)) (unpackSR_pack o))

theorem mulh (o : SR) : Statement (.mulh o) := fun b => decodeSyll_of_raw b _ rfl
  (congrArg (fun x => some (Instr.mulh x)) (unpackSR_pack o))

theorem mulhx (o : SR) : Statement (.mulhx o) := fun b => decodeSyll_of_raw b _ rfl
  (congrArg (fun x => some (Instr.mulhx x)) (unpackSR_pack o))

theorem div (o : SR) : Statement (.div o) := fun b => decodeSyll_of_raw b _ rfl
  (congrArg (fun x => some (Instr.div x)) (unpackSR_pack o))

theorem divx (o : SR) : Statement (.divx o) := fun b => decodeSyll_of_raw b _ rfl
  (congrArg (fun x => some (Instr.divx x)) (unpackSR_pack o))

theorem rem (o : SR) : Statement (.rem o) := fun b => decodeSyll_of_raw b _ rfl
  (congrArg (fun x => some (Instr.rem x)) (unpackSR_pack o))

theorem remx (o : SR) : Statement (.remx o) := fun b => decodeSyll_of_raw b _ rfl
  (congrArg (fun x => some (Instr.remx x)) (unpackSR_pack o))

theorem and (o : SR) : Statement (.and o) := fun b => decodeSyll_of_raw b _ rfl
  (congrArg (fun x => some (Instr.and x)) (unpackSR_pack o))

theorem andi (o : SI) : Statement (.andi o) := fun b => decodeSyll_of_raw b _ rfl
  (congrArg (fun x => some (Instr.andi x)) (unpackSI_pack o))

theorem or (o : SR) : Statement (.or o) := fun b => decodeSyll_of_raw b _ rfl
  (congrArg (fun x => some (Instr.or x)) (unpackSR_pack o))

theorem ori (o : SI) : Statement (.ori o) := fun b => decodeSyll_of_raw b _ rfl
  (congrArg (fun x => some (Instr.ori x)) (unpackSI_pack o))

theorem xor (o : SR) : Statement (.xor o) := fun b => decodeSyll_of_raw b _ rfl
  (congrArg (fun x => some (Instr.xor x)) (unpackSR_pack o))

theorem xori (o : SI) : Statement (.xori o) := fun b => decodeSyll_of_raw b _ rfl
  (congrArg (fun x => some (Instr.xori x)) (unpackSI_pack o))

theorem shl (o : SR) : Statement (.shl o) := fun b => decodeSyll_of_raw b _ rfl
  (congrArg (fun x => some (Instr.shl x)) (unpackSR_pack o))

theorem shli (o : SI) : Statement (.shli o) := fun b => decodeSyll_of_raw b _ rfl
  (congrArg (fun x => some (Instr.shli x)) (unpackSI_pack o))

theorem shr (o : SR) : Statement (.shr o) := fun b => decodeSyll_of_raw b _ rfl
  (congrArg (fun x => some (Instr.shr x)) (unpackSR_pack o))

theorem shri (o : SI) : Statement (.shri o) := fun b => decodeSyll_of_raw b _ rfl
  (congrArg (fun x => some (Instr.shri x)) (unpackSI_pack o))

theorem sra (o : SR) : Statement (.sra o) := fun b => decodeSyll_of_raw b _ rfl
  (congrArg (fun x => some (Instr.sra x)) (unpackSR_pack o))

theorem srai (o : SI) : Statement (.srai o) := fun b => decodeSyll_of_raw b _ rfl
  (congrArg (fun x => some (Instr.srai x)) (unpackSI_pack o))

theorem min (o : SR) : Statement (.min o) := fun b => decodeSyll_of_raw b _ rfl
  (congrArg (fun x => some (Instr.min x)) (unpackSR_pack o))

theorem max (o : SR) : Statement (.max o) := fun b => decodeSyll_of_raw b _ rfl
  (congrArg (fun x => some (Instr.max x)) (unpackSR_pack o))

theorem minx (o : SR) : Statement (.minx o) := fun b => decodeSyll_of_raw b _ rfl
  (congrArg (fun x => some (Instr.minx x)) (unpackSR_pack o))

theorem maxx (o : SR) : Statement (.maxx o) := fun b => decodeSyll_of_raw b _ rfl
  (congrArg (fun x => some (Instr.maxx x)) (unpackSR_pack o))

theorem clz (o : SR) : Statement (.clz o) := fun b => decodeSyll_of_raw b _ rfl
  (congrArg (fun x => some (Instr.clz x)) (unpackSR_pack o))

theorem popc (o : SR) : Statement (.popc o) := fun b => decodeSyll_of_raw b _ rfl
  (congrArg (fun x => some (Instr.popc x)) (unpackSR_pack o))

theorem li (o : SL) : Statement (.li o) := fun b => decodeSyll_of_raw b _ rfl
  (congrArg (fun x => some (Instr.li x)) (unpackSL_pack o))

theorem lih (o : SL) : Statement (.lih o) := fun b => decodeSyll_of_raw b _ rfl
  (congrArg (fun x => some (Instr.lih x)) (unpackSL_pack o))

theorem selPred (o : SR) : Statement (.selPred o) := fun b h => decodeSyll_of_raw b _ rfl (by
  have hl : inSub o.sub.toNat [0] = [] := limits_nil h
  have hs : o.sub = 0#5 := BitVec.eq_of_toNat_eq (sub_of_inSub (hl))
  show some (if (unpackSR o.guard (packSR o)).sub = 0 then Instr.selPred (unpackSR o.guard (packSR o)) else Instr.selBits (unpackSR o.guard (packSR o))) = _
  rw [unpackSR_pack, hs]
  rfl) h

theorem selBits (o : SR) : Statement (.selBits o) := fun b h => decodeSyll_of_raw b _ rfl (by
  have hl : inSub o.sub.toNat [1] = [] := limits_nil h
  have hs : o.sub = 1#5 := BitVec.eq_of_toNat_eq (sub_of_inSub (hl))
  show some (if (unpackSR o.guard (packSR o)).sub = 0 then Instr.selPred (unpackSR o.guard (packSR o)) else Instr.selBits (unpackSR o.guard (packSR o))) = _
  rw [unpackSR_pack, hs]
  rfl) h

theorem cmp (o : SR) : Statement (.cmp o) := fun b => decodeSyll_of_raw b _ rfl
  (congrArg (fun x => some (Instr.cmp x)) (unpackSR_pack o))

theorem cmpi (o : SI) : Statement (.cmpi o) := fun b => decodeSyll_of_raw b _ rfl
  (congrArg (fun x => some (Instr.cmpi x)) (unpackSI_pack o))

theorem plogic (o : SR) : Statement (.plogic o) := fun b => decodeSyll_of_raw b _ rfl
  (congrArg (fun x => some (Instr.plogic x)) (unpackSR_pack o))

theorem fadd (o : SR) : Statement (.fadd o) := fun b => decodeSyll_of_raw b _ rfl
  (congrArg (fun x => some (Instr.fadd x)) (unpackSR_pack o))

theorem fsub (o : SR) : Statement (.fsub o) := fun b => decodeSyll_of_raw b _ rfl
  (congrArg (fun x => some (Instr.fsub x)) (unpackSR_pack o))

theorem fmul (o : SR) : Statement (.fmul o) := fun b => decodeSyll_of_raw b _ rfl
  (congrArg (fun x => some (Instr.fmul x)) (unpackSR_pack o))

theorem ffma (o : SR) : Statement (.ffma o) := fun b => decodeSyll_of_raw b _ rfl
  (congrArg (fun x => some (Instr.ffma x)) (unpackSR_pack o))

theorem fmin (o : SR) : Statement (.fmin o) := fun b => decodeSyll_of_raw b _ rfl
  (congrArg (fun x => some (Instr.fmin x)) (unpackSR_pack o))

theorem fmax (o : SR) : Statement (.fmax o) := fun b => decodeSyll_of_raw b _ rfl
  (congrArg (fun x => some (Instr.fmax x)) (unpackSR_pack o))

theorem fcmp (o : SR) : Statement (.fcmp o) := fun b => decodeSyll_of_raw b _ rfl
  (congrArg (fun x => some (Instr.fcmp x)) (unpackSR_pack o))

theorem fcvt (o : SR) : Statement (.fcvt o) := fun b => decodeSyll_of_raw b _ rfl
  (congrArg (fun x => some (Instr.fcvt x)) (unpackSR_pack o))

theorem br (o : SB) : Statement (.br o) := fun b => decodeSyll_of_raw b _ rfl
  (congrArg (fun x => some (Instr.br x)) (unpackSB_pack o))

theorem brl (o : SB) : Statement (.brl o) := fun b => decodeSyll_of_raw b _ rfl
  (congrArg (fun x => some (Instr.brl x)) (unpackSB_pack o))

theorem jr (o : SR) : Statement (.jr o) := fun b => decodeSyll_of_raw b _ rfl
  (congrArg (fun x => some (Instr.jr x)) (unpackSR_pack o))

theorem loop (o : SI) : Statement (.loop o) := fun b => decodeSyll_of_raw b _ rfl
  (congrArg (fun x => some (Instr.loop x)) (unpackSI_pack o))

theorem exit (o : SR) : Statement (.exit o) := fun b => decodeSyll_of_raw b _ rfl
  (congrArg (fun x => some (Instr.exit x)) (unpackSR_pack o))

theorem yield (o : SR) : Statement (.yield o) := fun b => decodeSyll_of_raw b _ rfl
  (congrArg (fun x => some (Instr.yield x)) (unpackSR_pack o))

theorem srd (o : SI) : Statement (.srd o) := fun b => decodeSyll_of_raw b _ rfl
  (congrArg (fun x => some (Instr.srd x)) (unpackSI_pack o))

theorem swr (o : SI) : Statement (.swr o) := fun b => decodeSyll_of_raw b _ rfl
  (congrArg (fun x => some (Instr.swr x)) (unpackSI_pack o))

theorem stg (o : SR) : Statement (.stg o) := fun b => decodeSyll_of_raw b _ rfl
  (congrArg (fun x => some (Instr.stg x)) (unpackSR_pack o))

theorem tset (o : SR) : Statement (.tset o) := fun b => decodeSyll_of_raw b _ rfl
  (congrArg (fun x => some (Instr.tset x)) (unpackSR_pack o))

theorem xpset (o : SR) : Statement (.xpset o) := fun b => decodeSyll_of_raw b _ rfl
  (congrArg (fun x => some (Instr.xpset x)) (unpackSR_pack o))

theorem svc (o : SI) : Statement (.svc o) := fun b => decodeSyll_of_raw b _ rfl
  (congrArg (fun x => some (Instr.svc x)) (unpackSI_pack o))

theorem tick (o : SR) : Statement (.tick o) := fun b => decodeSyll_of_raw b _ rfl
  (congrArg (fun x => some (Instr.tick x)) (unpackSR_pack o))

theorem hint (o : HF) : Statement (.hint o) := fun b _ => by
  have ho : (opc (.hint o)).toNat = 0xF0 + o.opc.toNat := by
    simp only [opc, BitVec.toNat_append]
    rw [Nat.shiftLeft_eq, ← Nat.shiftLeft_eq, ← Nat.shiftLeft_add_eq_or_of_lt (by have := o.opc.isLt; omega)]
    rfl
  have hr : (encodeWith b (.hint o)).extractLsb' 0 52 = o.rest := by
    ext k hk
    have h1 : (encodeWith b (.hint o)).getLsbD k = o.rest.getLsbD k := by
      rcases Nat.lt_or_ge k 47 with h | h
      · refine (bit_low _ _ k h).trans ?_
        simp [field, h]
      · rcases Nat.lt_or_ge k 51 with h' | h'
        · obtain ⟨j, rfl⟩ : ∃ j, k = 47 + j := ⟨k - 47, by omega⟩
          refine (bit_high _ _ j).trans ((bit_low _ _ j (by omega)).trans ?_)
          simp [guardOf, show j < 4 by omega]
        · obtain rfl : k = 51 := by omega
          refine (bit_high _ _ 4).trans ((bit_high _ _ 0).trans ((bit_low _ _ 0 (by decide)).trans (bit_ofBool _)))
    simpa [BitVec.getLsbD_eq_getElem, hk] using h1
  rw [decodeSyll, if_pos (by rw [opcOf_encodeWith, ho]; omega), tagOf_encodeWith, opcOf_encodeWith, hr]
  simp only [tag, Option.getD_some, opc]
  rw [show (0xF#4 ++ o.opc).extractLsb' 0 4 = o.opc from extract_low _ _]

theorem vadd (o : VF) : Statement (.vadd o) := fun b h => decodeSyll_of_raw b _ rfl (by
  have := congrArg (fun x => some (Instr.vadd x)) (unpackVF_pack o)
  show ofOpcode (if o.v1 then 2 else 1) _ _ _ = _
  cases hv : o.v1 <;> rw [hv] at this <;> exact this) h

theorem vsub (o : VF) : Statement (.vsub o) := fun b h => decodeSyll_of_raw b _ rfl (by
  have := congrArg (fun x => some (Instr.vsub x)) (unpackVF_pack o)
  show ofOpcode (if o.v1 then 2 else 1) _ _ _ = _
  cases hv : o.v1 <;> rw [hv] at this <;> exact this) h

theorem vmul (o : VF) : Statement (.vmul o) := fun b h => decodeSyll_of_raw b _ rfl (by
  have := congrArg (fun x => some (Instr.vmul x)) (unpackVF_pack o)
  show ofOpcode (if o.v1 then 2 else 1) _ _ _ = _
  cases hv : o.v1 <;> rw [hv] at this <;> exact this) h

theorem vmulh (o : VF) : Statement (.vmulh o) := fun b h => decodeSyll_of_raw b _ rfl (by
  have := congrArg (fun x => some (Instr.vmulh x)) (unpackVF_pack o)
  show ofOpcode (if o.v1 then 2 else 1) _ _ _ = _
  cases hv : o.v1 <;> rw [hv] at this <;> exact this) h

theorem vmac (o : VF) : Statement (.vmac o) := fun b h => decodeSyll_of_raw b _ rfl (by
  have := congrArg (fun x => some (Instr.vmac x)) (unpackVF_pack o)
  show ofOpcode (if o.v1 then 2 else 1) _ _ _ = _
  cases hv : o.v1 <;> rw [hv] at this <;> exact this) h

theorem vshl (o : VF) : Statement (.vshl o) := fun b h => decodeSyll_of_raw b _ rfl (by
  have := congrArg (fun x => some (Instr.vshl x)) (unpackVF_pack o)
  show ofOpcode (if o.v1 then 2 else 1) _ _ _ = _
  cases hv : o.v1 <;> rw [hv] at this <;> exact this) h

theorem vshr (o : VF) : Statement (.vshr o) := fun b h => decodeSyll_of_raw b _ rfl (by
  have := congrArg (fun x => some (Instr.vshr x)) (unpackVF_pack o)
  show ofOpcode (if o.v1 then 2 else 1) _ _ _ = _
  cases hv : o.v1 <;> rw [hv] at this <;> exact this) h

theorem vsra (o : VF) : Statement (.vsra o) := fun b h => decodeSyll_of_raw b _ rfl (by
  have := congrArg (fun x => some (Instr.vsra x)) (unpackVF_pack o)
  show ofOpcode (if o.v1 then 2 else 1) _ _ _ = _
  cases hv : o.v1 <;> rw [hv] at this <;> exact this) h

theorem vand (o : VF) : Statement (.vand o) := fun b h => decodeSyll_of_raw b _ rfl (by
  have := congrArg (fun x => some (Instr.vand x)) (unpackVF_pack o)
  show ofOpcode (if o.v1 then 2 else 1) _ _ _ = _
  cases hv : o.v1 <;> rw [hv] at this <;> exact this) h

theorem vor (o : VF) : Statement (.vor o) := fun b h => decodeSyll_of_raw b _ rfl (by
  have := congrArg (fun x => some (Instr.vor x)) (unpackVF_pack o)
  show ofOpcode (if o.v1 then 2 else 1) _ _ _ = _
  cases hv : o.v1 <;> rw [hv] at this <;> exact this) h

theorem vxor (o : VF) : Statement (.vxor o) := fun b h => decodeSyll_of_raw b _ rfl (by
  have := congrArg (fun x => some (Instr.vxor x)) (unpackVF_pack o)
  show ofOpcode (if o.v1 then 2 else 1) _ _ _ = _
  cases hv : o.v1 <;> rw [hv] at this <;> exact this) h

theorem vnot (o : VF) : Statement (.vnot o) := fun b h => decodeSyll_of_raw b _ rfl (by
  have := congrArg (fun x => some (Instr.vnot x)) (unpackVF_pack o)
  show ofOpcode (if o.v1 then 2 else 1) _ _ _ = _
  cases hv : o.v1 <;> rw [hv] at this <;> exact this) h

theorem vmin (o : VF) : Statement (.vmin o) := fun b h => decodeSyll_of_raw b _ rfl (by
  have := congrArg (fun x => some (Instr.vmin x)) (unpackVF_pack o)
  show ofOpcode (if o.v1 then 2 else 1) _ _ _ = _
  cases hv : o.v1 <;> rw [hv] at this <;> exact this) h

theorem vmax (o : VF) : Statement (.vmax o) := fun b h => decodeSyll_of_raw b _ rfl (by
  have := congrArg (fun x => some (Instr.vmax x)) (unpackVF_pack o)
  show ofOpcode (if o.v1 then 2 else 1) _ _ _ = _
  cases hv : o.v1 <;> rw [hv] at this <;> exact this) h

theorem vabs (o : VF) : Statement (.vabs o) := fun b h => decodeSyll_of_raw b _ rfl (by
  have := congrArg (fun x => some (Instr.vabs x)) (unpackVF_pack o)
  show ofOpcode (if o.v1 then 2 else 1) _ _ _ = _
  cases hv : o.v1 <;> rw [hv] at this <;> exact this) h

theorem vneg (o : VF) : Statement (.vneg o) := fun b h => decodeSyll_of_raw b _ rfl (by
  have := congrArg (fun x => some (Instr.vneg x)) (unpackVF_pack o)
  show ofOpcode (if o.v1 then 2 else 1) _ _ _ = _
  cases hv : o.v1 <;> rw [hv] at this <;> exact this) h

theorem vcmp (o : VF) : Statement (.vcmp o) := fun b h => decodeSyll_of_raw b _ rfl (by
  have := congrArg (fun x => some (Instr.vcmp x)) (unpackVF_pack o)
  show ofOpcode (if o.v1 then 2 else 1) _ _ _ = _
  cases hv : o.v1 <;> rw [hv] at this <;> exact this) h

theorem vsel (o : VF) : Statement (.vsel o) := fun b h => decodeSyll_of_raw b _ rfl (by
  have := congrArg (fun x => some (Instr.vsel x)) (unpackVF_pack o)
  show ofOpcode (if o.v1 then 2 else 1) _ _ _ = _
  cases hv : o.v1 <;> rw [hv] at this <;> exact this) h

theorem vmov (o : VF) : Statement (.vmov o) := fun b h => decodeSyll_of_raw b _ rfl (by
  have := congrArg (fun x => some (Instr.vmov x)) (unpackVF_pack o)
  show ofOpcode (if o.v1 then 2 else 1) _ _ _ = _
  cases hv : o.v1 <;> rw [hv] at this <;> exact this) h

theorem vbcastElem (o : VF) : Statement (.vbcastElem o) := fun b h => decodeSyll_of_raw b _ rfl (by
  have hl : inFmt o.fmt allFmt ++ inSub (Machine.Encoding.vsub o) [0] ++ form o true ++ lim ((imm16 o).toNat % 64 < fmtCount o.fmt.toNat) ((imm16 o).toNat % 64) = [] := limits_nil h
  have hs : Machine.Encoding.vsub o = 0 := sub_of_inSub ((List.append_eq_nil_iff.1 (List.append_eq_nil_iff.1 (List.append_eq_nil_iff.1 hl).1).1).2)
  have hu : some (if Machine.Encoding.vsub (unpackVF o.guard o.v1 (packVF o)) = 0 then Instr.vbcastElem (unpackVF o.guard o.v1 (packVF o)) else if Machine.Encoding.vsub (unpackVF o.guard o.v1 (packVF o)) = 1 then Instr.vbcastImm (unpackVF o.guard o.v1 (packVF o)) else Instr.vbcastHi (unpackVF o.guard o.v1 (packVF o))) = some (Instr.vbcastElem o) := by
    rw [unpackVF_pack, hs]
    rfl
  show ofOpcode (if o.v1 then 2 else 1) _ _ _ = _
  cases hv : o.v1 <;> rw [hv] at hu <;> exact hu) h

theorem vbcastImm (o : VF) : Statement (.vbcastImm o) := fun b h => decodeSyll_of_raw b _ rfl (by
  have hl : inFmt o.fmt allFmt ++ inSub (Machine.Encoding.vsub o) [1] ++ form o true = [] := limits_nil h
  have hs : Machine.Encoding.vsub o = 1 := sub_of_inSub ((List.append_eq_nil_iff.1 (List.append_eq_nil_iff.1 hl).1).2)
  have hu : some (if Machine.Encoding.vsub (unpackVF o.guard o.v1 (packVF o)) = 0 then Instr.vbcastElem (unpackVF o.guard o.v1 (packVF o)) else if Machine.Encoding.vsub (unpackVF o.guard o.v1 (packVF o)) = 1 then Instr.vbcastImm (unpackVF o.guard o.v1 (packVF o)) else Instr.vbcastHi (unpackVF o.guard o.v1 (packVF o))) = some (Instr.vbcastImm o) := by
    rw [unpackVF_pack, hs]
    rfl
  show ofOpcode (if o.v1 then 2 else 1) _ _ _ = _
  cases hv : o.v1 <;> rw [hv] at hu <;> exact hu) h

theorem vbcastHi (o : VF) : Statement (.vbcastHi o) := fun b h => decodeSyll_of_raw b _ rfl (by
  have hl : inFmt o.fmt allFmt ++ inSub (Machine.Encoding.vsub o) [2] ++ form o true ++ lim (16 ≤ fmtWidth o.fmt.toNat) (Machine.Encoding.vsub o) = [] := limits_nil h
  have hs : Machine.Encoding.vsub o = 2 := sub_of_inSub ((List.append_eq_nil_iff.1 (List.append_eq_nil_iff.1 (List.append_eq_nil_iff.1 hl).1).1).2)
  have hu : some (if Machine.Encoding.vsub (unpackVF o.guard o.v1 (packVF o)) = 0 then Instr.vbcastElem (unpackVF o.guard o.v1 (packVF o)) else if Machine.Encoding.vsub (unpackVF o.guard o.v1 (packVF o)) = 1 then Instr.vbcastImm (unpackVF o.guard o.v1 (packVF o)) else Instr.vbcastHi (unpackVF o.guard o.v1 (packVF o))) = some (Instr.vbcastHi o) := by
    rw [unpackVF_pack, hs]
    rfl
  show ofOpcode (if o.v1 then 2 else 1) _ _ _ = _
  cases hv : o.v1 <;> rw [hv] at hu <;> exact hu) h

theorem vins (o : VF) : Statement (.vins o) := fun b h => decodeSyll_of_raw b _ rfl (by
  have := congrArg (fun x => some (Instr.vins x)) (unpackVF_pack o)
  show ofOpcode (if o.v1 then 2 else 1) _ _ _ = _
  cases hv : o.v1 <;> rw [hv] at this <;> exact this) h

theorem vext (o : VF) : Statement (.vext o) := fun b h => decodeSyll_of_raw b _ rfl (by
  have := congrArg (fun x => some (Instr.vext x)) (unpackVF_pack o)
  show ofOpcode (if o.v1 then 2 else 1) _ _ _ = _
  cases hv : o.v1 <;> rw [hv] at this <;> exact this) h

theorem viota (o : VF) : Statement (.viota o) := fun b h => decodeSyll_of_raw b _ rfl (by
  have := congrArg (fun x => some (Instr.viota x)) (unpackVF_pack o)
  show ofOpcode (if o.v1 then 2 else 1) _ _ _ = _
  cases hv : o.v1 <;> rw [hv] at this <;> exact this) h

theorem vfadd (o : VF) : Statement (.vfadd o) := fun b h => decodeSyll_of_raw b _ rfl (by
  have := congrArg (fun x => some (Instr.vfadd x)) (unpackVF_pack o)
  show ofOpcode (if o.v1 then 2 else 1) _ _ _ = _
  cases hv : o.v1 <;> rw [hv] at this <;> exact this) h

theorem vfsub (o : VF) : Statement (.vfsub o) := fun b h => decodeSyll_of_raw b _ rfl (by
  have := congrArg (fun x => some (Instr.vfsub x)) (unpackVF_pack o)
  show ofOpcode (if o.v1 then 2 else 1) _ _ _ = _
  cases hv : o.v1 <;> rw [hv] at this <;> exact this) h

theorem vfmul (o : VF) : Statement (.vfmul o) := fun b h => decodeSyll_of_raw b _ rfl (by
  have := congrArg (fun x => some (Instr.vfmul x)) (unpackVF_pack o)
  show ofOpcode (if o.v1 then 2 else 1) _ _ _ = _
  cases hv : o.v1 <;> rw [hv] at this <;> exact this) h

theorem vfma (o : VF) : Statement (.vfma o) := fun b h => decodeSyll_of_raw b _ rfl (by
  have := congrArg (fun x => some (Instr.vfma x)) (unpackVF_pack o)
  show ofOpcode (if o.v1 then 2 else 1) _ _ _ = _
  cases hv : o.v1 <;> rw [hv] at this <;> exact this) h

theorem vfmin (o : VF) : Statement (.vfmin o) := fun b h => decodeSyll_of_raw b _ rfl (by
  have := congrArg (fun x => some (Instr.vfmin x)) (unpackVF_pack o)
  show ofOpcode (if o.v1 then 2 else 1) _ _ _ = _
  cases hv : o.v1 <;> rw [hv] at this <;> exact this) h

theorem vfmax (o : VF) : Statement (.vfmax o) := fun b h => decodeSyll_of_raw b _ rfl (by
  have := congrArg (fun x => some (Instr.vfmax x)) (unpackVF_pack o)
  show ofOpcode (if o.v1 then 2 else 1) _ _ _ = _
  cases hv : o.v1 <;> rw [hv] at this <;> exact this) h

theorem vfcmp (o : VF) : Statement (.vfcmp o) := fun b h => decodeSyll_of_raw b _ rfl (by
  have := congrArg (fun x => some (Instr.vfcmp x)) (unpackVF_pack o)
  show ofOpcode (if o.v1 then 2 else 1) _ _ _ = _
  cases hv : o.v1 <;> rw [hv] at this <;> exact this) h

theorem vcvt (o : VF) : Statement (.vcvt o) := fun b h => decodeSyll_of_raw b _ rfl (by
  have := congrArg (fun x => some (Instr.vcvt x)) (unpackVF_pack o)
  show ofOpcode (if o.v1 then 2 else 1) _ _ _ = _
  cases hv : o.v1 <;> rw [hv] at this <;> exact this) h

theorem vbcvt (o : VF) : Statement (.vbcvt o) := fun b h => decodeSyll_of_raw b _ rfl (by
  have := congrArg (fun x => some (Instr.vbcvt x)) (unpackVF_pack o)
  show ofOpcode (if o.v1 then 2 else 1) _ _ _ = _
  cases hv : o.v1 <;> rw [hv] at this <;> exact this) h

theorem vrsum (o : VF) : Statement (.vrsum o) := fun b h => decodeSyll_of_raw b _ rfl (by
  have := congrArg (fun x => some (Instr.vrsum x)) (unpackVF_pack o)
  show ofOpcode (if o.v1 then 2 else 1) _ _ _ = _
  cases hv : o.v1 <;> rw [hv] at this <;> exact this) h

theorem vrmax (o : VF) : Statement (.vrmax o) := fun b h => decodeSyll_of_raw b _ rfl (by
  have := congrArg (fun x => some (Instr.vrmax x)) (unpackVF_pack o)
  show ofOpcode (if o.v1 then 2 else 1) _ _ _ = _
  cases hv : o.v1 <;> rw [hv] at this <;> exact this) h

theorem vcas (o : VF) : Statement (.vcas o) := fun b h => decodeSyll_of_raw b _ rfl (by
  have := congrArg (fun x => some (Instr.vcas x)) (unpackVF_pack o)
  show ofOpcode (if o.v1 then 2 else 1) _ _ _ = _
  cases hv : o.v1 <;> rw [hv] at this <;> exact this) h

theorem mlogic (o : VF) : Statement (.mlogic o) := fun b h => decodeSyll_of_raw b _ rfl (by
  have := congrArg (fun x => some (Instr.mlogic x)) (unpackVF_pack o)
  show ofOpcode (if o.v1 then 2 else 1) _ _ _ = _
  cases hv : o.v1 <;> rw [hv] at this <;> exact this) h

theorem mcnt (o : VF) : Statement (.mcnt o) := fun b h => decodeSyll_of_raw b _ rfl (by
  have := congrArg (fun x => some (Instr.mcnt x)) (unpackVF_pack o)
  show ofOpcode (if o.v1 then 2 else 1) _ _ _ = _
  cases hv : o.v1 <;> rw [hv] at this <;> exact this) h

theorem mfirst (o : VF) : Statement (.mfirst o) := fun b h => decodeSyll_of_raw b _ rfl (by
  have := congrArg (fun x => some (Instr.mfirst x)) (unpackVF_pack o)
  show ofOpcode (if o.v1 then 2 else 1) _ _ _ = _
  cases hv : o.v1 <;> rw [hv] at this <;> exact this) h

theorem wcmp (o : VF) : Statement (.wcmp o) := fun b h => decodeSyll_of_raw b _ rfl (by
  have := congrArg (fun x => some (Instr.wcmp x)) (unpackVF_pack o)
  show ofOpcode (if o.v1 then 2 else 1) _ _ _ = _
  cases hv : o.v1 <;> rw [hv] at this <;> exact this) h

theorem wand (o : VF) : Statement (.wand o) := fun b h => decodeSyll_of_raw b _ rfl (by
  have := congrArg (fun x => some (Instr.wand x)) (unpackVF_pack o)
  show ofOpcode (if o.v1 then 2 else 1) _ _ _ = _
  cases hv : o.v1 <;> rw [hv] at this <;> exact this) h

theorem wor (o : VF) : Statement (.wor o) := fun b h => decodeSyll_of_raw b _ rfl (by
  have := congrArg (fun x => some (Instr.wor x)) (unpackVF_pack o)
  show ofOpcode (if o.v1 then 2 else 1) _ _ _ = _
  cases hv : o.v1 <;> rw [hv] at this <;> exact this) h

theorem wnot (o : VF) : Statement (.wnot o) := fun b h => decodeSyll_of_raw b _ rfl (by
  have := congrArg (fun x => some (Instr.wnot x)) (unpackVF_pack o)
  show ofOpcode (if o.v1 then 2 else 1) _ _ _ = _
  cases hv : o.v1 <;> rw [hv] at this <;> exact this) h

theorem wblend (o : VF) : Statement (.wblend o) := fun b h => decodeSyll_of_raw b _ rfl (by
  have := congrArg (fun x => some (Instr.wblend x)) (unpackVF_pack o)
  show ofOpcode (if o.v1 then 2 else 1) _ _ _ = _
  cases hv : o.v1 <;> rw [hv] at this <;> exact this) h

theorem wcoll (o : VF) : Statement (.wcoll o) := fun b h => decodeSyll_of_raw b _ rfl (by
  have := congrArg (fun x => some (Instr.wcoll x)) (unpackVF_pack o)
  show ofOpcode (if o.v1 then 2 else 1) _ _ _ = _
  cases hv : o.v1 <;> rw [hv] at this <;> exact this) h

theorem wgradCmp (o : VF) : Statement (.wgradCmp o) := fun b h => decodeSyll_of_raw b _ rfl (by
  have hl : inFmt o.fmt [11] ++ inSub (Machine.Encoding.vsub o) [0] ++ form o false = [] := limits_nil h
  have hs : Machine.Encoding.vsub o = 0 := sub_of_inSub ((List.append_eq_nil_iff.1 (List.append_eq_nil_iff.1 hl).1).2)
  have hu : some (if Machine.Encoding.vsub (unpackVF o.guard o.v1 (packVF o)) = 0 then Instr.wgradCmp (unpackVF o.guard o.v1 (packVF o)) else if Machine.Encoding.vsub (unpackVF o.guard o.v1 (packVF o)) = 1 then Instr.wgradBlend (unpackVF o.guard o.v1 (packVF o)) else Instr.wgradColl (unpackVF o.guard o.v1 (packVF o))) = some (Instr.wgradCmp o) := by
    rw [unpackVF_pack, hs]
    rfl
  show ofOpcode (if o.v1 then 2 else 1) _ _ _ = _
  cases hv : o.v1 <;> rw [hv] at hu <;> exact hu) h

theorem wgradBlend (o : VF) : Statement (.wgradBlend o) := fun b h => decodeSyll_of_raw b _ rfl (by
  have hl : inFmt o.fmt [11] ++ inSub (Machine.Encoding.vsub o) [1] ++ form o false = [] := limits_nil h
  have hs : Machine.Encoding.vsub o = 1 := sub_of_inSub ((List.append_eq_nil_iff.1 (List.append_eq_nil_iff.1 hl).1).2)
  have hu : some (if Machine.Encoding.vsub (unpackVF o.guard o.v1 (packVF o)) = 0 then Instr.wgradCmp (unpackVF o.guard o.v1 (packVF o)) else if Machine.Encoding.vsub (unpackVF o.guard o.v1 (packVF o)) = 1 then Instr.wgradBlend (unpackVF o.guard o.v1 (packVF o)) else Instr.wgradColl (unpackVF o.guard o.v1 (packVF o))) = some (Instr.wgradBlend o) := by
    rw [unpackVF_pack, hs]
    rfl
  show ofOpcode (if o.v1 then 2 else 1) _ _ _ = _
  cases hv : o.v1 <;> rw [hv] at hu <;> exact hu) h

theorem wgradColl (o : VF) : Statement (.wgradColl o) := fun b h => decodeSyll_of_raw b _ rfl (by
  have hl : inFmt o.fmt [11] ++ inSub (Machine.Encoding.vsub o) [2] ++ form o false = [] := limits_nil h
  have hs : Machine.Encoding.vsub o = 2 := sub_of_inSub ((List.append_eq_nil_iff.1 (List.append_eq_nil_iff.1 hl).1).2)
  have hu : some (if Machine.Encoding.vsub (unpackVF o.guard o.v1 (packVF o)) = 0 then Instr.wgradCmp (unpackVF o.guard o.v1 (packVF o)) else if Machine.Encoding.vsub (unpackVF o.guard o.v1 (packVF o)) = 1 then Instr.wgradBlend (unpackVF o.guard o.v1 (packVF o)) else Instr.wgradColl (unpackVF o.guard o.v1 (packVF o))) = some (Instr.wgradColl o) := by
    rw [unpackVF_pack, hs]
    rfl
  show ofOpcode (if o.v1 then 2 else 1) _ _ _ = _
  cases hv : o.v1 <;> rw [hv] at hu <;> exact hu) h

theorem wset (o : VF) : Statement (.wset o) := fun b h => decodeSyll_of_raw b _ rfl (by
  have := congrArg (fun x => some (Instr.wset x)) (unpackVF_pack o)
  show ofOpcode (if o.v1 then 2 else 1) _ _ _ = _
  cases hv : o.v1 <;> rw [hv] at this <;> exact this) h

theorem wget (o : VF) : Statement (.wget o) := fun b h => decodeSyll_of_raw b _ rfl (by
  have := congrArg (fun x => some (Instr.wget x)) (unpackVF_pack o)
  show ofOpcode (if o.v1 then 2 else 1) _ _ _ = _
  cases hv : o.v1 <;> rw [hv] at this <;> exact this) h

theorem wlin (o : VF) : Statement (.wlin o) := fun b h => decodeSyll_of_raw b _ rfl (by
  have := congrArg (fun x => some (Instr.wlin x)) (unpackVF_pack o)
  show ofOpcode (if o.v1 then 2 else 1) _ _ _ = _
  cases hv : o.v1 <;> rw [hv] at this <;> exact this) h

theorem vexp2 (o : VF) : Statement (.vexp2 o) := fun b h => decodeSyll_of_raw b _ rfl (by
  have hv : o.v1 = true := by
    have hl : (if o.v1 then [] else [(1, 0)]) ++ inFmt o.fmt fps ++ form o false = [] := limits_nil h
    cases hv : o.v1
    · rw [hv] at hl
      exact absurd (List.append_eq_nil_iff.1 (List.append_eq_nil_iff.1 hl).1).1 (by decide)
    · rfl
  show ofOpcode (if o.v1 then 2 else 1) _ _ _ = _
  rw [hv]
  have := congrArg (fun x => some (Instr.vexp2 x)) (unpackVF_pack o)
  rw [hv] at this
  exact this) h

theorem vlog2 (o : VF) : Statement (.vlog2 o) := fun b h => decodeSyll_of_raw b _ rfl (by
  have hv : o.v1 = true := by
    have hl : (if o.v1 then [] else [(1, 0)]) ++ inFmt o.fmt fps ++ form o false = [] := limits_nil h
    cases hv : o.v1
    · rw [hv] at hl
      exact absurd (List.append_eq_nil_iff.1 (List.append_eq_nil_iff.1 hl).1).1 (by decide)
    · rfl
  show ofOpcode (if o.v1 then 2 else 1) _ _ _ = _
  rw [hv]
  have := congrArg (fun x => some (Instr.vlog2 x)) (unpackVF_pack o)
  rw [hv] at this
  exact this) h

theorem vrcp (o : VF) : Statement (.vrcp o) := fun b h => decodeSyll_of_raw b _ rfl (by
  have hv : o.v1 = true := by
    have hl : (if o.v1 then [] else [(1, 0)]) ++ inFmt o.fmt fps ++ form o false = [] := limits_nil h
    cases hv : o.v1
    · rw [hv] at hl
      exact absurd (List.append_eq_nil_iff.1 (List.append_eq_nil_iff.1 hl).1).1 (by decide)
    · rfl
  show ofOpcode (if o.v1 then 2 else 1) _ _ _ = _
  rw [hv]
  have := congrArg (fun x => some (Instr.vrcp x)) (unpackVF_pack o)
  rw [hv] at this
  exact this) h

theorem vrsq (o : VF) : Statement (.vrsq o) := fun b h => decodeSyll_of_raw b _ rfl (by
  have hv : o.v1 = true := by
    have hl : (if o.v1 then [] else [(1, 0)]) ++ inFmt o.fmt fps ++ form o false = [] := limits_nil h
    cases hv : o.v1
    · rw [hv] at hl
      exact absurd (List.append_eq_nil_iff.1 (List.append_eq_nil_iff.1 hl).1).1 (by decide)
    · rfl
  show ofOpcode (if o.v1 then 2 else 1) _ _ _ = _
  rw [hv]
  have := congrArg (fun x => some (Instr.vrsq x)) (unpackVF_pack o)
  rw [hv] at this
  exact this) h

theorem vtanh (o : VF) : Statement (.vtanh o) := fun b h => decodeSyll_of_raw b _ rfl (by
  have hv : o.v1 = true := by
    have hl : (if o.v1 then [] else [(1, 0)]) ++ inFmt o.fmt fps ++ form o false = [] := limits_nil h
    cases hv : o.v1
    · rw [hv] at hl
      exact absurd (List.append_eq_nil_iff.1 (List.append_eq_nil_iff.1 hl).1).1 (by decide)
    · rfl
  show ofOpcode (if o.v1 then 2 else 1) _ _ _ = _
  rw [hv]
  have := congrArg (fun x => some (Instr.vtanh x)) (unpackVF_pack o)
  rw [hv] at this
  exact this) h

theorem vstatNorm (o : VF) : Statement (.vstatNorm o) := fun b h => decodeSyll_of_raw b _ rfl (by
  have hl : inFmt o.fmt [11] ++ inSub (Machine.Encoding.vsub o) [0] ++ form o false = [] := limits_nil h
  have hs : Machine.Encoding.vsub o = 0 := sub_of_inSub ((List.append_eq_nil_iff.1 (List.append_eq_nil_iff.1 hl).1).2)
  have hu : some (if Machine.Encoding.vsub (unpackVF o.guard o.v1 (packVF o)) = 0 then Instr.vstatNorm (unpackVF o.guard o.v1 (packVF o)) else Instr.vstatLse (unpackVF o.guard o.v1 (packVF o))) = some (Instr.vstatNorm o) := by
    rw [unpackVF_pack, hs]
    rfl
  show ofOpcode (if o.v1 then 2 else 1) _ _ _ = _
  cases hv : o.v1 <;> rw [hv] at hu <;> exact hu) h

theorem vstatLse (o : VF) : Statement (.vstatLse o) := fun b h => decodeSyll_of_raw b _ rfl (by
  have hl : inFmt o.fmt [11] ++ inSub (Machine.Encoding.vsub o) [1] ++ form o false = [] := limits_nil h
  have hs : Machine.Encoding.vsub o = 1 := sub_of_inSub ((List.append_eq_nil_iff.1 (List.append_eq_nil_iff.1 hl).1).2)
  have hu : some (if Machine.Encoding.vsub (unpackVF o.guard o.v1 (packVF o)) = 0 then Instr.vstatNorm (unpackVF o.guard o.v1 (packVF o)) else Instr.vstatLse (unpackVF o.guard o.v1 (packVF o))) = some (Instr.vstatLse o) := by
    rw [unpackVF_pack, hs]
    rfl
  show ofOpcode (if o.v1 then 2 else 1) _ _ _ = _
  cases hv : o.v1 <;> rw [hv] at hu <;> exact hu) h

theorem vnear (o : VF) : Statement (.vnear o) := fun b h => decodeSyll_of_raw b _ rfl (by
  have := congrArg (fun x => some (Instr.vnear x)) (unpackVF_pack o)
  show ofOpcode (if o.v1 then 2 else 1) _ _ _ = _
  cases hv : o.v1 <;> rw [hv] at this <;> exact this) h

theorem xperm (o : XF) : Statement (.xperm o) := fun b => decodeSyll_of_raw b _ rfl
  (congrArg (fun x => some (Instr.xperm x)) (unpackXF_pack o))

theorem xrot (o : XF) : Statement (.xrot o) := fun b => decodeSyll_of_raw b _ rfl
  (congrArg (fun x => some (Instr.xrot x)) (unpackXF_pack o))

theorem xshift (o : XF) : Statement (.xshift o) := fun b => decodeSyll_of_raw b _ rfl
  (congrArg (fun x => some (Instr.xshift x)) (unpackXF_pack o))

theorem xbcast (o : XF) : Statement (.xbcast o) := fun b => decodeSyll_of_raw b _ rfl
  (congrArg (fun x => some (Instr.xbcast x)) (unpackXF_pack o))

theorem xsec (o : XF) : Statement (.xsec o) := fun b => decodeSyll_of_raw b _ rfl
  (congrArg (fun x => some (Instr.xsec x)) (unpackXF_pack o))

theorem xzip (o : XF) : Statement (.xzip o) := fun b => decodeSyll_of_raw b _ rfl
  (congrArg (fun x => some (Instr.xzip x)) (unpackXF_pack o))

theorem xunzip (o : XF) : Statement (.xunzip o) := fun b => decodeSyll_of_raw b _ rfl
  (congrArg (fun x => some (Instr.xunzip x)) (unpackXF_pack o))

theorem xrev (o : XF) : Statement (.xrev o) := fun b => decodeSyll_of_raw b _ rfl
  (congrArg (fun x => some (Instr.xrev x)) (unpackXF_pack o))

theorem mzero (o : MF) : Statement (.mzero o) := fun b => decodeSyll_of_raw b _ rfl
  (congrArg (fun x => some (Instr.mzero x)) (unpackMF_pack o))

theorem mop (o : MF) : Statement (.mop o) := fun b => decodeSyll_of_raw b _ rfl
  (congrArg (fun x => some (Instr.mop x)) (unpackMF_pack o))

theorem mpart (o : MF) : Statement (.mpart o) := fun b => decodeSyll_of_raw b _ rfl
  (congrArg (fun x => some (Instr.mpart x)) (unpackMF_pack o))

theorem mlut (o : MF) : Statement (.mlut o) := fun b => decodeSyll_of_raw b _ rfl
  (congrArg (fun x => some (Instr.mlut x)) (unpackMF_pack o))

theorem mlut2 (o : MF) : Statement (.mlut2 o) := fun b => decodeSyll_of_raw b _ rfl
  (congrArg (fun x => some (Instr.mlut2 x)) (unpackMF_pack o))

theorem mscl (o : MF) : Statement (.mscl o) := fun b => decodeSyll_of_raw b _ rfl
  (congrArg (fun x => some (Instr.mscl x)) (unpackMF_pack o))

theorem mrd (o : MF) : Statement (.mrd o) := fun b => decodeSyll_of_raw b _ rfl
  (congrArg (fun x => some (Instr.mrd x)) (unpackMF_pack o))

theorem mwr (o : MF) : Statement (.mwr o) := fun b => decodeSyll_of_raw b _ rfl
  (congrArg (fun x => some (Instr.mwr x)) (unpackMF_pack o))

theorem mpeak (o : MF) : Statement (.mpeak o) := fun b h => decodeSyll_of_raw b _ rfl (by
  have hl : inSub o.sub.toNat [0] ++ ix (o.acc.toNat < 12) o.acc.toNat = [] := limits_nil h
  have hs : o.sub = 0#5 := BitVec.eq_of_toNat_eq (sub_of_inSub ((List.append_eq_nil_iff.1 hl).1))
  show some (if (unpackMF o.guard (packMF o)).sub = 0 then Instr.mpeak (unpackMF o.guard (packMF o)) else Instr.mpeakSettle (unpackMF o.guard (packMF o))) = _
  rw [unpackMF_pack, hs]
  rfl) h

theorem mpeakSettle (o : MF) : Statement (.mpeakSettle o) := fun b h => decodeSyll_of_raw b _ rfl (by
  have hl : inSub o.sub.toNat [1] ++ ix (o.acc.toNat < 12) o.acc.toNat = [] := limits_nil h
  have hs : o.sub = 1#5 := BitVec.eq_of_toNat_eq (sub_of_inSub ((List.append_eq_nil_iff.1 hl).1))
  show some (if (unpackMF o.guard (packMF o)).sub = 0 then Instr.mpeak (unpackMF o.guard (packMF o)) else Instr.mpeakSettle (unpackMF o.guard (packMF o))) = _
  rw [unpackMF_pack, hs]
  rfl) h

theorem mopt (o : MF) : Statement (.mopt o) := fun b => decodeSyll_of_raw b _ rfl
  (congrArg (fun x => some (Instr.mopt x)) (unpackMF_pack o))

theorem mxfer (o : MF) : Statement (.mxfer o) := fun b => decodeSyll_of_raw b _ rfl
  (congrArg (fun x => some (Instr.mxfer x)) (unpackMF_pack o))

theorem mwait (o : MF) : Statement (.mwait o) := fun b => decodeSyll_of_raw b _ rfl
  (congrArg (fun x => some (Instr.mwait x)) (unpackMF_pack o))

theorem matrixOpStart (c : Nat) : Statement (.matrixOpStart c) := fun _ h => Bool.noConfusion (show false = true from h)

theorem matrixOpLand (c : Nat) : Statement (.matrixOpLand c) := fun _ h => Bool.noConfusion (show false = true from h)

theorem lds (o : LS) : Statement (.lds o) := fun b => decodeSyll_of_raw b _ rfl
  (congrArg (fun x => some (Instr.lds x)) (unpackLS_pack o))

theorem ldv (o : LS) : Statement (.ldv o) := fun b => decodeSyll_of_raw b _ rfl
  (congrArg (fun x => some (Instr.ldv x)) (unpackLS_pack o))

theorem ldvx (o : LS) : Statement (.ldvx o) := fun b => decodeSyll_of_raw b _ rfl
  (congrArg (fun x => some (Instr.ldvx x)) (unpackLS_pack o))

theorem ldt (o : LS) : Statement (.ldt o) := fun b h => decodeSyll_of_raw b _ rfl (by
  have hl : space o ++ rf o false = [] := limits_nil h
  have hs : o.rf = false := rf_of_rf ((List.append_eq_nil_iff.1 hl).2)
  show some (if !(unpackLS o.guard (packLS o)).rf then Instr.ldt (unpackLS o.guard (packLS o)) else Instr.ldtRing (unpackLS o.guard (packLS o))) = _
  rw [unpackLS_pack, hs]
  rfl) h

theorem ldtRing (o : LS) : Statement (.ldtRing o) := fun b h => decodeSyll_of_raw b _ rfl (by
  have hl : rf o true = [] := limits_nil h
  have hs : o.rf = true := rf_of_rf (hl)
  show some (if !(unpackLS o.guard (packLS o)).rf then Instr.ldt (unpackLS o.guard (packLS o)) else Instr.ldtRing (unpackLS o.guard (packLS o))) = _
  rw [unpackLS_pack, hs]
  rfl) h

theorem ldq (o : LS) : Statement (.ldq o) := fun b => decodeSyll_of_raw b _ rfl
  (congrArg (fun x => some (Instr.ldq x)) (unpackLS_pack o))

theorem ldc (o : LS) : Statement (.ldc o) := fun b => decodeSyll_of_raw b _ rfl
  (congrArg (fun x => some (Instr.ldc x)) (unpackLS_pack o))

theorem ldw (o : LS) : Statement (.ldw o) := fun b => decodeSyll_of_raw b _ rfl
  (congrArg (fun x => some (Instr.ldw x)) (unpackLS_pack o))

theorem ldm (o : LS) : Statement (.ldm o) := fun b => decodeSyll_of_raw b _ rfl
  (congrArg (fun x => some (Instr.ldm x)) (unpackLS_pack o))

theorem ldstat (o : LS) : Statement (.ldstat o) := fun b => decodeSyll_of_raw b _ rfl
  (congrArg (fun x => some (Instr.ldstat x)) (unpackLS_pack o))

theorem probe (o : LS) : Statement (.probe o) := fun b h => decodeSyll_of_raw b _ rfl (by
  have hl : inSub o.sub.toNat [0] ++ rf o false = [] := limits_nil h
  have hs : o.sub = 0#3 := BitVec.eq_of_toNat_eq (sub_of_inSub ((List.append_eq_nil_iff.1 hl).1))
  show some (if !(unpackLS o.guard (packLS o)).sub.getLsbD 0 then Instr.probe (unpackLS o.guard (packLS o)) else Instr.probeFill (unpackLS o.guard (packLS o))) = _
  rw [unpackLS_pack, hs]
  rfl) h

theorem probeFill (o : LS) : Statement (.probeFill o) := fun b h => decodeSyll_of_raw b _ rfl (by
  have hl : inSub o.sub.toNat [1] ++ rf o false = [] := limits_nil h
  have hs : o.sub = 1#3 := BitVec.eq_of_toNat_eq (sub_of_inSub ((List.append_eq_nil_iff.1 hl).1))
  show some (if !(unpackLS o.guard (packLS o)).sub.getLsbD 0 then Instr.probe (unpackLS o.guard (packLS o)) else Instr.probeFill (unpackLS o.guard (packLS o))) = _
  rw [unpackLS_pack, hs]
  rfl) h

theorem sts (o : LS) : Statement (.sts o) := fun b => decodeSyll_of_raw b _ rfl
  (congrArg (fun x => some (Instr.sts x)) (unpackLS_pack o))

theorem stv (o : LS) : Statement (.stv o) := fun b => decodeSyll_of_raw b _ rfl
  (congrArg (fun x => some (Instr.stv x)) (unpackLS_pack o))

theorem stvx (o : LS) : Statement (.stvx o) := fun b => decodeSyll_of_raw b _ rfl
  (congrArg (fun x => some (Instr.stvx x)) (unpackLS_pack o))

theorem stt (o : LS) : Statement (.stt o) := fun b => decodeSyll_of_raw b _ rfl
  (congrArg (fun x => some (Instr.stt x)) (unpackLS_pack o))

theorem stq (o : LS) : Statement (.stq o) := fun b => decodeSyll_of_raw b _ rfl
  (congrArg (fun x => some (Instr.stq x)) (unpackLS_pack o))

theorem stc (o : LS) : Statement (.stc o) := fun b => decodeSyll_of_raw b _ rfl
  (congrArg (fun x => some (Instr.stc x)) (unpackLS_pack o))

theorem stw (o : LS) : Statement (.stw o) := fun b => decodeSyll_of_raw b _ rfl
  (congrArg (fun x => some (Instr.stw x)) (unpackLS_pack o))

theorem stm (o : LS) : Statement (.stm o) := fun b => decodeSyll_of_raw b _ rfl
  (congrArg (fun x => some (Instr.stm x)) (unpackLS_pack o))

theorem atom (o : LS) : Statement (.atom o) := fun b => decodeSyll_of_raw b _ rfl
  (congrArg (fun x => some (Instr.atom x)) (unpackLS_pack o))

theorem tagw (o : LS) : Statement (.tagw o) := fun b => decodeSyll_of_raw b _ rfl
  (congrArg (fun x => some (Instr.tagw x)) (unpackLS_pack o))

theorem cpy (o : EF) : Statement (.cpy o) := fun b => decodeSyll_of_raw b _ rfl
  (congrArg (fun x => some (Instr.cpy x)) (unpackEF_pack o))

theorem cpya (o : EF) : Statement (.cpya o) := fun b => decodeSyll_of_raw b _ rfl
  (congrArg (fun x => some (Instr.cpya x)) (unpackEF_pack o))

theorem cpyw (o : EF) : Statement (.cpyw o) := fun b => decodeSyll_of_raw b _ rfl
  (congrArg (fun x => some (Instr.cpyw x)) (unpackEF_pack o))

theorem enc (o : EF) : Statement (.enc o) := fun b => decodeSyll_of_raw b _ rfl
  (congrArg (fun x => some (Instr.enc x)) (unpackEF_pack o))

theorem cbindPin (o : EF) : Statement (.cbindPin o) := fun b h => decodeSyll_of_raw b _ rfl (by
  have hl : inSub o.sub.toNat [0] = [] := limits_nil h
  have hs : o.sub = 0#5 := BitVec.eq_of_toNat_eq (sub_of_inSub (hl))
  show some (if (unpackEF o.guard (packEF o)).sub = 0 then Instr.cbindPin (unpackEF o.guard (packEF o)) else Instr.cbindFloat (unpackEF o.guard (packEF o))) = _
  rw [unpackEF_pack, hs]
  rfl) h

theorem cbindFloat (o : EF) : Statement (.cbindFloat o) := fun b h => decodeSyll_of_raw b _ rfl (by
  have hl : inSub o.sub.toNat [1] = [] := limits_nil h
  have hs : o.sub = 1#5 := BitVec.eq_of_toNat_eq (sub_of_inSub (hl))
  show some (if (unpackEF o.guard (packEF o)).sub = 0 then Instr.cbindPin (unpackEF o.guard (packEF o)) else Instr.cbindFloat (unpackEF o.guard (packEF o))) = _
  rw [unpackEF_pack, hs]
  rfl) h

theorem cbrev (o : EF) : Statement (.cbrev o) := fun b => decodeSyll_of_raw b _ rfl
  (congrArg (fun x => some (Instr.cbrev x)) (unpackEF_pack o))

theorem cbret (o : EF) : Statement (.cbret o) := fun b => decodeSyll_of_raw b _ rfl
  (congrArg (fun x => some (Instr.cbret x)) (unpackEF_pack o))

theorem splice (o : EF) : Statement (.splice o) := fun b h => decodeSyll_of_raw b _ rfl (by
  have hl : inSub o.sub.toNat [0] = [] := limits_nil h
  have hs : o.sub = 0#5 := BitVec.eq_of_toNat_eq (sub_of_inSub (hl))
  show some (if (unpackEF o.guard (packEF o)).sub = 0 then Instr.splice (unpackEF o.guard (packEF o)) else Instr.spliceTrap (unpackEF o.guard (packEF o))) = _
  rw [unpackEF_pack, hs]
  rfl) h

theorem spliceTrap (o : EF) : Statement (.spliceTrap o) := fun b h => decodeSyll_of_raw b _ rfl (by
  have hl : inSub o.sub.toNat [1] = [] := limits_nil h
  have hs : o.sub = 1#5 := BitVec.eq_of_toNat_eq (sub_of_inSub (hl))
  show some (if (unpackEF o.guard (packEF o)).sub = 0 then Instr.splice (unpackEF o.guard (packEF o)) else Instr.spliceTrap (unpackEF o.guard (packEF o))) = _
  rw [unpackEF_pack, hs]
  rfl) h

theorem pin (o : EF) : Statement (.pin o) := fun b => decodeSyll_of_raw b _ rfl
  (congrArg (fun x => some (Instr.pin x)) (unpackEF_pack o))

theorem unpin (o : EF) : Statement (.unpin o) := fun b => decodeSyll_of_raw b _ rfl
  (congrArg (fun x => some (Instr.unpin x)) (unpackEF_pack o))

theorem share (o : EF) : Statement (.share o) := fun b => decodeSyll_of_raw b _ rfl
  (congrArg (fun x => some (Instr.share x)) (unpackEF_pack o))

theorem pgalloc (o : EF) : Statement (.pgalloc o) := fun b => decodeSyll_of_raw b _ rfl
  (congrArg (fun x => some (Instr.pgalloc x)) (unpackEF_pack o))

theorem pgfree (o : EF) : Statement (.pgfree o) := fun b => decodeSyll_of_raw b _ rfl
  (congrArg (fun x => some (Instr.pgfree x)) (unpackEF_pack o))

theorem xlat (o : EF) : Statement (.xlat o) := fun b => decodeSyll_of_raw b _ rfl
  (congrArg (fun x => some (Instr.xlat x)) (unpackEF_pack o))

theorem hrel (o : EF) : Statement (.hrel o) := fun b => decodeSyll_of_raw b _ rfl
  (congrArg (fun x => some (Instr.hrel x)) (unpackEF_pack o))

theorem advProd (o : EF) : Statement (.advProd o) := fun b h => decodeSyll_of_raw b _ rfl (by
  have hl : inSub o.sub.toNat [0] = [] := limits_nil h
  have hs : o.sub = 0#5 := BitVec.eq_of_toNat_eq (sub_of_inSub (hl))
  show some (if (unpackEF o.guard (packEF o)).sub = 0 then Instr.advProd (unpackEF o.guard (packEF o)) else Instr.advCons (unpackEF o.guard (packEF o))) = _
  rw [unpackEF_pack, hs]
  rfl) h

theorem advCons (o : EF) : Statement (.advCons o) := fun b h => decodeSyll_of_raw b _ rfl (by
  have hl : inSub o.sub.toNat [1] = [] := limits_nil h
  have hs : o.sub = 1#5 := BitVec.eq_of_toNat_eq (sub_of_inSub (hl))
  show some (if (unpackEF o.guard (packEF o)).sub = 0 then Instr.advProd (unpackEF o.guard (packEF o)) else Instr.advCons (unpackEF o.guard (packEF o))) = _
  rw [unpackEF_pack, hs]
  rfl) h

theorem ringset (o : EF) : Statement (.ringset o) := fun b => decodeSyll_of_raw b _ rfl
  (congrArg (fun x => some (Instr.ringset x)) (unpackEF_pack o))

theorem msg (o : EF) : Statement (.msg o) := fun b => decodeSyll_of_raw b _ rfl
  (congrArg (fun x => some (Instr.msg x)) (unpackEF_pack o))

theorem task (o : EF) : Statement (.task o) := fun b => decodeSyll_of_raw b _ rfl
  (congrArg (fun x => some (Instr.task x)) (unpackEF_pack o))

theorem evsig (o : EF) : Statement (.evsig o) := fun b => decodeSyll_of_raw b _ rfl
  (congrArg (fun x => some (Instr.evsig x)) (unpackEF_pack o))

theorem evwait (o : EF) : Statement (.evwait o) := fun b => decodeSyll_of_raw b _ rfl
  (congrArg (fun x => some (Instr.evwait x)) (unpackEF_pack o))

theorem bar (o : EF) : Statement (.bar o) := fun b => decodeSyll_of_raw b _ rfl
  (congrArg (fun x => some (Instr.bar x)) (unpackEF_pack o))

theorem sync (o : EF) : Statement (.sync o) := fun b => decodeSyll_of_raw b _ rfl
  (congrArg (fun x => some (Instr.sync x)) (unpackEF_pack o))

theorem fence (o : EF) : Statement (.fence o) := fun b => decodeSyll_of_raw b _ rfl
  (congrArg (fun x => some (Instr.fence x)) (unpackEF_pack o))

theorem drain (o : EF) : Statement (.drain o) := fun b => decodeSyll_of_raw b _ rfl
  (congrArg (fun x => some (Instr.drain x)) (unpackEF_pack o))

theorem step (o : EF) : Statement (.step o) := fun b => decodeSyll_of_raw b _ rfl
  (congrArg (fun x => some (Instr.step x)) (unpackEF_pack o))

theorem twait (o : EF) : Statement (.twait o) := fun b => decodeSyll_of_raw b _ rfl
  (congrArg (fun x => some (Instr.twait x)) (unpackEF_pack o))

theorem flapp (o : EF) : Statement (.flapp o) := fun b => decodeSyll_of_raw b _ rfl
  (congrArg (fun x => some (Instr.flapp x)) (unpackEF_pack o))

theorem rmw (o : EF) : Statement (.rmw o) := fun b => decodeSyll_of_raw b _ rfl
  (congrArg (fun x => some (Instr.rmw x)) (unpackEF_pack o))

theorem resultLands (c k : Nat) : Statement (.resultLands c k) := fun _ h => Bool.noConfusion (show false = true from h)

theorem engineCommandStart (c e : Nat) : Statement (.engineCommandStart c e) := fun _ h => Bool.noConfusion (show false = true from h)

theorem timedCommandStart (c e : Nat) : Statement (.timedCommandStart c e) := fun _ h => Bool.noConfusion (show false = true from h)

theorem engineCompletion (c id : Nat) : Statement (.engineCompletion c id) := fun _ h => Bool.noConfusion (show false = true from h)

theorem cbindArrayLands (c id : Nat) : Statement (.cbindArrayLands c id) := fun _ h => Bool.noConfusion (show false = true from h)

theorem cbrevPublish (c id : Nat) : Statement (.cbrevPublish c id) := fun _ h => Bool.noConfusion (show false = true from h)

theorem encComplete (c id : Nat) : Statement (.encComplete c id) := fun _ h => Bool.noConfusion (show false = true from h)

theorem splicePerform (c id : Nat) : Statement (.splicePerform c id) := fun _ h => Bool.noConfusion (show false = true from h)

theorem pinPerform (c id : Nat) : Statement (.pinPerform c id) := fun _ h => Bool.noConfusion (show false = true from h)

theorem unpinDrop (c id : Nat) : Statement (.unpinDrop c id) := fun _ h => Bool.noConfusion (show false = true from h)

theorem pgallocPageTaken (c id : Nat) : Statement (.pgallocPageTaken c id) := fun _ h => Bool.noConfusion (show false = true from h)

theorem scrubStart (pfn : Nat) : Statement (.scrubStart pfn) := fun _ h => Bool.noConfusion (show false = true from h)

theorem scrubDone (pfn : Nat) : Statement (.scrubDone pfn) := fun _ h => Bool.noConfusion (show false = true from h)

theorem scrubLineClear (pfn line : Nat) : Statement (.scrubLineClear pfn line) := fun _ h => Bool.noConfusion (show false = true from h)

theorem probeFillLands (c id : Nat) : Statement (.probeFillLands c id) := fun _ h => Bool.noConfusion (show false = true from h)

theorem pageWalkDone (c k : Nat) : Statement (.pageWalkDone c k) := fun _ h => Bool.noConfusion (show false = true from h)

theorem icacheFill (c k : Nat) : Statement (.icacheFill c k) := fun _ h => Bool.noConfusion (show false = true from h)

theorem mtagRevoke (f tag : Nat) : Statement (.mtagRevoke f tag) := fun _ h => Bool.noConfusion (show false = true from h)

theorem revokeDone (f tag : Nat) : Statement (.revokeDone f tag) := fun _ h => Bool.noConfusion (show false = true from h)

theorem pageEvict (f va : Nat) : Statement (.pageEvict f va) := fun _ h => Bool.noConfusion (show false = true from h)

theorem pageExpand (f va c k : Nat) : Statement (.pageExpand f va c k) := fun _ h => Bool.noConfusion (show false = true from h)

theorem logErase (f log : Nat) : Statement (.logErase f log) := fun _ h => Bool.noConfusion (show false = true from h)

theorem svcReply (die : Nat) (reply : BitVec 512) : Statement (.svcReply die reply) := fun _ h => Bool.noConfusion (show false = true from h)

theorem remoteDataArrive (f link : Nat) (data : List Byte) : Statement (.remoteDataArrive f link data) := fun _ h => Bool.noConfusion (show false = true from h)

theorem remoteSendAccept (f link : Nat) : Statement (.remoteSendAccept f link) := fun _ h => Bool.noConfusion (show false = true from h)

theorem slotReturnArrive (f link : Nat) : Statement (.slotReturnArrive f link) := fun _ h => Bool.noConfusion (show false = true from h)

theorem launchRecordWrite (q : Nat) (r : BitVec 512) : Statement (.launchRecordWrite q r) := fun _ h => Bool.noConfusion (show false = true from h)

theorem queueRecordAccept (q : Nat) : Statement (.queueRecordAccept q) := fun _ h => Bool.noConfusion (show false = true from h)

theorem negativeAcknowledgement (q : Nat) : Statement (.negativeAcknowledgement q) := fun _ h => Bool.noConfusion (show false = true from h)

theorem replay (c k q : Nat) : Statement (.replay c k q) := fun _ h => Bool.noConfusion (show false = true from h)

theorem dispatch : Statement .dispatch := fun _ h => Bool.noConfusion (show false = true from h)

theorem contextSwitch (c : Nat) : Statement (.contextSwitch c) := fun _ h => Bool.noConfusion (show false = true from h)

theorem agingSwitch (c : Nat) : Statement (.agingSwitch c) := fun _ h => Bool.noConfusion (show false = true from h)

theorem teamResume (t : Nat) : Statement (.teamResume t) := fun _ h => Bool.noConfusion (show false = true from h)

theorem barRelease (c k : Nat) : Statement (.barRelease c k) := fun _ h => Bool.noConfusion (show false = true from h)

theorem stepRelease (c k : Nat) : Statement (.stepRelease c k) := fun _ h => Bool.noConfusion (show false = true from h)

theorem bindingReloadLands (c k : Nat) : Statement (.bindingReloadLands c k) := fun _ h => Bool.noConfusion (show false = true from h)

theorem syncRelease (c k : Nat) : Statement (.syncRelease c k) := fun _ h => Bool.noConfusion (show false = true from h)

theorem preemptSave (c k : Nat) : Statement (.preemptSave c k) := fun _ h => Bool.noConfusion (show false = true from h)

theorem contextRestore (c k : Nat) : Statement (.contextRestore c k) := fun _ h => Bool.noConfusion (show false = true from h)

theorem taskComplete (t : Nat) : Statement (.taskComplete t) := fun _ h => Bool.noConfusion (show false = true from h)

theorem graphLaunchNode (g n : Nat) : Statement (.graphLaunchNode g n) := fun _ h => Bool.noConfusion (show false = true from h)

theorem graphIfNode (g n : Nat) : Statement (.graphIfNode g n) := fun _ h => Bool.noConfusion (show false = true from h)

theorem graphWhileNode (g n : Nat) : Statement (.graphWhileNode g n) := fun _ h => Bool.noConfusion (show false = true from h)

theorem graphSwitchNode (g n : Nat) : Statement (.graphSwitchNode g n) := fun _ h => Bool.noConfusion (show false = true from h)

theorem graphJoinNode (g n : Nat) : Statement (.graphJoinNode g n) := fun _ h => Bool.noConfusion (show false = true from h)

theorem supervisorResume (c k : Nat) : Statement (.supervisorResume c k) := fun _ h => Bool.noConfusion (show false = true from h)

theorem saveFaulted (c k : Nat) : Statement (.saveFaulted c k) := fun _ h => Bool.noConfusion (show false = true from h)

theorem abandonTask (t : Nat) : Statement (.abandonTask t) := fun _ h => Bool.noConfusion (show false = true from h)

theorem resumeCommand (c id : Nat) : Statement (.resumeCommand c id) := fun _ h => Bool.noConfusion (show false = true from h)

theorem discardCommand (c id : Nat) : Statement (.discardCommand c id) := fun _ h => Bool.noConfusion (show false = true from h)

theorem functionEnable (f : Nat) (blk : BitVec 1024) : Statement (.functionEnable f blk) := fun _ h => Bool.noConfusion (show false = true from h)

theorem functionUpdate (f : Nat) (blk : BitVec 1024) : Statement (.functionUpdate f blk) := fun _ h => Bool.noConfusion (show false = true from h)

theorem functionReset (f : Nat) : Statement (.functionReset f) := fun _ h => Bool.noConfusion (show false = true from h)

theorem queueConfigWrite (q : Nat) (w : BitVec 64) : Statement (.queueConfigWrite q w) := fun _ h => Bool.noConfusion (show false = true from h)

theorem remoteRingEntryWrite (f i : Nat) (w : BitVec 128) : Statement (.remoteRingEntryWrite f i w) := fun _ h => Bool.noConfusion (show false = true from h)

theorem managementWrite (m : Mgmt) : Statement (.managementWrite m) := fun _ h => Bool.noConfusion (show false = true from h)

theorem packageReset (failStep cause : Nat) : Statement (.packageReset failStep cause) := fun _ h => Bool.noConfusion (show false = true from h)

theorem alignFlitSend : Statement .alignFlitSend := fun _ h => Bool.noConfusion (show false = true from h)

theorem alignFlitReceive (rootTick : BitVec 64) (steps : List (Nat × BitVec 64)) : Statement (.alignFlitReceive rootTick steps) := fun _ h => Bool.noConfusion (show false = true from h)

theorem alignTimeout : Statement .alignTimeout := fun _ h => Bool.noConfusion (show false = true from h)

theorem alignRejoin : Statement .alignRejoin := fun _ h => Bool.noConfusion (show false = true from h)

theorem linkFlitResend (port lane : Nat) (syn : BitVec 64) : Statement (.linkFlitResend port lane syn) := fun _ h => Bool.noConfusion (show false = true from h)

theorem endToEndRetry (c id : Nat) (ok : Bool) : Statement (.endToEndRetry c id ok) := fun _ h => Bool.noConfusion (show false = true from h)

theorem cxlTimeout (c id : Nat) : Statement (.cxlTimeout c id) := fun _ h => Bool.noConfusion (show false = true from h)

theorem rowThrottle (bank row : Nat) : Statement (.rowThrottle bank row) := fun _ h => Bool.noConfusion (show false = true from h)

theorem throttleRelease (bank row : Nat) : Statement (.throttleRelease bank row) := fun _ h => Bool.noConfusion (show false = true from h)

theorem studBookDrain : Statement .studBookDrain := fun _ h => Bool.noConfusion (show false = true from h)

theorem secureErase (rootSigned : Bool) : Statement (.secureErase rootSigned) := fun _ h => Bool.noConfusion (show false = true from h)

theorem windowAccessPerform (c : Nat) : Statement (.windowAccessPerform c) := fun _ h => Bool.noConfusion (show false = true from h)

theorem attestationReport (nonce : BitVec 256) : Statement (.attestationReport nonce) := fun _ h => Bool.noConfusion (show false = true from h)

theorem linkDown (port : Nat) : Statement (.linkDown port) := fun _ h => Bool.noConfusion (show false = true from h)

end Sys2Proof.Laws.RoundTrip
end

