-- ==== Sys2Proof/Laws/Real.lean ====
section
/-! SUPPORT. What rounding to FP32 can give: a code of 32 bits. -/

namespace Sys2Proof.Machine

/-- The floor of the quotient's logarithm: the quotient lies below the next power of two. -/
theorem lt_floorLog2 (num den : Nat) (hd : den ≠ 0) :
    (num : ℚ) / den < 2 ^ (floorLog2 num den + 1) := by
  have hd' : (0 : ℚ) < den := by exact_mod_cast Nat.pos_of_ne_zero hd
  rw [div_lt_iff₀ hd']
  have key : (num : ℚ) < 2 ^ ((Nat.log2 num : Int) - Nat.log2 den + 1) * den := by
    have h1 : (num : ℚ) < 2 ^ ((Nat.log2 num : Int) + 1) := by
      exact_mod_cast Nat.lt_log2_self (n := num)
    have h2 : (2 : ℚ) ^ (Nat.log2 den : Int) ≤ den := by
      exact_mod_cast Nat.log2_self_le hd
    calc (num : ℚ) < 2 ^ ((Nat.log2 num : Int) + 1) := h1
      _ = 2 ^ ((Nat.log2 num : Int) - Nat.log2 den + 1) * 2 ^ (Nat.log2 den : Int) := by
        rw [← zpow_add₀ (by norm_num)]; congr 1; ring
      _ ≤ _ := by gcongr
  unfold floorLog2
  extract_lets l ok
  split
  · exact key
  · rename_i h
    by_cases hl : 0 ≤ l
    · have h' : num < den <<< l.toNat := by simpa [ok, hl] using h
      rw [Nat.shiftLeft_eq] at h'
      have : (2 : ℚ) ^ (l - 1 + 1) = 2 ^ l.toNat := by
        rw [sub_add_cancel, ← zpow_natCast, Int.toNat_of_nonneg hl]
      rw [this]
      have : ((num : ℕ) : ℚ) < ((den * 2 ^ l.toNat : ℕ) : ℚ) := by exact_mod_cast h'
      push_cast at this; linarith [this, mul_comm (den : ℚ) (2 ^ l.toNat)]
    · have h' : num <<< (-l).toNat < den := by simpa [ok, hl] using h
      rw [Nat.shiftLeft_eq] at h'
      have e : (2 : ℚ) ^ (l - 1 + 1) * 2 ^ (-l).toNat = 1 := by
        rw [sub_add_cancel, ← zpow_natCast, Int.toNat_of_nonneg (by omega), ← zpow_add₀ (by norm_num)]; simp
      have h2 : ((num : ℕ) : ℚ) * 2 ^ (-l).toNat < den := by exact_mod_cast h'
      have p : (0 : ℚ) < 2 ^ (-l).toNat := by positivity
      have : (num : ℚ) * 2 ^ (-l).toNat < (2 ^ (l - 1 + 1) * den) * 2 ^ (-l).toNat := by
        calc _ < (den : ℚ) := h2
          _ = _ := by rw [mul_right_comm, e, one_mul]
      exact lt_of_mul_lt_mul_right this p.le

/-- A magnitude cut at weight 2^u is below 2^k where the quotient is below 2^(u + k). -/
theorem cut_n_lt (num den k : Nat) (u : Int) (hd : den ≠ 0) (h : (num : ℚ) / den < 2 ^ (u + k)) : (cut num den u).n < 2 ^ k := by
  have hd' : (0 : ℚ) < den := by exact_mod_cast Nat.pos_of_ne_zero hd
  rw [div_lt_iff₀ hd', zpow_add₀ (by norm_num), zpow_natCast] at h
  simp only [cut]
  by_cases hu : 0 ≤ u
  · simp only [hu, if_true, Nat.shiftLeft_eq]
    rw [Nat.div_lt_iff_lt_mul (by positivity)]
    rw [← Int.toNat_of_nonneg hu, zpow_natCast] at h
    have : ((num : ℕ) : ℚ) < ((2 ^ k * (den * 2 ^ u.toNat) : ℕ) : ℚ) := by push_cast; linarith [h]
    exact_mod_cast this
  · simp only [hu, if_false, Nat.shiftLeft_eq]
    rw [Nat.div_lt_iff_lt_mul (Nat.pos_of_ne_zero hd)]
    have e : (2 : ℚ) ^ u * 2 ^ (-u).toNat = 1 := by
      rw [← zpow_natCast, Int.toNat_of_nonneg (by omega), ← zpow_add₀ (by norm_num)]; simp
    have p : (0 : ℚ) < 2 ^ (-u).toNat := by positivity
    have : ((num * 2 ^ (-u).toNat : ℕ) : ℚ) < ((2 ^ k * den : ℕ) : ℚ) := by
      push_cast
      calc (num : ℚ) * 2 ^ (-u).toNat < (2 ^ u * 2 ^ k * den) * 2 ^ (-u).toNat := by gcongr
        _ = (2 ^ u * 2 ^ (-u).toNat) * (2 ^ k * den) := by ring
        _ = _ := by rw [e, one_mul]
    exact_mod_cast this

/-- A value that is not beyond the largest finite FP32 value has a code below that of +∞. -/
theorem packMag_f32_lt (n : Nat) (u : Int) (hn : n ≤ 2 ^ 24) (hb : beyond .f32 n u = false) : packMag .f32 n u < 0x7F800000 := by
  have hv : FFmt.f32.value FFmt.f32.maxCode = .fin false (2 ^ 24 - 1) 104 := by decide
  have hb' : ¬ Val.shiftTo false (2 ^ 24 - 1) 104 (min 104 u) < Val.shiftTo false n u (min 104 u) := by
    simpa [beyond, hv, Val.lt] using hb
  have hp : packMag .f32 n u = if n < 2 ^ 23 then n else
      (((if n = 2 ^ (23 + 1) then u + 1 else u) + (23 : Nat) + (127 : Int)).toNat <<< 23) +
        ((if n = 2 ^ (23 + 1) then n / 2 else n) - 2 ^ 23) := rfl
  rw [hp]
  by_cases h : n < 2 ^ 23
  · rw [if_pos h]; omega
  · rw [if_neg h]
    have hu : u ≤ 104 := by
      by_contra hu
      have e : min 104 u = 104 := by omega
      apply hb'
      rw [e]
      simp only [Val.shiftTo, Nat.shiftLeft_eq]
      have : 2 ≤ 2 ^ (u - 104).toNat := by
        calc 2 = 2 ^ 1 := rfl
          _ ≤ _ := Nat.pow_le_pow_right (by norm_num) (by omega)
      have : 2 ^ 23 * 2 ≤ n * 2 ^ (u - 104).toNat := Nat.mul_le_mul (by omega) this
      generalize n * 2 ^ (u - 104).toNat = x at this ⊢
      simp; omega
    by_cases h24 : n = 2 ^ 24
    · have hu' : u ≤ 103 := by
        by_contra hu'
        have e : u = 104 := by omega
        apply hb'
        subst e h24
        decide
      simp only [h24, Nat.shiftLeft_eq]
      norm_num
      omega
    · simp only [show ¬ n = 2 ^ (23 + 1) from h24, if_false, Nat.shiftLeft_eq]
      norm_num
      omega

/-- A choice is at most one above the cut. -/
theorem RMode.choose_rne_le (c : Cut) (num den : Nat) (u : Int) : RMode.rne.choose c num den u ≤ c.n + 1 := by
  simp only [RMode.choose]
  split <;> try split
  all_goals omega

/-- A positive quotient rounds to a code of 32 bits. -/
theorem roundMag_f32_lt (neg : Bool) (num den : Nat) (hd : den ≠ 0) : (roundMag .f32 .rne neg num den).code < 2 ^ 32 := by
  have hs : FFmt.f32.signBit neg ≤ 2 ^ 31 := by cases neg <;> decide
  have hi : FFmt.f32.infCode = 0x7F800000 := rfl
  simp only [roundMag]
  split
  · simp only []; omega
  · rename_i hb
    have hc : (cut num den (ulpOf .f32 num den)).n < 2 ^ 24 := by
      apply cut_n_lt _ _ _ _ hd
      refine (lt_floorLog2 num den hd).trans_le (zpow_le_zpow_right₀ (by norm_num) ?_)
      simp only [ulpOf, FFmt.mb]; push_cast; omega
    have := packMag_f32_lt _ _ (le_trans (RMode.choose_rne_le _ num den _) hc) (by simpa using hb)
    simp only []; omega

/-- RNE_FP32 gives a code of 32 bits. -/
theorem rne32_lt (v : Val) : rne32 v < 2 ^ 32 := by
  have hs (neg : Bool) : FFmt.f32.signBit neg ≤ 2 ^ 31 := by cases neg <;> decide
  match v with
  | .nan => decide
  | .inf neg => have := hs neg; simp only [rne32, round, show FFmt.f32.infCode = 0x7F800000 from rfl]; omega
  | .fin neg 0 _ => have := hs neg; simp only [rne32, round]; omega
  | .fin neg (k + 1) e =>
    simp only [rne32, round]
    split
    · exact roundMag_f32_lt neg _ 1 (by norm_num)
    · exact roundMag_f32_lt neg _ _ (by simp [Nat.shiftLeft_eq])

end Sys2Proof.Machine
end

