-- ==== Sys2Proof/Laws/Safety.lean ====
section
/-! SUPPORT. How an instruction comes to complete: by results in flight, by a command in a queue. -/

namespace Sys2Proof.Laws

open Sys2Proof.Machine

/-- Checks in a row raise nothing exactly where each raises nothing. -/
theorem causes_append {l k : List Cause} (hl : l = []) (hk : k = []) : l ++ k = [] := by rw [hl, hk]; rfl

/-- A wait whose condition holds is none. -/
theorem await_eq_nil {ok : Bool} {b : Block} (h : ok = true) : await ok b = [] := by rw [h]; rfl

/-- An operation with its guard, no wait and no cause has its effect. -/
theorem issueOp_completes {slot : Nat} {guard : Bool} {waits : List Block} {causes : List Cause} {effect : State → State} {s : State}
    (hg : guard = true) (hw : waits = []) (hc : causes = []) : issueOp slot guard waits causes effect s = .next (effect s) := by
  rw [hg, hw, hc]; rfl

/-- Results that an operation issues are what it puts in flight. -/
theorem puts_of_issueFlights {i : Instr} {s : State} {slot : Nat} {guard : Bool} {causes : List Cause} {fs : List Flight}
    (he : exec i s = issueFlights slot guard causes fs s) (hg : guard = true) (hc : causes = []) : Puts i s fs := by
  intro h
  rw [he]
  exact issueFlights_runs hg hc h

/-- As `puts_of_issueFlights`, where the operation changes its context besides. -/
theorem puts_of_issueCtx {i : Instr} {s : State} {slot : Nat} {guard : Bool} {waits : List Block} {causes : List Cause} {fs : List Flight}
    {effect : Context → Context} (he : exec i s = issueCtx slot guard waits causes effect s) (hg : guard = true) (hw : waits = [])
    (hc : collision s.ctx.flights fs = none → causes = []) (hf : effect s.ctx = s.ctx.fly fs) : Puts i s fs := by
  intro h
  rw [he, ← hf]
  unfold issueCtx
  exact issueOp_completes hg hw (hc h)

/-- A command that an operation puts into its queue. -/
theorem queues_of_issueOp {i : Instr} {s t : State} {op : Op} {eng : Nat} {ring : Option Nat} {p : Cmd → Prop} {guard : Bool}
    {waits : List Block} {causes : List Cause} {effect : State → State} {m : Cmd}
    (he : exec i s = issueOp 7 guard waits causes effect s) (hg : guard = true) (hw : waits = []) (hc : causes = [])
    (hm : effect s = enqueue m t)
    (hf : m.op = op ∧ m.eng = eng ∧ m.ring = ring ∧ m.ctx = s.ctxId ∧ m.task = s.ctx.task ∧ m.func = s.ctx.func.toNat ∧ m.pc = s.ctx.pc
      ∧ m.phase = .queued ∧ p m) : Queues i s t op eng ring p :=
  ⟨m, by rw [he, issueOp_completes hg hw hc, hm], hf⟩

end Sys2Proof.Laws
end

