-- ==== Sys2Proof/Laws/State.lean ====
section
/-! SUPPORT. One lemma for each field under each named update of the state and of a context, true by computation, so that no proof unfolds an update. -/

namespace Sys2Proof.Machine

/-! ## A fresh identity -/

@[simp] theorem State.bump_coreId (s : State) : (s.bump).coreId = s.coreId := rfl
@[simp] theorem State.bump_ctxId (s : State) : (s.bump).ctxId = s.ctxId := rfl
@[simp] theorem State.bump_ctx (s : State) : (s.bump).ctx = s.ctx := rfl
@[simp] theorem State.bump_core (s : State) : (s.bump).core = s.core := rfl
@[simp] theorem State.bump_cores (s : State) : (s.bump).cores = s.cores := rfl
@[simp] theorem State.bump_cycle (s : State) : (s.bump).cycle = s.cycle := rfl
@[simp] theorem State.bump_phase (s : State) : (s.bump).phase = s.phase := rfl
@[simp] theorem State.bump_tick (s : State) : (s.bump).tick = s.tick := rfl
@[simp] theorem State.bump_agenda (s : State) : (s.bump).agenda = s.agenda := rfl
@[simp] theorem State.bump_fresh (s : State) : (s.bump).fresh = s.fresh + 1 := rfl
@[simp] theorem State.bump_mem (s : State) : (s.bump).mem = s.mem := rfl
@[simp] theorem State.bump_hub (s : State) : (s.bump).hub = s.hub := rfl

/-! ## The hub -/

@[simp] theorem modHub_coreId (f : Hub → Hub) (s : State) : (modHub f s).coreId = s.coreId := rfl
@[simp] theorem modHub_ctxId (f : Hub → Hub) (s : State) : (modHub f s).ctxId = s.ctxId := rfl
@[simp] theorem modHub_ctx (f : Hub → Hub) (s : State) : (modHub f s).ctx = s.ctx := rfl
@[simp] theorem modHub_core (f : Hub → Hub) (s : State) : (modHub f s).core = s.core := rfl
@[simp] theorem modHub_cores (f : Hub → Hub) (s : State) : (modHub f s).cores = s.cores := rfl
@[simp] theorem modHub_cycle (f : Hub → Hub) (s : State) : (modHub f s).cycle = s.cycle := rfl
@[simp] theorem modHub_phase (f : Hub → Hub) (s : State) : (modHub f s).phase = s.phase := rfl
@[simp] theorem modHub_tick (f : Hub → Hub) (s : State) : (modHub f s).tick = s.tick := rfl
@[simp] theorem modHub_agenda (f : Hub → Hub) (s : State) : (modHub f s).agenda = s.agenda := rfl
@[simp] theorem modHub_fresh (f : Hub → Hub) (s : State) : (modHub f s).fresh = s.fresh := rfl
@[simp] theorem modHub_mem (f : Hub → Hub) (s : State) : (modHub f s).mem = s.mem := rfl
@[simp] theorem modHub_hub (f : Hub → Hub) (s : State) : (modHub f s).hub = f s.hub := rfl

/-! ## A wait -/

@[simp] theorem blockOn_coreId (b : Block) (s : State) : (blockOn b s).coreId = s.coreId := rfl
@[simp] theorem blockOn_ctxId (b : Block) (s : State) : (blockOn b s).ctxId = s.ctxId := rfl
@[simp] theorem blockOn_core (b : Block) (s : State) : (blockOn b s).core = s.core := rfl
@[simp] theorem blockOn_cores (b : Block) (s : State) : (blockOn b s).cores = s.cores := rfl
@[simp] theorem blockOn_cycle (b : Block) (s : State) : (blockOn b s).cycle = s.cycle := rfl
@[simp] theorem blockOn_phase (b : Block) (s : State) : (blockOn b s).phase = s.phase := rfl
@[simp] theorem blockOn_tick (b : Block) (s : State) : (blockOn b s).tick = s.tick := rfl
@[simp] theorem blockOn_agenda (b : Block) (s : State) : (blockOn b s).agenda = s.agenda := rfl
@[simp] theorem blockOn_fresh (b : Block) (s : State) : (blockOn b s).fresh = s.fresh := rfl
@[simp] theorem blockOn_mem (b : Block) (s : State) : (blockOn b s).mem = s.mem := rfl
@[simp] theorem blockOn_hub (b : Block) (s : State) : (blockOn b s).hub = s.hub := rfl

/-! ## The context of a wait -/

@[simp] theorem blockOn_ctx_pc (b : Block) (s : State) : ((blockOn b s).ctx).pc = s.ctx.pc := rfl
@[simp] theorem blockOn_ctx_life (b : Block) (s : State) : ((blockOn b s).ctx).life = s.ctx.life := rfl
@[simp] theorem blockOn_ctx_block (b : Block) (s : State) : ((blockOn b s).ctx).block = some b := rfl
@[simp] theorem blockOn_ctx_frozen (b : Block) (s : State) : ((blockOn b s).ctx).frozen = s.ctx.frozen := rfl
@[simp] theorem blockOn_ctx_release (b : Block) (s : State) : ((blockOn b s).ctx).release = s.ctx.release := rfl
@[simp] theorem blockOn_ctx_yielded (b : Block) (s : State) : ((blockOn b s).ctx).yielded = (s.ctx.yielded || b == .yield) := rfl
@[simp] theorem blockOn_ctx_func (b : Block) (s : State) : ((blockOn b s).ctx).func = s.ctx.func := rfl
@[simp] theorem blockOn_ctx_supv (b : Block) (s : State) : ((blockOn b s).ctx).supv = s.ctx.supv := rfl
@[simp] theorem blockOn_ctx_task (b : Block) (s : State) : ((blockOn b s).ctx).task = s.ctx.task := rfl
@[simp] theorem blockOn_ctx_delay (b : Block) (s : State) : ((blockOn b s).ctx).delay = s.ctx.delay := rfl
@[simp] theorem blockOn_ctx_target (b : Block) (s : State) : ((blockOn b s).ctx).target = s.ctx.target := rfl
@[simp] theorem blockOn_ctx_lc0 (b : Block) (s : State) : ((blockOn b s).ctx).lc0 = s.ctx.lc0 := rfl
@[simp] theorem blockOn_ctx_lc1 (b : Block) (s : State) : ((blockOn b s).ctx).lc1 = s.ctx.lc1 := rfl
@[simp] theorem blockOn_ctx_ls0 (b : Block) (s : State) : ((blockOn b s).ctx).ls0 = s.ctx.ls0 := rfl
@[simp] theorem blockOn_ctx_ls1 (b : Block) (s : State) : ((blockOn b s).ctx).ls1 = s.ctx.ls1 := rfl
@[simp] theorem blockOn_ctx_le0 (b : Block) (s : State) : ((blockOn b s).ctx).le0 = s.ctx.le0 := rfl
@[simp] theorem blockOn_ctx_le1 (b : Block) (s : State) : ((blockOn b s).ctx).le1 = s.ctx.le1 := rfl
@[simp] theorem blockOn_ctx_act0 (b : Block) (s : State) : ((blockOn b s).ctx).act0 = s.ctx.act0 := rfl
@[simp] theorem blockOn_ctx_act1 (b : Block) (s : State) : ((blockOn b s).ctx).act1 = s.ctx.act1 := rfl
@[simp] theorem blockOn_ctx_exiting (b : Block) (s : State) : ((blockOn b s).ctx).exiting = s.ctx.exiting := rfl
@[simp] theorem blockOn_ctx_jump (b : Block) (s : State) : ((blockOn b s).ctx).jump = s.ctx.jump := rfl
@[simp] theorem blockOn_ctx_len (b : Block) (s : State) : ((blockOn b s).ctx).len = s.ctx.len := rfl
@[simp] theorem blockOn_ctx_delayLen (b : Block) (s : State) : ((blockOn b s).ctx).delayLen = s.ctx.delayLen := rfl
@[simp] theorem blockOn_ctx_g (b : Block) (s : State) : ((blockOn b s).ctx).g = s.ctx.g := rfl
@[simp] theorem blockOn_ctx_p (b : Block) (s : State) : ((blockOn b s).ctx).p = s.ctx.p := rfl
@[simp] theorem blockOn_ctx_v (b : Block) (s : State) : ((blockOn b s).ctx).v = s.ctx.v := rfl
@[simp] theorem blockOn_ctx_m (b : Block) (s : State) : ((blockOn b s).ctx).m = s.ctx.m := rfl
@[simp] theorem blockOn_ctx_w (b : Block) (s : State) : ((blockOn b s).ctx).w = s.ctx.w := rfl
@[simp] theorem blockOn_ctx_q (b : Block) (s : State) : ((blockOn b s).ctx).q = s.ctx.q := rfl
@[simp] theorem blockOn_ctx_h (b : Block) (s : State) : ((blockOn b s).ctx).h = s.ctx.h := rfl
@[simp] theorem blockOn_ctx_b (b : Block) (s : State) : ((blockOn b s).ctx).b = s.ctx.b := rfl
@[simp] theorem blockOn_ctx_es (b : Block) (s : State) : ((blockOn b s).ctx).es = s.ctx.es := rfl
@[simp] theorem blockOn_ctx_xp (b : Block) (s : State) : ((blockOn b s).ctx).xp = s.ctx.xp := rfl
@[simp] theorem blockOn_ctx_status (b : Block) (s : State) : ((blockOn b s).ctx).status = s.ctx.status := rfl
@[simp] theorem blockOn_ctx_tmpr (b : Block) (s : State) : ((blockOn b s).ctx).tmpr = s.ctx.tmpr := rfl
@[simp] theorem blockOn_ctx_rseed (b : Block) (s : State) : ((blockOn b s).ctx).rseed = s.ctx.rseed := rfl
@[simp] theorem blockOn_ctx_rcnt (b : Block) (s : State) : ((blockOn b s).ctx).rcnt = s.ctx.rcnt := rfl
@[simp] theorem blockOn_ctx_backoff (b : Block) (s : State) : ((blockOn b s).ctx).backoff = s.ctx.backoff := rfl
@[simp] theorem blockOn_ctx_domain (b : Block) (s : State) : ((blockOn b s).ctx).domain = s.ctx.domain := rfl
@[simp] theorem blockOn_ctx_savecfg (b : Block) (s : State) : ((blockOn b s).ctx).savecfg = s.ctx.savecfg := rfl
@[simp] theorem blockOn_ctx_teampos (b : Block) (s : State) : ((blockOn b s).ctx).teampos = s.ctx.teampos := rfl
@[simp] theorem blockOn_ctx_stepno (b : Block) (s : State) : ((blockOn b s).ctx).stepno = s.ctx.stepno := rfl
@[simp] theorem blockOn_ctx_flights (b : Block) (s : State) : ((blockOn b s).ctx).flights = s.ctx.flights := rfl
@[simp] theorem blockOn_ctx_vstat (b : Block) (s : State) : ((blockOn b s).ctx).vstat = s.ctx.vstat := rfl
@[simp] theorem blockOn_ctx_newLatch (b : Block) (s : State) : ((blockOn b s).ctx).newLatch = s.ctx.newLatch := rfl
@[simp] theorem blockOn_ctx_tileUnwaited (b : Block) (s : State) : ((blockOn b s).ctx).tileUnwaited = s.ctx.tileUnwaited := rfl
@[simp] theorem blockOn_ctx_accUnwaited (b : Block) (s : State) : ((blockOn b s).ctx).accUnwaited = s.ctx.accUnwaited := rfl
@[simp] theorem blockOn_ctx_latch (b : Block) (s : State) : ((blockOn b s).ctx).latch = s.ctx.latch := rfl
@[simp] theorem blockOn_ctx_pins (b : Block) (s : State) : ((blockOn b s).ctx).pins = s.ctx.pins := rfl
@[simp] theorem blockOn_ctx_xlast (b : Block) (s : State) : ((blockOn b s).ctx).xlast = s.ctx.xlast := rfl
@[simp] theorem blockOn_ctx_xnow (b : Block) (s : State) : ((blockOn b s).ctx).xnow = s.ctx.xnow := rfl
@[simp] theorem blockOn_ctx_issued (b : Block) (s : State) : ((blockOn b s).ctx).issued = s.ctx.issued := rfl
@[simp] theorem blockOn_ctx_peakSeen (b : Block) (s : State) : ((blockOn b s).ctx).peakSeen = s.ctx.peakSeen := rfl
@[simp] theorem blockOn_ctx_replay (b : Block) (s : State) : ((blockOn b s).ctx).replay = s.ctx.replay := rfl
@[simp] theorem blockOn_ctx_fences (b : Block) (s : State) : ((blockOn b s).ctx).fences = s.ctx.fences := rfl
@[simp] theorem blockOn_ctx_drainRemote (b : Block) (s : State) : ((blockOn b s).ctx).drainRemote = s.ctx.drainRemote := rfl
@[simp] theorem blockOn_ctx_drainAll (b : Block) (s : State) : ((blockOn b s).ctx).drainAll = s.ctx.drainAll := rfl
@[simp] theorem blockOn_ctx_npre (b : Block) (s : State) : ((blockOn b s).ctx).npre = s.ctx.npre := rfl
@[simp] theorem blockOn_ctx_readySince (b : Block) (s : State) : ((blockOn b s).ctx).readySince = s.ctx.readySince := rfl
@[simp] theorem blockOn_ctx_dropped (b : Block) (s : State) : ((blockOn b s).ctx).dropped = s.ctx.dropped := rfl
@[simp] theorem blockOn_ctx_hidden (b : Block) (s : State) : ((blockOn b s).ctx).hidden = s.ctx.hidden := rfl
@[simp] theorem blockOn_ctx_filled (b : Block) (s : State) : ((blockOn b s).ctx).filled = s.ctx.filled := rfl
@[simp] theorem blockOn_ctx_held (b : Block) (s : State) : ((blockOn b s).ctx).held = s.ctx.held := rfl
@[simp] theorem blockOn_ctx_retrying (b : Block) (s : State) : ((blockOn b s).ctx).retrying = s.ctx.retrying := rfl
@[simp] theorem blockOn_ctx_saving (b : Block) (s : State) : ((blockOn b s).ctx).saving = s.ctx.saving := rfl
@[simp] theorem blockOn_ctx_teamIdx (b : Block) (s : State) : ((blockOn b s).ctx).teamIdx = s.ctx.teamIdx := rfl
@[simp] theorem blockOn_ctx_leadGuard (b : Block) (s : State) : ((blockOn b s).ctx).leadGuard = s.ctx.leadGuard := rfl

/-! ## Due results land -/

@[simp] theorem landDue_coreId (s : State) : (landDue s).coreId = s.coreId := rfl
@[simp] theorem landDue_ctxId (s : State) : (landDue s).ctxId = s.ctxId := rfl
@[simp] theorem landDue_ctx (s : State) : (landDue s).ctx = s.ctx.landDue := rfl
@[simp] theorem landDue_core (s : State) : (landDue s).core = s.ctx.due.foldl Core.land s.core := rfl
@[simp] theorem landDue_cores (s : State) : (landDue s).cores = s.cores := rfl
@[simp] theorem landDue_cycle (s : State) : (landDue s).cycle = s.cycle := rfl
@[simp] theorem landDue_phase (s : State) : (landDue s).phase = s.phase := rfl
@[simp] theorem landDue_tick (s : State) : (landDue s).tick = s.tick := rfl
@[simp] theorem landDue_agenda (s : State) : (landDue s).agenda = s.agenda := rfl
@[simp] theorem landDue_fresh (s : State) : (landDue s).fresh = s.fresh := rfl
@[simp] theorem landDue_mem (s : State) : (landDue s).mem = s.mem := rfl
@[simp] theorem landDue_hub (s : State) : (landDue s).hub = s.hub := rfl

/-! ## Results put in flight -/

@[simp] theorem Context.fly_pc (c : Context) (l : List Flight) : (c.fly l).pc = c.pc := rfl
@[simp] theorem Context.fly_life (c : Context) (l : List Flight) : (c.fly l).life = c.life := rfl
@[simp] theorem Context.fly_block (c : Context) (l : List Flight) : (c.fly l).block = c.block := rfl
@[simp] theorem Context.fly_frozen (c : Context) (l : List Flight) : (c.fly l).frozen = c.frozen := rfl
@[simp] theorem Context.fly_release (c : Context) (l : List Flight) : (c.fly l).release = c.release := rfl
@[simp] theorem Context.fly_arrivedAt (c : Context) (l : List Flight) : (c.fly l).arrivedAt = c.arrivedAt := rfl
@[simp] theorem Context.fly_yielded (c : Context) (l : List Flight) : (c.fly l).yielded = c.yielded := rfl
@[simp] theorem Context.fly_func (c : Context) (l : List Flight) : (c.fly l).func = c.func := rfl
@[simp] theorem Context.fly_supv (c : Context) (l : List Flight) : (c.fly l).supv = c.supv := rfl
@[simp] theorem Context.fly_task (c : Context) (l : List Flight) : (c.fly l).task = c.task := rfl
@[simp] theorem Context.fly_delay (c : Context) (l : List Flight) : (c.fly l).delay = c.delay := rfl
@[simp] theorem Context.fly_target (c : Context) (l : List Flight) : (c.fly l).target = c.target := rfl
@[simp] theorem Context.fly_lc0 (c : Context) (l : List Flight) : (c.fly l).lc0 = c.lc0 := rfl
@[simp] theorem Context.fly_lc1 (c : Context) (l : List Flight) : (c.fly l).lc1 = c.lc1 := rfl
@[simp] theorem Context.fly_ls0 (c : Context) (l : List Flight) : (c.fly l).ls0 = c.ls0 := rfl
@[simp] theorem Context.fly_ls1 (c : Context) (l : List Flight) : (c.fly l).ls1 = c.ls1 := rfl
@[simp] theorem Context.fly_le0 (c : Context) (l : List Flight) : (c.fly l).le0 = c.le0 := rfl
@[simp] theorem Context.fly_le1 (c : Context) (l : List Flight) : (c.fly l).le1 = c.le1 := rfl
@[simp] theorem Context.fly_act0 (c : Context) (l : List Flight) : (c.fly l).act0 = c.act0 := rfl
@[simp] theorem Context.fly_act1 (c : Context) (l : List Flight) : (c.fly l).act1 = c.act1 := rfl
@[simp] theorem Context.fly_exiting (c : Context) (l : List Flight) : (c.fly l).exiting = c.exiting := rfl
@[simp] theorem Context.fly_jump (c : Context) (l : List Flight) : (c.fly l).jump = c.jump := rfl
@[simp] theorem Context.fly_len (c : Context) (l : List Flight) : (c.fly l).len = c.len := rfl
@[simp] theorem Context.fly_delayLen (c : Context) (l : List Flight) : (c.fly l).delayLen = c.delayLen := rfl
@[simp] theorem Context.fly_g (c : Context) (l : List Flight) : (c.fly l).g = c.g := rfl
@[simp] theorem Context.fly_p (c : Context) (l : List Flight) : (c.fly l).p = c.p := rfl
@[simp] theorem Context.fly_v (c : Context) (l : List Flight) : (c.fly l).v = c.v := rfl
@[simp] theorem Context.fly_m (c : Context) (l : List Flight) : (c.fly l).m = c.m := rfl
@[simp] theorem Context.fly_w (c : Context) (l : List Flight) : (c.fly l).w = c.w := rfl
@[simp] theorem Context.fly_q (c : Context) (l : List Flight) : (c.fly l).q = c.q := rfl
@[simp] theorem Context.fly_h (c : Context) (l : List Flight) : (c.fly l).h = c.h := rfl
@[simp] theorem Context.fly_b (c : Context) (l : List Flight) : (c.fly l).b = c.b := rfl
@[simp] theorem Context.fly_es (c : Context) (l : List Flight) : (c.fly l).es = c.es := rfl
@[simp] theorem Context.fly_xp (c : Context) (l : List Flight) : (c.fly l).xp = c.xp := rfl
@[simp] theorem Context.fly_status (c : Context) (l : List Flight) : (c.fly l).status = c.status := rfl
@[simp] theorem Context.fly_tmpr (c : Context) (l : List Flight) : (c.fly l).tmpr = c.tmpr := rfl
@[simp] theorem Context.fly_rseed (c : Context) (l : List Flight) : (c.fly l).rseed = c.rseed := rfl
@[simp] theorem Context.fly_rcnt (c : Context) (l : List Flight) : (c.fly l).rcnt = c.rcnt := rfl
@[simp] theorem Context.fly_backoff (c : Context) (l : List Flight) : (c.fly l).backoff = c.backoff := rfl
@[simp] theorem Context.fly_domain (c : Context) (l : List Flight) : (c.fly l).domain = c.domain := rfl
@[simp] theorem Context.fly_savecfg (c : Context) (l : List Flight) : (c.fly l).savecfg = c.savecfg := rfl
@[simp] theorem Context.fly_teampos (c : Context) (l : List Flight) : (c.fly l).teampos = c.teampos := rfl
@[simp] theorem Context.fly_stepno (c : Context) (l : List Flight) : (c.fly l).stepno = c.stepno := rfl
@[simp] theorem Context.fly_flights (c : Context) (l : List Flight) : (c.fly l).flights = c.flights ++ l := rfl
@[simp] theorem Context.fly_vstat (c : Context) (l : List Flight) : (c.fly l).vstat = c.vstat := rfl
@[simp] theorem Context.fly_newLatch (c : Context) (l : List Flight) : (c.fly l).newLatch = c.newLatch := rfl
@[simp] theorem Context.fly_tileUnwaited (c : Context) (l : List Flight) : (c.fly l).tileUnwaited = c.tileUnwaited := rfl
@[simp] theorem Context.fly_accUnwaited (c : Context) (l : List Flight) : (c.fly l).accUnwaited = c.accUnwaited := rfl
@[simp] theorem Context.fly_latch (c : Context) (l : List Flight) : (c.fly l).latch = c.latch := rfl
@[simp] theorem Context.fly_pins (c : Context) (l : List Flight) : (c.fly l).pins = c.pins := rfl
@[simp] theorem Context.fly_xlast (c : Context) (l : List Flight) : (c.fly l).xlast = c.xlast := rfl
@[simp] theorem Context.fly_xnow (c : Context) (l : List Flight) : (c.fly l).xnow = c.xnow := rfl
@[simp] theorem Context.fly_issued (c : Context) (l : List Flight) : (c.fly l).issued = c.issued := rfl
@[simp] theorem Context.fly_peakSeen (c : Context) (l : List Flight) : (c.fly l).peakSeen = c.peakSeen := rfl
@[simp] theorem Context.fly_replay (c : Context) (l : List Flight) : (c.fly l).replay = c.replay := rfl
@[simp] theorem Context.fly_fences (c : Context) (l : List Flight) : (c.fly l).fences = c.fences := rfl
@[simp] theorem Context.fly_drainRemote (c : Context) (l : List Flight) : (c.fly l).drainRemote = c.drainRemote := rfl
@[simp] theorem Context.fly_drainAll (c : Context) (l : List Flight) : (c.fly l).drainAll = c.drainAll := rfl
@[simp] theorem Context.fly_npre (c : Context) (l : List Flight) : (c.fly l).npre = c.npre := rfl
@[simp] theorem Context.fly_readySince (c : Context) (l : List Flight) : (c.fly l).readySince = c.readySince := rfl
@[simp] theorem Context.fly_dropped (c : Context) (l : List Flight) : (c.fly l).dropped = c.dropped := rfl
@[simp] theorem Context.fly_hidden (c : Context) (l : List Flight) : (c.fly l).hidden = c.hidden := rfl
@[simp] theorem Context.fly_filled (c : Context) (l : List Flight) : (c.fly l).filled = c.filled := rfl
@[simp] theorem Context.fly_held (c : Context) (l : List Flight) : (c.fly l).held = c.held := rfl
@[simp] theorem Context.fly_retrying (c : Context) (l : List Flight) : (c.fly l).retrying = c.retrying := rfl
@[simp] theorem Context.fly_saving (c : Context) (l : List Flight) : (c.fly l).saving = c.saving := rfl
@[simp] theorem Context.fly_teamIdx (c : Context) (l : List Flight) : (c.fly l).teamIdx = c.teamIdx := rfl
@[simp] theorem Context.fly_leadGuard (c : Context) (l : List Flight) : (c.fly l).leadGuard = c.leadGuard := rfl

/-! ## Return from a fault -/

@[simp] theorem resumeCtx_pc (c : Context) : (resumeCtx c).pc = c.pc := rfl
@[simp] theorem resumeCtx_life (c : Context) : (resumeCtx c).life = c.life := rfl
@[simp] theorem resumeCtx_block (c : Context) : (resumeCtx c).block = some .thawed := rfl
@[simp] theorem resumeCtx_frozen (c : Context) : (resumeCtx c).frozen = none := rfl
@[simp] theorem resumeCtx_release (c : Context) : (resumeCtx c).release = c.release := rfl
@[simp] theorem resumeCtx_arrivedAt (c : Context) : (resumeCtx c).arrivedAt = c.arrivedAt := rfl
@[simp] theorem resumeCtx_yielded (c : Context) : (resumeCtx c).yielded = c.yielded := rfl
@[simp] theorem resumeCtx_func (c : Context) : (resumeCtx c).func = c.func := rfl
@[simp] theorem resumeCtx_supv (c : Context) : (resumeCtx c).supv = c.supv := rfl
@[simp] theorem resumeCtx_task (c : Context) : (resumeCtx c).task = c.task := rfl
@[simp] theorem resumeCtx_delay (c : Context) : (resumeCtx c).delay = c.delay := rfl
@[simp] theorem resumeCtx_target (c : Context) : (resumeCtx c).target = c.target := rfl
@[simp] theorem resumeCtx_lc0 (c : Context) : (resumeCtx c).lc0 = c.lc0 := rfl
@[simp] theorem resumeCtx_lc1 (c : Context) : (resumeCtx c).lc1 = c.lc1 := rfl
@[simp] theorem resumeCtx_ls0 (c : Context) : (resumeCtx c).ls0 = c.ls0 := rfl
@[simp] theorem resumeCtx_ls1 (c : Context) : (resumeCtx c).ls1 = c.ls1 := rfl
@[simp] theorem resumeCtx_le0 (c : Context) : (resumeCtx c).le0 = c.le0 := rfl
@[simp] theorem resumeCtx_le1 (c : Context) : (resumeCtx c).le1 = c.le1 := rfl
@[simp] theorem resumeCtx_act0 (c : Context) : (resumeCtx c).act0 = c.act0 := rfl
@[simp] theorem resumeCtx_act1 (c : Context) : (resumeCtx c).act1 = c.act1 := rfl
@[simp] theorem resumeCtx_exiting (c : Context) : (resumeCtx c).exiting = c.exiting := rfl
@[simp] theorem resumeCtx_jump (c : Context) : (resumeCtx c).jump = c.jump := rfl
@[simp] theorem resumeCtx_len (c : Context) : (resumeCtx c).len = c.len := rfl
@[simp] theorem resumeCtx_delayLen (c : Context) : (resumeCtx c).delayLen = c.delayLen := rfl
@[simp] theorem resumeCtx_g (c : Context) : (resumeCtx c).g = c.g := rfl
@[simp] theorem resumeCtx_p (c : Context) : (resumeCtx c).p = c.p := rfl
@[simp] theorem resumeCtx_v (c : Context) : (resumeCtx c).v = c.v := rfl
@[simp] theorem resumeCtx_m (c : Context) : (resumeCtx c).m = c.m := rfl
@[simp] theorem resumeCtx_w (c : Context) : (resumeCtx c).w = c.w := rfl
@[simp] theorem resumeCtx_q (c : Context) : (resumeCtx c).q = c.q := rfl
@[simp] theorem resumeCtx_h (c : Context) : (resumeCtx c).h = c.h := rfl
@[simp] theorem resumeCtx_b (c : Context) : (resumeCtx c).b = c.b := rfl
@[simp] theorem resumeCtx_es (c : Context) : (resumeCtx c).es = c.es := rfl
@[simp] theorem resumeCtx_xp (c : Context) : (resumeCtx c).xp = c.xp := rfl
@[simp] theorem resumeCtx_status (c : Context) : (resumeCtx c).status = c.status := rfl
@[simp] theorem resumeCtx_tmpr (c : Context) : (resumeCtx c).tmpr = c.tmpr := rfl
@[simp] theorem resumeCtx_rseed (c : Context) : (resumeCtx c).rseed = c.rseed := rfl
@[simp] theorem resumeCtx_rcnt (c : Context) : (resumeCtx c).rcnt = c.rcnt := rfl
@[simp] theorem resumeCtx_backoff (c : Context) : (resumeCtx c).backoff = c.backoff := rfl
@[simp] theorem resumeCtx_domain (c : Context) : (resumeCtx c).domain = c.domain := rfl
@[simp] theorem resumeCtx_savecfg (c : Context) : (resumeCtx c).savecfg = c.savecfg := rfl
@[simp] theorem resumeCtx_teampos (c : Context) : (resumeCtx c).teampos = c.teampos := rfl
@[simp] theorem resumeCtx_stepno (c : Context) : (resumeCtx c).stepno = c.stepno := rfl
@[simp] theorem resumeCtx_flights (c : Context) : (resumeCtx c).flights = c.flights := rfl
@[simp] theorem resumeCtx_vstat (c : Context) : (resumeCtx c).vstat = c.vstat := rfl
@[simp] theorem resumeCtx_newLatch (c : Context) : (resumeCtx c).newLatch = c.newLatch := rfl
@[simp] theorem resumeCtx_tileUnwaited (c : Context) : (resumeCtx c).tileUnwaited = c.tileUnwaited := rfl
@[simp] theorem resumeCtx_accUnwaited (c : Context) : (resumeCtx c).accUnwaited = c.accUnwaited := rfl
@[simp] theorem resumeCtx_latch (c : Context) : (resumeCtx c).latch = c.latch := rfl
@[simp] theorem resumeCtx_pins (c : Context) : (resumeCtx c).pins = c.pins := rfl
@[simp] theorem resumeCtx_xlast (c : Context) : (resumeCtx c).xlast = c.xlast := rfl
@[simp] theorem resumeCtx_xnow (c : Context) : (resumeCtx c).xnow = c.xnow := rfl
@[simp] theorem resumeCtx_issued (c : Context) : (resumeCtx c).issued = c.issued := rfl
@[simp] theorem resumeCtx_peakSeen (c : Context) : (resumeCtx c).peakSeen = c.peakSeen := rfl
@[simp] theorem resumeCtx_replay (c : Context) : (resumeCtx c).replay = c.replay := rfl
@[simp] theorem resumeCtx_fences (c : Context) : (resumeCtx c).fences = c.fences := rfl
@[simp] theorem resumeCtx_drainRemote (c : Context) : (resumeCtx c).drainRemote = c.drainRemote := rfl
@[simp] theorem resumeCtx_drainAll (c : Context) : (resumeCtx c).drainAll = c.drainAll := rfl
@[simp] theorem resumeCtx_npre (c : Context) : (resumeCtx c).npre = c.npre := rfl
@[simp] theorem resumeCtx_readySince (c : Context) : (resumeCtx c).readySince = c.readySince := rfl
@[simp] theorem resumeCtx_dropped (c : Context) : (resumeCtx c).dropped = c.dropped := rfl
@[simp] theorem resumeCtx_hidden (c : Context) : (resumeCtx c).hidden = c.hidden := rfl
@[simp] theorem resumeCtx_filled (c : Context) : (resumeCtx c).filled = c.filled := rfl
@[simp] theorem resumeCtx_held (c : Context) : (resumeCtx c).held = c.held := rfl
@[simp] theorem resumeCtx_retrying (c : Context) : (resumeCtx c).retrying = true := rfl
@[simp] theorem resumeCtx_saving (c : Context) : (resumeCtx c).saving = c.saving := rfl
@[simp] theorem resumeCtx_teamIdx (c : Context) : (resumeCtx c).teamIdx = c.teamIdx := rfl
@[simp] theorem resumeCtx_leadGuard (c : Context) : (resumeCtx c).leadGuard = c.leadGuard := rfl

/-! ## A ring register -/

@[simp] theorem Context.setQ_pc (c : Context) (i : Nat) (v : BitVec 128) : (c.setQ i v).pc = c.pc := rfl
@[simp] theorem Context.setQ_life (c : Context) (i : Nat) (v : BitVec 128) : (c.setQ i v).life = c.life := rfl
@[simp] theorem Context.setQ_block (c : Context) (i : Nat) (v : BitVec 128) : (c.setQ i v).block = c.block := rfl
@[simp] theorem Context.setQ_frozen (c : Context) (i : Nat) (v : BitVec 128) : (c.setQ i v).frozen = c.frozen := rfl
@[simp] theorem Context.setQ_release (c : Context) (i : Nat) (v : BitVec 128) : (c.setQ i v).release = c.release := rfl
@[simp] theorem Context.setQ_arrivedAt (c : Context) (i : Nat) (v : BitVec 128) : (c.setQ i v).arrivedAt = c.arrivedAt := rfl
@[simp] theorem Context.setQ_yielded (c : Context) (i : Nat) (v : BitVec 128) : (c.setQ i v).yielded = c.yielded := rfl
@[simp] theorem Context.setQ_func (c : Context) (i : Nat) (v : BitVec 128) : (c.setQ i v).func = c.func := rfl
@[simp] theorem Context.setQ_supv (c : Context) (i : Nat) (v : BitVec 128) : (c.setQ i v).supv = c.supv := rfl
@[simp] theorem Context.setQ_task (c : Context) (i : Nat) (v : BitVec 128) : (c.setQ i v).task = c.task := rfl
@[simp] theorem Context.setQ_delay (c : Context) (i : Nat) (v : BitVec 128) : (c.setQ i v).delay = c.delay := rfl
@[simp] theorem Context.setQ_target (c : Context) (i : Nat) (v : BitVec 128) : (c.setQ i v).target = c.target := rfl
@[simp] theorem Context.setQ_lc0 (c : Context) (i : Nat) (v : BitVec 128) : (c.setQ i v).lc0 = c.lc0 := rfl
@[simp] theorem Context.setQ_lc1 (c : Context) (i : Nat) (v : BitVec 128) : (c.setQ i v).lc1 = c.lc1 := rfl
@[simp] theorem Context.setQ_ls0 (c : Context) (i : Nat) (v : BitVec 128) : (c.setQ i v).ls0 = c.ls0 := rfl
@[simp] theorem Context.setQ_ls1 (c : Context) (i : Nat) (v : BitVec 128) : (c.setQ i v).ls1 = c.ls1 := rfl
@[simp] theorem Context.setQ_le0 (c : Context) (i : Nat) (v : BitVec 128) : (c.setQ i v).le0 = c.le0 := rfl
@[simp] theorem Context.setQ_le1 (c : Context) (i : Nat) (v : BitVec 128) : (c.setQ i v).le1 = c.le1 := rfl
@[simp] theorem Context.setQ_act0 (c : Context) (i : Nat) (v : BitVec 128) : (c.setQ i v).act0 = c.act0 := rfl
@[simp] theorem Context.setQ_act1 (c : Context) (i : Nat) (v : BitVec 128) : (c.setQ i v).act1 = c.act1 := rfl
@[simp] theorem Context.setQ_exiting (c : Context) (i : Nat) (v : BitVec 128) : (c.setQ i v).exiting = c.exiting := rfl
@[simp] theorem Context.setQ_jump (c : Context) (i : Nat) (v : BitVec 128) : (c.setQ i v).jump = c.jump := rfl
@[simp] theorem Context.setQ_len (c : Context) (i : Nat) (v : BitVec 128) : (c.setQ i v).len = c.len := rfl
@[simp] theorem Context.setQ_delayLen (c : Context) (i : Nat) (v : BitVec 128) : (c.setQ i v).delayLen = c.delayLen := rfl
@[simp] theorem Context.setQ_g (c : Context) (i : Nat) (v : BitVec 128) : (c.setQ i v).g = c.g := rfl
@[simp] theorem Context.setQ_p (c : Context) (i : Nat) (v : BitVec 128) : (c.setQ i v).p = c.p := rfl
@[simp] theorem Context.setQ_v (c : Context) (i : Nat) (v : BitVec 128) : (c.setQ i v).v = c.v := rfl
@[simp] theorem Context.setQ_m (c : Context) (i : Nat) (v : BitVec 128) : (c.setQ i v).m = c.m := rfl
@[simp] theorem Context.setQ_w (c : Context) (i : Nat) (v : BitVec 128) : (c.setQ i v).w = c.w := rfl
@[simp] theorem Context.setQ_q (c : Context) (i : Nat) (v : BitVec 128) : (c.setQ i v).q = tset 0 c.q i v := rfl
@[simp] theorem Context.setQ_h (c : Context) (i : Nat) (v : BitVec 128) : (c.setQ i v).h = c.h := rfl
@[simp] theorem Context.setQ_b (c : Context) (i : Nat) (v : BitVec 128) : (c.setQ i v).b = c.b := rfl
@[simp] theorem Context.setQ_es (c : Context) (i : Nat) (v : BitVec 128) : (c.setQ i v).es = c.es := rfl
@[simp] theorem Context.setQ_xp (c : Context) (i : Nat) (v : BitVec 128) : (c.setQ i v).xp = c.xp := rfl
@[simp] theorem Context.setQ_status (c : Context) (i : Nat) (v : BitVec 128) : (c.setQ i v).status = c.status := rfl
@[simp] theorem Context.setQ_tmpr (c : Context) (i : Nat) (v : BitVec 128) : (c.setQ i v).tmpr = c.tmpr := rfl
@[simp] theorem Context.setQ_rseed (c : Context) (i : Nat) (v : BitVec 128) : (c.setQ i v).rseed = c.rseed := rfl
@[simp] theorem Context.setQ_rcnt (c : Context) (i : Nat) (v : BitVec 128) : (c.setQ i v).rcnt = c.rcnt := rfl
@[simp] theorem Context.setQ_backoff (c : Context) (i : Nat) (v : BitVec 128) : (c.setQ i v).backoff = c.backoff := rfl
@[simp] theorem Context.setQ_domain (c : Context) (i : Nat) (v : BitVec 128) : (c.setQ i v).domain = c.domain := rfl
@[simp] theorem Context.setQ_savecfg (c : Context) (i : Nat) (v : BitVec 128) : (c.setQ i v).savecfg = c.savecfg := rfl
@[simp] theorem Context.setQ_teampos (c : Context) (i : Nat) (v : BitVec 128) : (c.setQ i v).teampos = c.teampos := rfl
@[simp] theorem Context.setQ_stepno (c : Context) (i : Nat) (v : BitVec 128) : (c.setQ i v).stepno = c.stepno := rfl
@[simp] theorem Context.setQ_flights (c : Context) (i : Nat) (v : BitVec 128) : (c.setQ i v).flights = c.flights := rfl
@[simp] theorem Context.setQ_vstat (c : Context) (i : Nat) (v : BitVec 128) : (c.setQ i v).vstat = c.vstat := rfl
@[simp] theorem Context.setQ_newLatch (c : Context) (i : Nat) (v : BitVec 128) : (c.setQ i v).newLatch = c.newLatch := rfl
@[simp] theorem Context.setQ_tileUnwaited (c : Context) (i : Nat) (v : BitVec 128) : (c.setQ i v).tileUnwaited = c.tileUnwaited := rfl
@[simp] theorem Context.setQ_accUnwaited (c : Context) (i : Nat) (v : BitVec 128) : (c.setQ i v).accUnwaited = c.accUnwaited := rfl
@[simp] theorem Context.setQ_latch (c : Context) (i : Nat) (v : BitVec 128) : (c.setQ i v).latch = c.latch := rfl
@[simp] theorem Context.setQ_pins (c : Context) (i : Nat) (v : BitVec 128) : (c.setQ i v).pins = c.pins := rfl
@[simp] theorem Context.setQ_xlast (c : Context) (i : Nat) (v : BitVec 128) : (c.setQ i v).xlast = c.xlast := rfl
@[simp] theorem Context.setQ_xnow (c : Context) (i : Nat) (v : BitVec 128) : (c.setQ i v).xnow = c.xnow := rfl
@[simp] theorem Context.setQ_issued (c : Context) (i : Nat) (v : BitVec 128) : (c.setQ i v).issued = c.issued := rfl
@[simp] theorem Context.setQ_peakSeen (c : Context) (i : Nat) (v : BitVec 128) : (c.setQ i v).peakSeen = c.peakSeen := rfl
@[simp] theorem Context.setQ_replay (c : Context) (i : Nat) (v : BitVec 128) : (c.setQ i v).replay = c.replay := rfl
@[simp] theorem Context.setQ_fences (c : Context) (i : Nat) (v : BitVec 128) : (c.setQ i v).fences = c.fences := rfl
@[simp] theorem Context.setQ_drainRemote (c : Context) (i : Nat) (v : BitVec 128) : (c.setQ i v).drainRemote = c.drainRemote := rfl
@[simp] theorem Context.setQ_drainAll (c : Context) (i : Nat) (v : BitVec 128) : (c.setQ i v).drainAll = c.drainAll := rfl
@[simp] theorem Context.setQ_npre (c : Context) (i : Nat) (v : BitVec 128) : (c.setQ i v).npre = c.npre := rfl
@[simp] theorem Context.setQ_readySince (c : Context) (i : Nat) (v : BitVec 128) : (c.setQ i v).readySince = c.readySince := rfl
@[simp] theorem Context.setQ_dropped (c : Context) (i : Nat) (v : BitVec 128) : (c.setQ i v).dropped = c.dropped := rfl
@[simp] theorem Context.setQ_hidden (c : Context) (i : Nat) (v : BitVec 128) : (c.setQ i v).hidden = c.hidden := rfl
@[simp] theorem Context.setQ_filled (c : Context) (i : Nat) (v : BitVec 128) : (c.setQ i v).filled = c.filled := rfl
@[simp] theorem Context.setQ_held (c : Context) (i : Nat) (v : BitVec 128) : (c.setQ i v).held = c.held := rfl
@[simp] theorem Context.setQ_retrying (c : Context) (i : Nat) (v : BitVec 128) : (c.setQ i v).retrying = c.retrying := rfl
@[simp] theorem Context.setQ_saving (c : Context) (i : Nat) (v : BitVec 128) : (c.setQ i v).saving = c.saving := rfl
@[simp] theorem Context.setQ_teamIdx (c : Context) (i : Nat) (v : BitVec 128) : (c.setQ i v).teamIdx = c.teamIdx := rfl
@[simp] theorem Context.setQ_leadGuard (c : Context) (i : Nat) (v : BitVec 128) : (c.setQ i v).leadGuard = c.leadGuard := rfl

/-! ## A binding register -/

@[simp] theorem Context.setB_pc (c : Context) (i : Nat) (v : BitVec 64) : (c.setB i v).pc = c.pc := rfl
@[simp] theorem Context.setB_life (c : Context) (i : Nat) (v : BitVec 64) : (c.setB i v).life = c.life := rfl
@[simp] theorem Context.setB_block (c : Context) (i : Nat) (v : BitVec 64) : (c.setB i v).block = c.block := rfl
@[simp] theorem Context.setB_frozen (c : Context) (i : Nat) (v : BitVec 64) : (c.setB i v).frozen = c.frozen := rfl
@[simp] theorem Context.setB_release (c : Context) (i : Nat) (v : BitVec 64) : (c.setB i v).release = c.release := rfl
@[simp] theorem Context.setB_arrivedAt (c : Context) (i : Nat) (v : BitVec 64) : (c.setB i v).arrivedAt = c.arrivedAt := rfl
@[simp] theorem Context.setB_yielded (c : Context) (i : Nat) (v : BitVec 64) : (c.setB i v).yielded = c.yielded := rfl
@[simp] theorem Context.setB_func (c : Context) (i : Nat) (v : BitVec 64) : (c.setB i v).func = c.func := rfl
@[simp] theorem Context.setB_supv (c : Context) (i : Nat) (v : BitVec 64) : (c.setB i v).supv = c.supv := rfl
@[simp] theorem Context.setB_task (c : Context) (i : Nat) (v : BitVec 64) : (c.setB i v).task = c.task := rfl
@[simp] theorem Context.setB_delay (c : Context) (i : Nat) (v : BitVec 64) : (c.setB i v).delay = c.delay := rfl
@[simp] theorem Context.setB_target (c : Context) (i : Nat) (v : BitVec 64) : (c.setB i v).target = c.target := rfl
@[simp] theorem Context.setB_lc0 (c : Context) (i : Nat) (v : BitVec 64) : (c.setB i v).lc0 = c.lc0 := rfl
@[simp] theorem Context.setB_lc1 (c : Context) (i : Nat) (v : BitVec 64) : (c.setB i v).lc1 = c.lc1 := rfl
@[simp] theorem Context.setB_ls0 (c : Context) (i : Nat) (v : BitVec 64) : (c.setB i v).ls0 = c.ls0 := rfl
@[simp] theorem Context.setB_ls1 (c : Context) (i : Nat) (v : BitVec 64) : (c.setB i v).ls1 = c.ls1 := rfl
@[simp] theorem Context.setB_le0 (c : Context) (i : Nat) (v : BitVec 64) : (c.setB i v).le0 = c.le0 := rfl
@[simp] theorem Context.setB_le1 (c : Context) (i : Nat) (v : BitVec 64) : (c.setB i v).le1 = c.le1 := rfl
@[simp] theorem Context.setB_act0 (c : Context) (i : Nat) (v : BitVec 64) : (c.setB i v).act0 = c.act0 := rfl
@[simp] theorem Context.setB_act1 (c : Context) (i : Nat) (v : BitVec 64) : (c.setB i v).act1 = c.act1 := rfl
@[simp] theorem Context.setB_exiting (c : Context) (i : Nat) (v : BitVec 64) : (c.setB i v).exiting = c.exiting := rfl
@[simp] theorem Context.setB_jump (c : Context) (i : Nat) (v : BitVec 64) : (c.setB i v).jump = c.jump := rfl
@[simp] theorem Context.setB_len (c : Context) (i : Nat) (v : BitVec 64) : (c.setB i v).len = c.len := rfl
@[simp] theorem Context.setB_delayLen (c : Context) (i : Nat) (v : BitVec 64) : (c.setB i v).delayLen = c.delayLen := rfl
@[simp] theorem Context.setB_g (c : Context) (i : Nat) (v : BitVec 64) : (c.setB i v).g = c.g := rfl
@[simp] theorem Context.setB_p (c : Context) (i : Nat) (v : BitVec 64) : (c.setB i v).p = c.p := rfl
@[simp] theorem Context.setB_v (c : Context) (i : Nat) (v : BitVec 64) : (c.setB i v).v = c.v := rfl
@[simp] theorem Context.setB_m (c : Context) (i : Nat) (v : BitVec 64) : (c.setB i v).m = c.m := rfl
@[simp] theorem Context.setB_w (c : Context) (i : Nat) (v : BitVec 64) : (c.setB i v).w = c.w := rfl
@[simp] theorem Context.setB_q (c : Context) (i : Nat) (v : BitVec 64) : (c.setB i v).q = c.q := rfl
@[simp] theorem Context.setB_h (c : Context) (i : Nat) (v : BitVec 64) : (c.setB i v).h = c.h := rfl
@[simp] theorem Context.setB_b (c : Context) (i : Nat) (v : BitVec 64) : (c.setB i v).b = tset 0 c.b i v := rfl
@[simp] theorem Context.setB_es (c : Context) (i : Nat) (v : BitVec 64) : (c.setB i v).es = c.es := rfl
@[simp] theorem Context.setB_xp (c : Context) (i : Nat) (v : BitVec 64) : (c.setB i v).xp = c.xp := rfl
@[simp] theorem Context.setB_status (c : Context) (i : Nat) (v : BitVec 64) : (c.setB i v).status = c.status := rfl
@[simp] theorem Context.setB_tmpr (c : Context) (i : Nat) (v : BitVec 64) : (c.setB i v).tmpr = c.tmpr := rfl
@[simp] theorem Context.setB_rseed (c : Context) (i : Nat) (v : BitVec 64) : (c.setB i v).rseed = c.rseed := rfl
@[simp] theorem Context.setB_rcnt (c : Context) (i : Nat) (v : BitVec 64) : (c.setB i v).rcnt = c.rcnt := rfl
@[simp] theorem Context.setB_backoff (c : Context) (i : Nat) (v : BitVec 64) : (c.setB i v).backoff = c.backoff := rfl
@[simp] theorem Context.setB_domain (c : Context) (i : Nat) (v : BitVec 64) : (c.setB i v).domain = c.domain := rfl
@[simp] theorem Context.setB_savecfg (c : Context) (i : Nat) (v : BitVec 64) : (c.setB i v).savecfg = c.savecfg := rfl
@[simp] theorem Context.setB_teampos (c : Context) (i : Nat) (v : BitVec 64) : (c.setB i v).teampos = c.teampos := rfl
@[simp] theorem Context.setB_stepno (c : Context) (i : Nat) (v : BitVec 64) : (c.setB i v).stepno = c.stepno := rfl
@[simp] theorem Context.setB_flights (c : Context) (i : Nat) (v : BitVec 64) : (c.setB i v).flights = c.flights := rfl
@[simp] theorem Context.setB_vstat (c : Context) (i : Nat) (v : BitVec 64) : (c.setB i v).vstat = c.vstat := rfl
@[simp] theorem Context.setB_newLatch (c : Context) (i : Nat) (v : BitVec 64) : (c.setB i v).newLatch = c.newLatch := rfl
@[simp] theorem Context.setB_tileUnwaited (c : Context) (i : Nat) (v : BitVec 64) : (c.setB i v).tileUnwaited = c.tileUnwaited := rfl
@[simp] theorem Context.setB_accUnwaited (c : Context) (i : Nat) (v : BitVec 64) : (c.setB i v).accUnwaited = c.accUnwaited := rfl
@[simp] theorem Context.setB_latch (c : Context) (i : Nat) (v : BitVec 64) : (c.setB i v).latch = c.latch := rfl
@[simp] theorem Context.setB_pins (c : Context) (i : Nat) (v : BitVec 64) : (c.setB i v).pins = c.pins := rfl
@[simp] theorem Context.setB_xlast (c : Context) (i : Nat) (v : BitVec 64) : (c.setB i v).xlast = c.xlast := rfl
@[simp] theorem Context.setB_xnow (c : Context) (i : Nat) (v : BitVec 64) : (c.setB i v).xnow = c.xnow := rfl
@[simp] theorem Context.setB_issued (c : Context) (i : Nat) (v : BitVec 64) : (c.setB i v).issued = c.issued := rfl
@[simp] theorem Context.setB_peakSeen (c : Context) (i : Nat) (v : BitVec 64) : (c.setB i v).peakSeen = c.peakSeen := rfl
@[simp] theorem Context.setB_replay (c : Context) (i : Nat) (v : BitVec 64) : (c.setB i v).replay = c.replay := rfl
@[simp] theorem Context.setB_fences (c : Context) (i : Nat) (v : BitVec 64) : (c.setB i v).fences = c.fences := rfl
@[simp] theorem Context.setB_drainRemote (c : Context) (i : Nat) (v : BitVec 64) : (c.setB i v).drainRemote = c.drainRemote := rfl
@[simp] theorem Context.setB_drainAll (c : Context) (i : Nat) (v : BitVec 64) : (c.setB i v).drainAll = c.drainAll := rfl
@[simp] theorem Context.setB_npre (c : Context) (i : Nat) (v : BitVec 64) : (c.setB i v).npre = c.npre := rfl
@[simp] theorem Context.setB_readySince (c : Context) (i : Nat) (v : BitVec 64) : (c.setB i v).readySince = c.readySince := rfl
@[simp] theorem Context.setB_dropped (c : Context) (i : Nat) (v : BitVec 64) : (c.setB i v).dropped = c.dropped := rfl
@[simp] theorem Context.setB_hidden (c : Context) (i : Nat) (v : BitVec 64) : (c.setB i v).hidden = c.hidden := rfl
@[simp] theorem Context.setB_filled (c : Context) (i : Nat) (v : BitVec 64) : (c.setB i v).filled = c.filled := rfl
@[simp] theorem Context.setB_held (c : Context) (i : Nat) (v : BitVec 64) : (c.setB i v).held = c.held := rfl
@[simp] theorem Context.setB_retrying (c : Context) (i : Nat) (v : BitVec 64) : (c.setB i v).retrying = c.retrying := rfl
@[simp] theorem Context.setB_saving (c : Context) (i : Nat) (v : BitVec 64) : (c.setB i v).saving = c.saving := rfl
@[simp] theorem Context.setB_teamIdx (c : Context) (i : Nat) (v : BitVec 64) : (c.setB i v).teamIdx = c.teamIdx := rfl
@[simp] theorem Context.setB_leadGuard (c : Context) (i : Nat) (v : BitVec 64) : (c.setB i v).leadGuard = c.leadGuard := rfl

/-! ## A context taken out of its task (R5, R336) -/

@[simp] theorem Context.vacated_pc (k : Nat) (c : Context) : (c.vacated k).pc = c.pc := rfl
@[simp] theorem Context.vacated_func (k : Nat) (c : Context) : (c.vacated k).func = c.func := rfl
@[simp] theorem Context.vacated_g (k : Nat) (c : Context) : (c.vacated k).g = c.g := rfl
@[simp] theorem Context.vacated_p (k : Nat) (c : Context) : (c.vacated k).p = c.p := rfl
@[simp] theorem Context.vacated_v (k : Nat) (c : Context) : (c.vacated k).v = c.v := rfl
@[simp] theorem Context.vacated_m (k : Nat) (c : Context) : (c.vacated k).m = c.m := rfl
@[simp] theorem Context.vacated_w (k : Nat) (c : Context) : (c.vacated k).w = c.w := rfl
@[simp] theorem Context.vacated_es (k : Nat) (c : Context) : (c.vacated k).es = c.es := rfl
@[simp] theorem Context.vacated_xp (k : Nat) (c : Context) : (c.vacated k).xp = c.xp := rfl
@[simp] theorem Context.vacated_status (k : Nat) (c : Context) : (c.vacated k).status = c.status := rfl
@[simp] theorem Context.vacated_tmpr (k : Nat) (c : Context) : (c.vacated k).tmpr = c.tmpr := rfl
@[simp] theorem Context.vacated_rseed (k : Nat) (c : Context) : (c.vacated k).rseed = c.rseed := rfl
@[simp] theorem Context.vacated_rcnt (k : Nat) (c : Context) : (c.vacated k).rcnt = c.rcnt := rfl
@[simp] theorem Context.vacated_backoff (k : Nat) (c : Context) : (c.vacated k).backoff = c.backoff := rfl
@[simp] theorem Context.vacated_domain (k : Nat) (c : Context) : (c.vacated k).domain = c.domain := rfl
@[simp] theorem Context.vacated_savecfg (k : Nat) (c : Context) : (c.vacated k).savecfg = c.savecfg := rfl
@[simp] theorem Context.vacated_teampos (k : Nat) (c : Context) : (c.vacated k).teampos = c.teampos := rfl
@[simp] theorem Context.vacated_stepno (k : Nat) (c : Context) : (c.vacated k).stepno = c.stepno := rfl
@[simp] theorem Context.vacated_lc0 (k : Nat) (c : Context) : (c.vacated k).lc0 = c.lc0 := rfl
@[simp] theorem Context.vacated_lc1 (k : Nat) (c : Context) : (c.vacated k).lc1 = c.lc1 := rfl
@[simp] theorem Context.vacated_ls0 (k : Nat) (c : Context) : (c.vacated k).ls0 = c.ls0 := rfl
@[simp] theorem Context.vacated_ls1 (k : Nat) (c : Context) : (c.vacated k).ls1 = c.ls1 := rfl
@[simp] theorem Context.vacated_le0 (k : Nat) (c : Context) : (c.vacated k).le0 = c.le0 := rfl
@[simp] theorem Context.vacated_le1 (k : Nat) (c : Context) : (c.vacated k).le1 = c.le1 := rfl
@[simp] theorem Context.vacated_q (k : Nat) (c : Context) : (c.vacated k).q = (resetContext k).q := rfl
@[simp] theorem Context.vacated_h (k : Nat) (c : Context) : (c.vacated k).h = (resetContext k).h := rfl
@[simp] theorem Context.vacated_b (k : Nat) (c : Context) : (c.vacated k).b = (resetContext k).b := rfl
@[simp] theorem Context.vacated_pins (k : Nat) (c : Context) : (c.vacated k).pins = (resetContext k).pins := rfl
@[simp] theorem Context.vacated_life (k : Nat) (c : Context) : (c.vacated k).life = (resetContext k).life := rfl
@[simp] theorem Context.vacated_block (k : Nat) (c : Context) : (c.vacated k).block = (resetContext k).block := rfl
@[simp] theorem Context.vacated_frozen (k : Nat) (c : Context) : (c.vacated k).frozen = (resetContext k).frozen := rfl
@[simp] theorem Context.vacated_flights (k : Nat) (c : Context) : (c.vacated k).flights = (resetContext k).flights := rfl
@[simp] theorem Context.vacated_fences (k : Nat) (c : Context) : (c.vacated k).fences = (resetContext k).fences := rfl
@[simp] theorem Context.vacated_hidden (k : Nat) (c : Context) : (c.vacated k).hidden = (resetContext k).hidden := rfl
@[simp] theorem Context.vacated_filled (k : Nat) (c : Context) : (c.vacated k).filled = (resetContext k).filled := rfl
@[simp] theorem Context.vacated_held (k : Nat) (c : Context) : (c.vacated k).held = (resetContext k).held := rfl

/-! ## A cycle passes -/

@[simp] theorem cycleOn_coreId (s : State) : (cycleOn s).coreId = s.coreId := rfl
@[simp] theorem cycleOn_ctxId (s : State) : (cycleOn s).ctxId = s.ctxId := rfl
@[simp] theorem cycleOn_cycle (s : State) : (cycleOn s).cycle = s.cycle + 1 := rfl
@[simp] theorem cycleOn_phase (s : State) : (cycleOn s).phase = s.phase := rfl
@[simp] theorem cycleOn_tick (s : State) : (cycleOn s).tick = s.tick := rfl
@[simp] theorem cycleOn_agenda (s : State) : (cycleOn s).agenda = s.agenda := rfl
@[simp] theorem cycleOn_fresh (s : State) : (cycleOn s).fresh = s.fresh := rfl
@[simp] theorem cycleOn_mem (s : State) : (cycleOn s).mem = s.mem := rfl
@[simp] theorem cycleOn_hub (s : State) : (cycleOn s).hub = s.hub := rfl

/-! ## The placing of a syllable -/

@[simp] theorem placeSyllable_coreId (w : Word) (s : State) : (placeSyllable w s).coreId = s.coreId := rfl
@[simp] theorem placeSyllable_ctxId (w : Word) (s : State) : (placeSyllable w s).ctxId = s.ctxId := rfl
@[simp] theorem placeSyllable_cores (w : Word) (s : State) : (placeSyllable w s).cores = s.cores := rfl
@[simp] theorem placeSyllable_cycle (w : Word) (s : State) : (placeSyllable w s).cycle = s.cycle := rfl
@[simp] theorem placeSyllable_phase (w : Word) (s : State) : (placeSyllable w s).phase = s.phase := rfl
@[simp] theorem placeSyllable_tick (w : Word) (s : State) : (placeSyllable w s).tick = s.tick := rfl
@[simp] theorem placeSyllable_agenda (w : Word) (s : State) : (placeSyllable w s).agenda = [.run s.coreId] := rfl
@[simp] theorem placeSyllable_fresh (w : Word) (s : State) : (placeSyllable w s).fresh = s.fresh := rfl
@[simp] theorem placeSyllable_mem (w : Word) (s : State) : (placeSyllable w s).mem = s.mem := rfl
@[simp] theorem placeSyllable_hub (w : Word) (s : State) : (placeSyllable w s).hub = s.hub := rfl

/-! ## Reset -/

@[simp] theorem State.reset_coreId : (State.reset).coreId = 0 := rfl
@[simp] theorem State.reset_ctxId : (State.reset).ctxId = 0 := rfl
@[simp] theorem State.reset_ctx : (State.reset).ctx = resetContext 0 := rfl
@[simp] theorem State.reset_core : (State.reset).core = resetCore 0 := rfl
@[simp] theorem State.reset_cores : (State.reset).cores = [] := rfl
@[simp] theorem State.reset_cycle : (State.reset).cycle = 0 := rfl
@[simp] theorem State.reset_phase : (State.reset).phase = 0 := rfl
@[simp] theorem State.reset_tick : (State.reset).tick = 0 := rfl
@[simp] theorem State.reset_agenda : (State.reset).agenda = [] := rfl
@[simp] theorem State.reset_fresh : (State.reset).fresh = 0 := rfl
@[simp] theorem State.reset_mem : (State.reset).mem = [] := rfl
@[simp] theorem State.reset_hub : (State.reset).hub = resetHub := rfl

end Sys2Proof.Machine
end

