-- ==== Sys2Proof/Tests/Slice0.lean ====
section
/-! SUPPORT. Small tests: words of the spec decode, ill-formed terms are refused, worked examples of the spec come out, and every hypothesis of the statements is met somewhere. -/

open Sys2Proof Sys2Proof.Machine

namespace Sys2Proof.Tests

set_option Elab.async false

/-! ## Small states -/

/-- Guard P0, which always holds, and its negation. -/
abbrev on : Guard := ⟨false, 0⟩
abbrev off : Guard := ⟨true, 0⟩

/-- Operands with the guard P0. -/
abbrev sr (gd ga gb : BitVec 6) (sub : BitVec 5 := 0) : SR := ⟨on, gd, ga, gb, 0, 5, 0, 6, sub⟩
abbrev si (gd ga : BitVec 6) (imm : BitVec 32) (sub : BitVec 3 := 0) : SI := ⟨on, gd, ga, imm, sub⟩
abbrev vf (vd va vb : BitVec 5) (fmt : BitVec 4) (low : BitVec 22 := 0) : VF := ⟨on, false, vd, va, vb, 0, fmt, false, low⟩
abbrev vi (vd va : BitVec 5) (fmt : BitVec 4) (imm : BitVec 16) (sub : BitVec 6) : VF := ⟨on, false, vd, va, 0, 0, fmt, true, imm ++ sub⟩
abbrev xf (vd va vb : BitVec 5) (fmt : BitVec 4) (imm : BitVec 8) : XF := ⟨on, vd, va, 0, vb, fmt, imm, 0⟩
abbrev mf (ta tb acc : BitVec 4) (k : BitVec 8 := 0) (sub : BitVec 5 := 0) : MF := ⟨on, ta, tb, acc, 0, 0, k, 0, sub⟩
abbrev ls (dr : BitVec 5) (gb : BitVec 6) (space width : BitVec 2) (gs : BitVec 6 := 0) (sub : BitVec 3 := 0) : LS :=
  ⟨on, dr, gb, 0, sub, space, width, 0, gs, 1, false⟩
abbrev ef (qc : BitVec 4) (ga gb : BitVec 6) (h es : BitVec 4) (sub : BitVec 5 := 0) : EF :=
  ⟨on, qc, ga, gb, h, es, 0, 0, 0, false, 0, sub⟩

/-- A running context of function 1 with registers set: G2 is 7, G3 is 2, G4 is 64, G5 is the last 64-byte offset of the private scratchpad, G6 is -1. -/
def ctx1 : Context := { State.reset.ctx with
  life := .running, func := 1, task := 1
  g := [(2, 7), (3, 2), (4, 64), (5, 0x3FFFC0), (6, 0xFFFFFFFFFFFFFFFF)]
  q := [(1, 0x0000000000000000_8000000000C00200)] }

/-- A page table of function 1: virtual pages 0 and 1 map the page frames 5 and 6, writable; its fault queue has four records at virtual address 0x1000. -/
def hub1 : Hub := { State.reset.hub with
  bringUp := 8
  funcs := [(1, .ofNat 1024 (5 + 0x10000 <<< 64 + 0x1000 <<< 576 + 4 <<< 640))]
  ranges := [(0, .ofNat 256 (1 + 0x1000 <<< 80 + 0xFFFF <<< 192))] }

/-- The cells of the page table. -/
def mem1 : Memory := [(0x10000, 1), (0x10002, 2), (0x20000, 1), (0x20002, 3), (0x30000, 7), (0x30002, 5), (0x30008, 7), (0x3000A, 6)]

/-- A machine in which that context runs on core 0. -/
def base : State := { State.reset with ctx := ctx1, hub := hub1, mem := mem1 }

/-- What an answer satisfies where it is a next state. -/
def next (r : Result) (p : State → Bool) : Bool := match r with
  | .next t => p t
  | _ => false

/-! ## Well-formed terms -/

/-- Each check refuses a term: a step of the part, a guard index above 7 in V0, a reserved field set, a format that the row does not take. -/
theorem test_wellFormed_refuses : WellFormed .dispatch = false ∧ isEvent .dispatch = true
    ∧ (let i : Instr := .vadd ⟨⟨false, 8⟩, false, 1, 2, 3, 0, 4, false, 0⟩
       WellFormed i = false ∧ Machine.Encoding.guardOk i = false ∧ isEvent i = false)
    ∧ (let i : Instr := .add ⟨on, 1, 2, 3, 4, 0, 0, 0, 0⟩
       WellFormed i = false ∧ reservedClear i = false ∧ Machine.Encoding.guardOk i = true)
    ∧ (let i : Instr := .vadd (vf 1 2 3 6)
       WellFormed i = false ∧ (Machine.Encoding.limits i).isEmpty = false ∧ reservedClear i = true ∧ Machine.Encoding.guardOk i = true) := by decide +kernel

/-- The neighbours of those terms are well formed. -/
theorem test_wellFormed_accepts : ∀ i ∈ ([.vadd ⟨⟨false, 7⟩, false, 1, 2, 3, 0, 4, false, 0⟩, .add ⟨on, 1, 2, 3, 0, 0, 0, 0, 0⟩, .vadd (vf 1 2 3 5)]
    : List Instr), WellFormed i = true := by decide +kernel

/-! ## Decoding -/

/-- Words of the S slot (R163 to R165, Tables 8-12 and 10-1), bits laid out by hand of the tables. -/
theorem test_decode_Scalar1 : ∀ p ∈ ([
    (0x0000800000000000, .nop ⟨⟨false, 1⟩, 0, 0, 0, 0, 0, 0, 0, 0⟩),
    (0x001A52B1A0000000, .add ⟨⟨true, 4⟩, 41, 22, 13, 0, 0, 0, 0, 0⟩),
    (0x8033D2B1A0000000, .sub ⟨⟨false, 7⟩, 41, 22, 13, 0, 0, 0, 0, 0⟩),
    (0x804D52B1A0000000, .mul ⟨⟨true, 10⟩, 41, 22, 13, 0, 0, 0, 0, 0⟩),
    (0x0056D2B1A0000000, .mulh ⟨⟨false, 13⟩, 41, 22, 13, 0, 0, 0, 0, 0⟩),
    (0x006852B1A0000000, .mulhx ⟨⟨true, 0⟩, 41, 22, 13, 0, 0, 0, 0, 0⟩),
    (0x8071D2B1A0000000, .div ⟨⟨false, 3⟩, 41, 22, 13, 0, 0, 0, 0, 0⟩),
    (0x808B52B1A0000000, .divx ⟨⟨true, 6⟩, 41, 22, 13, 0, 0, 0, 0, 0⟩),
    (0x0094D2B1A0000000, .rem ⟨⟨false, 9⟩, 41, 22, 13, 0, 0, 0, 0, 0⟩),
    (0x00AE52B1A0000000, .remx ⟨⟨true, 12⟩, 41, 22, 13, 0, 0, 0, 0, 0⟩),
    (0x80F7D2B1A0000000, .xor ⟨⟨false, 15⟩, 41, 22, 13, 0, 0, 0, 0, 0⟩),
    (0x811952B1A0000000, .shl ⟨⟨true, 2⟩, 41, 22, 13, 0, 0, 0, 0, 0⟩)] : List (Word × Instr)), decodeSyll p.1 = .ok p.2 := by decide +kernel

/-- Words of the S slot (R163 to R165, Tables 8-12 and 10-1), bits laid out by hand of the tables. -/
theorem test_decode_Scalar2 : ∀ p ∈ ([
    (0x0132D2B1A0000000, .shr ⟨⟨false, 5⟩, 41, 22, 13, 0, 0, 0, 0, 0⟩),
    (0x015C52B1A0000000, .sra ⟨⟨true, 8⟩, 41, 22, 13, 0, 0, 0, 0, 0⟩),
    (0x8175D2B1A0000000, .min ⟨⟨false, 11⟩, 41, 22, 13, 0, 0, 0, 0, 0⟩),
    (0x818F52B1A0000000, .max ⟨⟨true, 14⟩, 41, 22, 13, 0, 0, 0, 0, 0⟩),
    (0x0190D2B1A0000000, .minx ⟨⟨false, 1⟩, 41, 22, 13, 0, 0, 0, 0, 0⟩),
    (0x01AA52B1A0000000, .maxx ⟨⟨true, 4⟩, 41, 22, 13, 0, 0, 0, 0, 0⟩),
    (0x8283D2B1A0000000, .fadd ⟨⟨false, 7⟩, 41, 22, 13, 0, 0, 0, 0, 0⟩),
    (0x829D52B1A0000000, .fsub ⟨⟨true, 10⟩, 41, 22, 13, 0, 0, 0, 0, 0⟩),
    (0x02A6D2B1A0000000, .fmul ⟨⟨false, 13⟩, 41, 22, 13, 0, 0, 0, 0, 0⟩),
    (0x02C852B1A0000000, .fmin ⟨⟨true, 0⟩, 41, 22, 13, 0, 0, 0, 0, 0⟩),
    (0x82D1D2B1A0000000, .fmax ⟨⟨false, 3⟩, 41, 22, 13, 0, 0, 0, 0, 0⟩),
    (0x80BB52B1A0000000, .and ⟨⟨true, 6⟩, 41, 22, 13, 0, 0, 0, 0, 0⟩)] : List (Word × Instr)), decodeSyll p.1 = .ok p.2 := by decide +kernel

/-- Words of the S slot (R163 to R165, Tables 8-12 and 10-1), bits laid out by hand of the tables. -/
theorem test_decode_Scalar3 : ∀ p ∈ ([
    (0x00D4D2B1A0000000, .or ⟨⟨false, 9⟩, 41, 22, 13, 0, 0, 0, 0, 0⟩),
    (0x002E52B40607FF70, .addi ⟨⟨true, 12⟩, 41, 22, 0x80c0ffee, 0⟩),
    (0x80C7D2B40607FF70, .andi ⟨⟨false, 15⟩, 41, 22, 0x80c0ffee, 0⟩),
    (0x80E952B40607FF70, .ori ⟨⟨true, 2⟩, 41, 22, 0x80c0ffee, 0⟩),
    (0x0102D2B40607FF70, .xori ⟨⟨false, 5⟩, 41, 22, 0x80c0ffee, 0⟩),
    (0x012C52B000000168, .shli ⟨⟨true, 8⟩, 41, 22, 45, 0⟩),
    (0x8145D2B000000168, .shri ⟨⟨false, 11⟩, 41, 22, 45, 0⟩),
    (0x816F52B000000168, .srai ⟨⟨true, 14⟩, 41, 22, 45, 0⟩),
    (0x01B0D2B000000000, .clz ⟨⟨false, 1⟩, 41, 22, 0, 0, 0, 0, 0, 0⟩),
    (0x01CA52B000000000, .popc ⟨⟨true, 4⟩, 41, 22, 0, 0, 0, 0, 0, 0⟩),
    (0x81D3D355C0FFEE11, .li ⟨⟨false, 7⟩, 41, 0x155c0ffee11⟩),
    (0x81ED5200005C0FFE, .lih ⟨⟨true, 10⟩, 41, 0x5c0ffe⟩)] : List (Word × Instr)), decodeSyll p.1 = .ok p.2 := by decide +kernel

/-- Words of the S slot (R163 to R165, Tables 8-12 and 10-1), bits laid out by hand of the tables. -/
theorem test_decode_Scalar4 : ∀ p ∈ ([
    (0x01F6D2B1A0048000, .selPred ⟨⟨false, 13⟩, 41, 22, 13, 0, 0, 9, 0, 0⟩),
    (0x01F852B1BB000040, .selBits ⟨⟨true, 0⟩, 41, 22, 13, 54, 0, 0, 0, 1⟩),
    (0x820180B1A02D3140, .cmp ⟨⟨false, 3⟩, 0, 22, 13, 0, 5, 10, 6, 5⟩),
    (0x821B1AB40607FF73, .cmpi ⟨⟨true, 6⟩, 13, 22, 0x80c0ffee, 3⟩),
    (0x02248000002D31C0, .plogic ⟨⟨false, 9⟩, 0, 0, 0, 0, 5, 10, 6, 7⟩),
    (0x02BE52B1BB000000, .ffma ⟨⟨true, 12⟩, 41, 22, 13, 54, 0, 0, 0, 0⟩),
    (0x82E780B1A02D30C0, .fcmp ⟨⟨false, 15⟩, 0, 22, 13, 0, 5, 10, 6, 3⟩),
    (0x82F952B000000240, .fcvt ⟨⟨true, 2⟩, 41, 22, 0, 0, 0, 0, 0, 9⟩),
    (0x0302810181FFDC00, .br ⟨⟨false, 5⟩, 0, 0x80c0ffee⟩),
    (0x031C530181FFDC00, .brl ⟨⟨true, 8⟩, 41, 0x80c0ffee⟩),
    (0x8325D2B000000000, .jr ⟨⟨false, 11⟩, 41, 22, 0, 0, 0, 0, 0, 0⟩),
    (0x833F02B00607FF70, .loop ⟨⟨true, 14⟩, 1, 22, 0xc0ffee, 0⟩)] : List (Word × Instr)), decodeSyll p.1 = .ok p.2 := by decide +kernel

/-- Words of the S slot (R163 to R165, Tables 8-12 and 10-1), bits laid out by hand of the tables. -/
theorem test_decode_Scalar5 : ∀ p ∈ ([
    (0x0340800000000000, .exit ⟨⟨false, 1⟩, 0, 0, 0, 0, 0, 0, 0, 0⟩),
    (0x035A000000000000, .yield ⟨⟨true, 4⟩, 0, 0, 0, 0, 0, 0, 0, 0⟩),
    (0x8383D20000000088, .srd ⟨⟨false, 7⟩, 41, 0, 17, 0⟩),
    (0x839D00B000000060, .swr ⟨⟨true, 10⟩, 0, 22, 12, 0⟩),
    (0x03A69AB000000000, .stg ⟨⟨false, 13⟩, 13, 22, 0, 0, 0, 0, 0, 0⟩),
    (0x03B81AB000000000, .tset ⟨⟨true, 0⟩, 13, 22, 0, 0, 0, 0, 0, 0⟩),
    (0x83C19AB000000000, .xpset ⟨⟨false, 3⟩, 13, 22, 0, 0, 0, 0, 0, 0⟩),
    (0x83DB1AB40607FF70, .svc ⟨⟨true, 6⟩, 13, 22, 0x80c0ffee, 0⟩),
    (0x03E4D20000000000, .tick ⟨⟨false, 9⟩, 41, 0, 0, 0, 0, 0, 0, 0⟩)] : List (Word × Instr)), decodeSyll p.1 = .ok p.2 := by decide +kernel

/-- Words of the V slots (R166, Tables 8-13, 11-1 and 11-3), bits laid out by hand of the tables. -/
theorem test_decode_Vector1 : ∀ p ∈ ([
    (0x100A555D02000000, .vadd ⟨⟨true, 4⟩, false, 21, 10, 29, 0, 4, false, 0⟩),
    (0xA013D55D01000000, .vsub ⟨⟨false, 7⟩, true, 21, 10, 29, 0, 2, false, 0⟩),
    (0x9029554000603140, .vmul ⟨⟨true, 2⟩, false, 21, 10, 0, 0, 0, true, 0x203140⟩),
    (0x2032D55D02800000, .vmulh ⟨⟨false, 5⟩, true, 21, 10, 29, 0, 5, false, 0⟩),
    (0x1048555D71800000, .vmac ⟨⟨true, 0⟩, false, 21, 10, 29, 14, 3, false, 0⟩),
    (0xA051D540024007C0, .vshl ⟨⟨false, 3⟩, true, 21, 10, 0, 0, 4, true, 0x7c0⟩),
    (0x906B555D00800000, .vshr ⟨⟨true, 6⟩, false, 21, 10, 29, 0, 1, false, 0⟩),
    (0x2070D55D02800000, .vsra ⟨⟨false, 1⟩, true, 21, 10, 29, 0, 5, false, 0⟩),
    (0x108A555D06000000, .vand ⟨⟨true, 4⟩, false, 21, 10, 29, 0, 12, false, 0⟩),
    (0xA093D55D04800000, .vor ⟨⟨false, 7⟩, true, 21, 10, 29, 0, 9, false, 0⟩),
    (0x90A9555D03000000, .vxor ⟨⟨true, 2⟩, false, 21, 10, 29, 0, 6, false, 0⟩),
    (0x20B2D54005800000, .vnot ⟨⟨false, 5⟩, true, 21, 10, 0, 0, 11, false, 0⟩)] : List (Word × Instr)), decodeSyll p.1 = .ok p.2 := by decide +kernel

/-- Words of the V slots (R166, Tables 8-13, 11-1 and 11-3), bits laid out by hand of the tables. -/
theorem test_decode_Vector2 : ∀ p ∈ ([
    (0x10C8555D05000000, .vmin ⟨⟨true, 0⟩, false, 21, 10, 29, 0, 10, false, 0⟩),
    (0xA0D1D54002FFFF80, .vmax ⟨⟨false, 3⟩, true, 21, 10, 0, 0, 5, true, 0x3fff80⟩),
    (0x90EB554000000000, .vabs ⟨⟨true, 6⟩, false, 21, 10, 0, 0, 0, false, 0⟩),
    (0x20F0D54002000000, .vneg ⟨⟨false, 1⟩, true, 21, 10, 0, 0, 4, false, 0⟩),
    (0x110A155D01801800, .vcmp ⟨⟨true, 4⟩, false, 5, 10, 29, 0, 3, false, 0x1800⟩),
    (0xA113D55D04280000, .vsel ⟨⟨false, 7⟩, true, 21, 10, 29, 0, 8, false, 0x280000⟩),
    (0x9129554003800000, .vmov ⟨⟨true, 2⟩, false, 21, 10, 0, 0, 7, false, 0⟩),
    (0x2132D54004C007C0, .vbcastElem ⟨⟨false, 5⟩, true, 21, 10, 0, 0, 9, true, 0x7c0⟩),
    (0x1138540000603141, .vbcastImm ⟨⟨true, 0⟩, false, 21, 0, 0, 0, 0, true, 0x203141⟩),
    (0xA131D40005CFE002, .vbcastHi ⟨⟨false, 3⟩, true, 21, 0, 0, 0, 11, true, 0xfe002⟩),
    (0x914B554005C003C0, .vins ⟨⟨true, 6⟩, false, 21, 10, 0, 0, 11, true, 0x3c0⟩),
    (0x2150D54003400FC0, .vext ⟨⟨false, 1⟩, true, 21, 10, 0, 0, 6, true, 0xfc0⟩)] : List (Word × Instr)), decodeSyll p.1 = .ok p.2 := by decide +kernel

/-- Words of the V slots (R166, Tables 8-13, 11-1 and 11-3), bits laid out by hand of the tables. -/
theorem test_decode_Vector3 : ∀ p ∈ ([
    (0x116A540002E03140, .viota ⟨⟨true, 4⟩, false, 21, 0, 0, 0, 5, true, 0x203140⟩),
    (0xA203D55D04800000, .vfadd ⟨⟨false, 7⟩, true, 21, 10, 29, 0, 9, false, 0⟩),
    (0x9219555D05000000, .vfsub ⟨⟨true, 2⟩, false, 21, 10, 29, 0, 10, false, 0⟩),
    (0x2222D55D05800000, .vfmul ⟨⟨false, 5⟩, true, 21, 10, 29, 0, 11, false, 0⟩),
    (0x1238555D74800000, .vfma ⟨⟨true, 0⟩, false, 21, 10, 29, 14, 9, false, 0⟩),
    (0xA241D55D05000000, .vfmin ⟨⟨false, 3⟩, true, 21, 10, 29, 0, 10, false, 0⟩),
    (0x925B555D05800000, .vfmax ⟨⟨true, 6⟩, false, 21, 10, 29, 0, 11, false, 0⟩),
    (0x2260955D04801000, .vfcmp ⟨⟨false, 1⟩, true, 5, 10, 29, 0, 9, false, 0x1000⟩),
    (0x128A55405B007000, .vcvt ⟨⟨true, 4⟩, false, 21, 10, 0, 11, 6, false, 0x7000⟩),
    (0xA293D55D03800000, .vbcvt ⟨⟨false, 7⟩, true, 21, 10, 29, 0, 7, false, 0⟩),
    (0x92C9554005800000, .vrsum ⟨⟨true, 2⟩, false, 21, 10, 0, 0, 11, false, 0⟩),
    (0x22D2D54004000000, .vrmax ⟨⟨false, 5⟩, true, 21, 10, 0, 0, 8, false, 0⟩)] : List (Word × Instr)), decodeSyll p.1 = .ok p.2 := by decide +kernel

/-- Words of the V slots (R166, Tables 8-13, 11-1 and 11-3), bits laid out by hand of the tables. -/
theorem test_decode_Vector4 : ∀ p ∈ ([
    (0x12E8514004C10101, .vcas ⟨⟨true, 0⟩, false, 20, 10, 0, 0, 9, true, 0x10101⟩),
    (0xA301940000333800, .mlogic ⟨⟨false, 3⟩, true, 5, 0, 0, 0, 0, false, 0x333800⟩),
    (0x931B540000300000, .mcnt ⟨⟨true, 6⟩, false, 21, 0, 0, 0, 0, false, 0x300000⟩),
    (0x2320940000300000, .mfirst ⟨⟨false, 1⟩, true, 5, 0, 0, 0, 0, false, 0x300000⟩),
    (0x140A155D05001D00, .wcmp ⟨⟨true, 4⟩, false, 5, 10, 29, 0, 10, false, 0x1d00⟩),
    (0xA413940006330800, .wand ⟨⟨false, 7⟩, true, 5, 0, 0, 0, 12, false, 0x330800⟩),
    (0x9429140006330000, .wor ⟨⟨true, 2⟩, false, 5, 0, 0, 0, 12, false, 0x330000⟩),
    (0x2432940006300000, .wnot ⟨⟨false, 5⟩, true, 5, 0, 0, 0, 12, false, 0x300000⟩),
    (0x1448555D04B00000, .wblend ⟨⟨true, 0⟩, false, 21, 10, 29, 0, 9, false, 0x300000⟩),
    (0xA451940006300000, .wcoll ⟨⟨false, 3⟩, true, 5, 0, 0, 0, 12, false, 0x300000⟩),
    (0x946B540005B00000, .wgradCmp ⟨⟨true, 6⟩, false, 21, 0, 0, 0, 11, false, 0x300000⟩),
    (0x2460D55D05800800, .wgradBlend ⟨⟨false, 1⟩, true, 21, 10, 29, 0, 11, false, 0x800⟩)] : List (Word × Instr)), decodeSyll p.1 = .ok p.2 := by decide +kernel

/-- Words of the V slots (R166, Tables 8-13, 11-1 and 11-3), bits laid out by hand of the tables. -/
theorem test_decode_Vector5 : ∀ p ∈ ([
    (0x146A540005801000, .wgradColl ⟨⟨true, 4⟩, false, 21, 0, 0, 0, 11, false, 0x1000⟩),
    (0xA473954006403140, .wset ⟨⟨false, 7⟩, true, 5, 10, 0, 0, 12, true, 0x3140⟩),
    (0x9489540006300000, .wget ⟨⟨true, 2⟩, false, 21, 0, 0, 0, 12, false, 0x300000⟩),
    (0x2492940006300500, .wlin ⟨⟨false, 5⟩, true, 5, 0, 0, 0, 12, false, 0x300500⟩),
    (0x2508554005800000, .vexp2 ⟨⟨true, 0⟩, true, 21, 10, 0, 0, 11, false, 0⟩),
    (0xA511D54004800000, .vlog2 ⟨⟨false, 3⟩, true, 21, 10, 0, 0, 9, false, 0⟩),
    (0xA52B554005000000, .vrcp ⟨⟨true, 6⟩, true, 21, 10, 0, 0, 10, false, 0⟩),
    (0x2530D54005800000, .vrsq ⟨⟨false, 1⟩, true, 21, 10, 0, 0, 11, false, 0⟩),
    (0x254A554004800000, .vtanh ⟨⟨true, 4⟩, true, 21, 10, 0, 0, 9, false, 0⟩),
    (0x9583815D05800000, .vstatNorm ⟨⟨false, 7⟩, false, 0, 10, 29, 0, 11, false, 0⟩),
    (0xA589015D05800800, .vstatLse ⟨⟨true, 2⟩, true, 0, 10, 29, 0, 11, false, 0x800⟩),
    (0x1592D54005300000, .vnear ⟨⟨false, 5⟩, false, 21, 10, 0, 0, 10, false, 0x300000⟩)] : List (Word × Instr)), decodeSyll p.1 = .ok p.2 := by decide +kernel

/-- Words of the X slot (R167, Table 11-5), bits laid out by hand of the tables. -/
theorem test_decode_Exchange1 : ∀ p ∈ ([
    (0x3008555600000000, .xperm ⟨⟨true, 0⟩, 21, 10, 11, 0, 0, 0, 0⟩),
    (0xB011D540091F0000, .xrot ⟨⟨false, 3⟩, 21, 10, 0, 0, 9, 31, 0⟩),
    (0xB02B5541DB100000, .xshift ⟨⟨true, 6⟩, 21, 10, 0, 29, 11, 16, 0⟩),
    (0x3030D54004070000, .xbcast ⟨⟨false, 1⟩, 21, 10, 0, 0, 4, 7, 0⟩),
    (0x304A55560C000000, .xsec ⟨⟨true, 4⟩, 21, 10, 11, 0, 12, 0, 0⟩),
    (0xB053D541D6010000, .xzip ⟨⟨false, 7⟩, 21, 10, 0, 29, 6, 1, 0⟩),
    (0xB0695541D2010000, .xunzip ⟨⟨true, 2⟩, 21, 10, 0, 29, 2, 1, 0⟩),
    (0x3072D54008000000, .xrev ⟨⟨false, 5⟩, 21, 10, 0, 0, 8, 0, 0⟩)] : List (Word × Instr)), decodeSyll p.1 = .ok p.2 := by decide +kernel

/-- Words of the M slot (R168, R280), bits laid out by hand of the tables. -/
theorem test_decode_Matrix1 : ∀ p ∈ ([
    (0x400C005800000000, .mzero ⟨⟨true, 8⟩, 0, 0, 11, 0, 0, 0, 0, 0⟩),
    (0xC015EB4000F80000, .mop ⟨⟨false, 11⟩, 13, 6, 8, 0, 0, 31, 0, 0⟩),
    (0xC02F6B0280000000, .mpart ⟨⟨true, 14⟩, 13, 6, 0, 5, 0, 0, 0, 0⟩),
    (0x4030EB4280000000, .mlut ⟨⟨false, 1⟩, 13, 6, 8, 5, 0, 0, 0, 0⟩),
    (0x404A6B42B62D8000, .mlut2 ⟨⟨true, 4⟩, 13, 6, 8, 5, 6, 0xc5, 11, 0⟩),
    (0xC053EB0000000000, .mscl ⟨⟨false, 7⟩, 13, 6, 0, 0, 0, 0, 0, 0⟩),
    (0xC06D544801680000, .mrd ⟨⟨true, 10⟩, 10, 8, 9, 0, 0, 45, 0, 0⟩),
    (0x4076D44801680000, .mwr ⟨⟨false, 13⟩, 10, 8, 9, 0, 0, 45, 0, 0⟩),
    (0x4088004801680000, .mpeak ⟨⟨true, 0⟩, 0, 0, 9, 0, 0, 45, 0, 0⟩),
    (0xC081804801680400, .mpeakSettle ⟨⟨false, 3⟩, 0, 0, 9, 0, 0, 45, 0, 1⟩),
    (0xC09B6B4F2E2D8000, .mopt ⟨⟨true, 6⟩, 13, 6, 9, 14, 5, 0xc5, 11, 0⟩),
    (0x40A4804829698000, .mxfer ⟨⟨false, 9⟩, 0, 0, 9, 0, 5, 45, 3, 0⟩)] : List (Word × Instr)), decodeSyll p.1 = .ok p.2 := by decide +kernel

/-- Words of the M slot (R168, R280), bits laid out by hand of the tables. -/
theorem test_decode_Matrix2 : ∀ p ∈ ([
    (0x40BE680000000400, .mwait ⟨⟨true, 12⟩, 13, 0, 0, 0, 0, 0, 0, 1⟩)] : List (Word × Instr)), decodeSyll p.1 = .ok p.2 := by decide +kernel

/-- Words of the LD slot (R169, Table 12-1), bits laid out by hand of the tables. -/
theorem test_decode_Load1 : ∀ p ∈ ([
    (0xD007D6C8CE40F000, .lds ⟨⟨false, 15⟩, 21, 44, 0x8ce4, 0, 1, 3, 1, 0, 0, false⟩),
    (0xD01956C8CE400940, .ldv ⟨⟨true, 2⟩, 21, 44, 0x8ce4, 0, 0, 0, 0, 37, 0, false⟩),
    (0x5022D6C8CE4086C0, .ldvx ⟨⟨false, 5⟩, 21, 44, 0x8ce4, 0, 1, 0, 0, 27, 0, false⟩),
    (0x503C36C8CE400940, .ldt ⟨⟨true, 8⟩, 13, 44, 0x8ce4, 0, 0, 0, 0, 37, 0, false⟩),
    (0xD035B6C00C500026, .ldtRing ⟨⟨false, 11⟩, 13, 44, 0xc5, 0, 0, 0, 0, 0, 9, true⟩),
    (0xD04F56C00C500026, .ldq ⟨⟨true, 14⟩, 21, 44, 0xc5, 0, 0, 0, 0, 0, 9, true⟩),
    (0x5050D6C8CE448014, .ldc ⟨⟨false, 1⟩, 21, 44, 0x8ce4, 2, 1, 0, 0, 0, 5, false⟩),
    (0x506A1AC8CE408000, .ldw ⟨⟨true, 4⟩, 6, 44, 0x8ce4, 0, 1, 0, 0, 0, 0, false⟩),
    (0xD0739AC8CE400000, .ldm ⟨⟨false, 7⟩, 6, 44, 0x8ce4, 0, 0, 0, 0, 0, 0, false⟩),
    (0xD08D56C8CE400000, .ldstat ⟨⟨true, 10⟩, 21, 44, 0x8ce4, 0, 0, 0, 0, 0, 0, false⟩),
    (0x5096D6C8CE417000, .probe ⟨⟨false, 13⟩, 21, 44, 0x8ce4, 0, 2, 3, 1, 0, 0, false⟩),
    (0x509856C8CE43B964, .probeFill ⟨⟨true, 0⟩, 21, 44, 0x8ce4, 1, 3, 1, 1, 37, 9, false⟩)] : List (Word × Instr)), decodeSyll p.1 = .ok p.2 := by decide +kernel

/-- Words of the ST slot (R169, Table 12-1), bits laid out by hand of the tables. -/
theorem test_decode_Store1 : ∀ p ∈ ([
    (0xE001D6C8CE40D000, .sts ⟨⟨false, 3⟩, 21, 44, 0x8ce4, 0, 1, 2, 1, 0, 0, false⟩),
    (0xE01B56C8CE400940, .stv ⟨⟨true, 6⟩, 21, 44, 0x8ce4, 0, 0, 0, 0, 37, 0, false⟩),
    (0x6024D6C8CE4086C0, .stvx ⟨⟨false, 9⟩, 21, 44, 0x8ce4, 0, 1, 0, 0, 27, 0, false⟩),
    (0x603E36C8CE400940, .stt ⟨⟨true, 12⟩, 13, 44, 0x8ce4, 0, 0, 0, 0, 37, 0, false⟩),
    (0xE047D6C00C500026, .stq ⟨⟨false, 15⟩, 21, 44, 0xc5, 0, 0, 0, 0, 0, 9, true⟩),
    (0xE05956C8CE420014, .stc ⟨⟨true, 2⟩, 21, 44, 0x8ce4, 1, 0, 0, 0, 0, 5, false⟩),
    (0x60629AC8CE408000, .stw ⟨⟨false, 5⟩, 6, 44, 0x8ce4, 0, 1, 0, 0, 0, 0, false⟩),
    (0x607C1AC8CE400000, .stm ⟨⟨true, 8⟩, 6, 44, 0x8ce4, 0, 0, 0, 0, 0, 0, false⟩),
    (0xE085D6C8CE4E7940, .atom ⟨⟨false, 11⟩, 21, 44, 0x8ce4, 7, 0, 3, 1, 37, 0, false⟩),
    (0xE09F56C8CE401000, .tagw ⟨⟨true, 14⟩, 21, 44, 0x8ce4, 0, 0, 0, 1, 0, 0, false⟩)] : List (Word × Instr)), decodeSyll p.1 = .ok p.2 := by decide +kernel

/-- Words of the E slot (R170, Table 12-2), bits laid out by hand of the tables. -/
theorem test_decode_Engine1 : ∀ p ∈ ([
    (0x7000D80036800CA1, .cpy ⟨⟨false, 1⟩, 11, 0, 0, 6, 13, 0, 0, 0, true, 37, 1⟩),
    (0x701A580034000CA1, .cpya ⟨⟨true, 4⟩, 11, 0, 0, 6, 8, 0, 0, 0, true, 37, 1⟩),
    (0xF023D80037000000, .cpyw ⟨⟨false, 7⟩, 11, 0, 0, 6, 14, 0, 0, 0, false, 0, 0⟩),
    (0xF08D58A136800000, .enc ⟨⟨true, 10⟩, 11, 5, 2, 6, 13, 0, 0, 0, false, 0, 0⟩),
    (0x7096DCA030000000, .cbindPin ⟨⟨false, 13⟩, 11, 37, 0, 6, 0, 0, 0, 0, false, 0, 0⟩),
    (0x70985CA030000001, .cbindFloat ⟨⟨true, 0⟩, 11, 37, 0, 6, 0, 0, 0, 0, false, 0, 1⟩),
    (0xF0A1DCAD00000000, .cbrev ⟨⟨false, 3⟩, 11, 37, 26, 0, 0, 0, 0, 0, false, 0, 0⟩),
    (0xF0BB000030000000, .cbret ⟨⟨true, 6⟩, 0, 0, 0, 6, 0, 0, 0, 0, false, 0, 0⟩),
    (0x7104DCAD70000000, .splice ⟨⟨false, 9⟩, 11, 37, 26, 14, 0, 0, 0, 0, false, 0, 0⟩),
    (0x710E5CAD70000001, .spliceTrap ⟨⟨true, 12⟩, 11, 37, 26, 14, 0, 0, 0, 0, false, 0, 1⟩),
    (0xF117DCAD70000000, .pin ⟨⟨false, 15⟩, 11, 37, 26, 14, 0, 0, 0, 0, false, 0, 0⟩),
    (0xF12904AD70000000, .unpin ⟨⟨true, 2⟩, 0, 37, 26, 14, 0, 0, 0, 0, false, 0, 0⟩)] : List (Word × Instr)), decodeSyll p.1 = .ok p.2 := by decide +kernel

/-- Words of the E slot (R170, Table 12-2), bits laid out by hand of the tables. -/
theorem test_decode_Engine2 : ∀ p ∈ ([
    (0x7132D80D70000000, .share ⟨⟨false, 5⟩, 11, 0, 26, 14, 0, 0, 0, 0, false, 0, 0⟩),
    (0x718C5CAD00000000, .pgalloc ⟨⟨true, 8⟩, 11, 37, 26, 0, 0, 0, 0, 0, false, 0, 0⟩),
    (0xF195DCA000000000, .pgfree ⟨⟨false, 11⟩, 11, 37, 0, 0, 0, 0, 0, 0, false, 0, 0⟩),
    (0xF1AF04A070000000, .xlat ⟨⟨true, 14⟩, 0, 37, 0, 14, 0, 0, 0, 0, false, 0, 0⟩),
    (0x71B0800070000000, .hrel ⟨⟨false, 1⟩, 0, 0, 0, 14, 0, 0, 0, 0, false, 0, 0⟩),
    (0x720A5CA000000000, .advProd ⟨⟨true, 4⟩, 11, 37, 0, 0, 0, 0, 0, 0, false, 0, 0⟩),
    (0xF203DCA000000001, .advCons ⟨⟨false, 7⟩, 11, 37, 0, 0, 0, 0, 0, 0, false, 0, 1⟩),
    (0xF21D5CA000000000, .ringset ⟨⟨true, 10⟩, 11, 37, 0, 0, 0, 0, 0, 0, false, 0, 0⟩),
    (0x7226DCAD00000D40, .msg ⟨⟨false, 13⟩, 11, 37, 26, 0, 0, 0, 0, 0, true, 42, 0⟩),
    (0x72385CAD00000000, .task ⟨⟨true, 0⟩, 11, 37, 26, 0, 0, 0, 0, 0, false, 0, 0⟩),
    (0xF28184AD00000D40, .evsig ⟨⟨false, 3⟩, 0, 37, 26, 0, 0, 0, 0, 0, true, 42, 0⟩),
    (0xF29B04AD00000000, .evwait ⟨⟨true, 6⟩, 0, 37, 26, 0, 0, 0, 0, 0, false, 0, 0⟩)] : List (Word × Instr)), decodeSyll p.1 = .ok p.2 := by decide +kernel

/-- Words of the E slot (R170, Table 12-2), bits laid out by hand of the tables. -/
theorem test_decode_Engine3 : ∀ p ∈ ([
    (0x7304800000000007, .bar ⟨⟨false, 9⟩, 0, 0, 0, 0, 0, 0, 0, 0, false, 0, 7⟩),
    (0x731E000000000000, .sync ⟨⟨true, 12⟩, 0, 0, 0, 0, 0, 0, 0, 0, false, 0, 0⟩),
    (0xF3278000002D6000, .fence ⟨⟨false, 15⟩, 0, 0, 0, 0, 0, 2, 13, 6, false, 0, 0⟩),
    (0xF339580000100000, .drain ⟨⟨true, 2⟩, 11, 0, 0, 0, 0, 1, 0, 0, false, 0, 0⟩),
    (0x7342800000000003, .step ⟨⟨false, 5⟩, 0, 0, 0, 0, 0, 0, 0, 0, false, 0, 3⟩),
    (0x735C04A000000000, .twait ⟨⟨true, 8⟩, 0, 37, 0, 0, 0, 0, 0, 0, false, 0, 0⟩),
    (0xF385D80D07000000, .flapp ⟨⟨false, 11⟩, 11, 0, 26, 0, 14, 0, 0, 0, false, 0, 0⟩),
    (0xF39F5CA03680000E, .rmw ⟨⟨true, 14⟩, 11, 37, 0, 6, 13, 0, 0, 0, false, 0, 14⟩)] : List (Word × Instr)), decodeSyll p.1 = .ok p.2 := by decide +kernel

/-- The hints of R159 and R185, whatever their operand field. -/
theorem test_decode_hints : decodeSyll 0x1FF0000000000000 = .ok (.hint ⟨1, 15, 0⟩) ∧ decodeSyll 0xAF0FFFFFFFFFFFFF = .ok (.hint ⟨2, 0, 0xFFFFFFFFFFFFF⟩) := by
  decide +kernel

/-- The remaining words that the spec writes out (Tables 13-3, 15-4 and 16-4, R256). -/
theorem test_decode_examples : ∀ p ∈ ([
    (0xD040100000000006, .ldq ⟨on, 4, 0, 0, 0, 0, 0, 0, 0, 1, true⟩), (0xF000080010000000, .cpy (ef 1 0 0 2 0)),
    (0xF320000000024000, .fence ⟨on, 0, 0, 0, 0, 0, 0, 2, 4, false, 0, 0⟩), (0xC080000000D80400, .mpeakSettle (mf 0 0 0 27 1)),
    (0xE0006DA020004000, .sts ⟨on, 27, 26, 0x200, 0, 0, 2, 0, 0, 0, false⟩), (0xD030096001000000, .ldt ⟨on, 2, 22, 0x10, 0, 0, 0, 0, 0, 0, false⟩),
    (0x12E0800004C02041, .vcas ⟨⟨false, 1⟩, false, 0, 0, 0, 0, 9, true, 0x2041⟩), (0xA401048A04800800, .wcmp ⟨⟨false, 2⟩, true, 1, 4, 10, 0, 9, false, 0x800⟩),
    (0xF292006F00000000, .evwait ⟨⟨false, 4⟩, 0, 3, 30, 0, 0, 0, 0, 0, false, 0, 0⟩), (0xF100080A80000000, .splice (ef 1 0 21 0 0)),
    (0xF2000BA000000001, .advCons (ef 1 29 0 0 0 1)), (0xF010080004000001, .cpya (ef 1 0 0 0 8 1))] : List (Word × Instr)), decodeSyll p.1 = .ok p.2 := by
  decide +kernel

/-- Syllables that are no instructions: an unassigned S opcode, VEXP2 in V0, guard index 8 in V1, a reserved bit of NOP. -/
theorem test_decode_refuses : (∃ v, decodeSyll 0x8230000000000000 = .bad 1 v) ∧ (∃ v, decodeSyll 0x9500000004800000 = .bad 1 v)
    ∧ (∃ v, decodeSyll 0xA004000000000000 = .bad 3 v) ∧ decodeSyll 0x8000000000000001 = .bad 2 1 :=
  ⟨⟨0, by decide +kernel⟩, ⟨0, by decide +kernel⟩, ⟨0, by decide +kernel⟩, by decide +kernel⟩

/-- An instruction with fields at the ends of their ranges that meets the hypothesis of RoundTripAll. -/
theorem test_witness_RoundTripAll : WellFormed (.add ⟨⟨true, 15⟩, 63, 63, 63, 0, 0, 0, 0, 0⟩) = true := by decide +kernel

/-- A word that meets the hypothesis of DecodedSyllablesAreEncodings. -/
theorem test_witness_DecodedSyllablesAreEncodings :
    decodeSyll 0x801FFFFFE0000000 = .ok (.add ⟨⟨true, 15⟩, 63, 63, 63, 0, 0, 0, 0, 0⟩) := by decide +kernel

/-- Opcodes that IllegalEncodings names, at the ends of their ranges, and guard index 8 and 15 of a V and an X syllable. -/
theorem test_witness_IllegalEncodings : ([0x8230000000000000, 0x8270000000000000, 0x83F0000000000000, 0x8EF0000000000000, 0x9170000000000000,
      0x9540000000000000, 0xB080000000000000, 0xC0C0000000000000, 0xD0A0000000000000, 0xE0A0000000000000, 0xF030000000000000, 0xFEF0000000000000].all fun w => decodeCause true w == some { cls := 1, code := 1, addr := w }) = true
    ∧ ([0x9004000000000000, 0x9007800000000000, 0xB004000000000000].all fun w => decodeCause true w == some { cls := 1, code := 3, addr := w }) = true
    ∧ readBundle (fun j => ([0x0011882880000000, 0xD010087004000000] : List Word)[j]?) = .whole [0x0011882880000000, 0xD010087004000000]
    ∧ readBundle (fun j => ([0x5010087004000000, 0x8011882880000000] : List Word)[j]?) = .broken 0x8011882880000000 1
    ∧ readBundle (fun _ => some 0x7000080010000000) = .broken 0x7000080010000000 0 := by decide +kernel

/-! ## The machine -/

/-- Cores and contexts at the ends of their ranges. -/
theorem test_witness_Reset : isCore 0 = true ∧ isCore 191 = true ∧ isCore 192 = false ∧ isCore 0xFF = false ∧ isCore 0x100 = true
    ∧ isCore 0x107 = true ∧ isCore 0x108 = false := by decide +kernel

/-- A state in canonical form from which a step goes on. -/
theorem test_witness_StepKeepsMemory : MemoryOk { State.reset with agenda := [.clock] } = true ∧ next (step { State.reset with agenda := [.clock] }) (fun _ => true) = true := by
  decide +kernel

/-- A program of one ADD, alone in its bundle, stands where the next step fetches. -/
def addState : State := State.reset.withFetchWord 64 0x80100828C0000000

/-- The same without its agenda, and the state before its bundle. -/
def addBase : State := { addState with agenda := [] }
def addPre : State := preBundle { addBase with ctx := { addState.ctx with len := 8 } }
def addInstr : Instr := .add ⟨on, 4, 5, 6, 0, 0, 0, 0, 0⟩

/-- Every hypothesis of StepRunsDecodedInstruction holds there. -/
theorem test_witness_StepRunsDecodedInstruction :
    addState.agenda = [.run addState.coreId] ∧ isCore addState.coreId = true ∧ inTeam addState = false ∧ mayIssue addBase = true
    ∧ icSyll addState.core addState.ctx.func.toNat addState.ctx.pc.toNat = some 0x80100828C0000000 ∧ decodeSyll 0x80100828C0000000 = .ok addInstr
    ∧ isLink addInstr = false ∧ decodeCauses addBase [0x80100828C0000000] = [] ∧ stopOf 0x80100828C0000000 = true
    ∧ issueCauses (asReleased addPre) [⟨(tagOf 0x80100828C0000000).toNat, 0x80100828C0000000, addInstr⟩] (isBranch addInstr) = []
    ∧ next (exec addInstr addPre) (fun t => decide (t.ctx.block = none ∧ t.ctx.frozen = none)) = true
    ∧ next (exec addInstr (asReleased addPre)) (fun t => decide (t.ctx.block = none ∧ t.ctx.frozen = none)) = true := by decide +kernel

/-- A BRL whose delay bundles are in the instruction cache: the linking case. -/
def brlState : State := State.reset.withFetchWord 64 0x8310200000001000

theorem test_witness_StepRunsDecodedInstruction_link :
    decodeSyll 0x8310200000001000 = .ok (.brl ⟨on, 16, 8⟩) ∧ isLink (.brl ⟨on, 16, 8⟩) = true
    ∧ (bundleLen brlState.core 0 (brlState.ctx.pc + 8)).isSome = true ∧ (bundleLen brlState.core 0 (brlState.ctx.pc + 24)).isSome = true
    ∧ (let pre := preBundle { brlState with agenda := [], ctx := { brlState.ctx with delayLen := 32 } }
       issueCauses (asReleased pre) [⟨(tagOf 0x8310200000001000).toNat, 0x8310200000001000, .brl ⟨on, 16, 8⟩⟩] true = []
       ∧ next (exec (.brl ⟨on, 16, 8⟩) pre) (fun t => decide (t.ctx.block = none ∧ t.ctx.frozen = none)) = true) := by decide +kernel

/-- A walk to a writable page, and so the record of FaultEntry. -/
theorem test_witness_FaultEntry : base.mem.wf = true ∧ walk base 1 (fqAddr base 1 0) = .ok ⟨0x50000, 0, 0x50007⟩ ∧ bits 0x50007 2 2 = 1
    ∧ tget 0 base.hub.fqSeq 1 = 0 ∧ (tget {} base.hub.supFaults 0).recs = [] ∧ lineTier base 0x50000 ≠ 1
    ∧ fqBehind base 1 (faultRecord base (srcCtx base.coreId base.ctxId) 1 base.ctx.pc ⟨1, 1, 0, 0, 0⟩) = []
    ∧ (∀ i, i < 64 → keepsByte base (0x50000 + fqAddr base 1 0 % pageBytes 0 + i) = true)
    ∧ walk { base with mem := [] } 1 (fqAddr base 1 0) = .bad 1 ∧ isCore base.coreId = true ∧ base.ctxId < 4 := by decide +kernel

/-- Causes on some slots and of one slot; two slots that write one register, and one that a result in flight meets. -/
theorem test_witness_FaultPriority :
    (∀ p ∈ ([(some 0, ⟨9, 1, 0, 0, 0⟩), (none, ⟨1, 1, 0, 0, 0⟩)] : List (Option Nat × Cause)), p.2.cls ∈ [4, 1, 3, 5, 6, 7, 8, 9, 2])
    ∧ bundleCause [(some 0, ⟨9, 1, 0, 0, 0⟩), (some 2, ⟨1, 1, 0, 0, 0⟩)] = some ⟨1, 1, 4, 0, 0⟩
    ∧ bestCause [⟨9, 1, 0, 0, 0⟩, ⟨1, 2, 0, 0, 0⟩, ⟨1, 3, 0, 0, 0⟩] = some ⟨1, 3, 0, 0, 0⟩
    ∧ (let add : Instr := .add ⟨on, 1, 2, 3, 0, 0, 0, 0, 0⟩
       let ops : List SlotOp := [⟨0, 0, add⟩, ⟨1, 0, add⟩]
       let flying := { base with ctx := { ctx1 with flights := [⟨.g 1, 2, 0xFF, 1, 0, 0⟩] } }
       (ops.map (·.slot)).Pairwise (· < ·) ∧ ops.findSome? (slotStop (preBundle base)) = none ∧ bundleBlock (asReleased (preBundle base)) ops = none
       ∧ (crossCause (asReleased (preBundle base)) ops ⟨0, 0, add⟩).isSome = true ∧ (crossCause (asReleased (preBundle base)) [⟨0, 0, add⟩] ⟨0, 0, add⟩) = none
       ∧ (crossCause (asReleased (preBundle flying)) [⟨0, 0, add⟩] ⟨0, 0, add⟩).isSome = true
       ∧ ∀ p ∈ issueCauses (asReleased (preBundle base)) ops false, p.2.cls = 2 ∧ p.2.code = 1) := by decide +kernel

/-- A frozen context that is in no team. -/
theorem test_witness_FaultReturn : (getCtx { base with ctx := { ctx1 with frozen := some ⟨1, 1, 0, 0, 0⟩ } } 0 0).frozen = some ⟨1, 1, 0, 0, 0⟩
    ∧ taskOf base 1 = none := by decide +kernel

/-- Results due in every kind of register, each alone in its own, and one not due. -/
theorem test_witness_ResultsLand :
    let due : List Flight := [.v 31 7, .m 7 7, .w 7 7, .xp 15, .h 15, .es 15, .p 15, .spec 1, .spec 2, .spec 3, .spec 9, .spec 12, .spec 15, .spec 13, .spec 14,
      .shape 15].map fun d => ⟨d, 5, 0xFF, 0, 0, 0⟩
    let c : Context := { ctx1 with flights := ⟨.g 63, 5, 0xFF, 0, 0, 0⟩ :: due ++ [⟨.g 3, 6, 0xFF, 1, 0, 0⟩] }
    twf 0 c.g = true ∧ twf 0 c.v = true ∧ twf 0 c.m = true ∧ twf 0 c.w = true ∧ twf 0 c.xp = true ∧ twf 0 c.h = true ∧ twf 0 c.es = true ∧ twf 0 base.core.shapes = true
    ∧ c.due = [] ++ ⟨.g 63, 5, 0xFF, 0, 0, 0⟩ :: due ∧ (∀ h ∈ ([] : List Flight) ++ due, h.dest ≠ .g 63) ∧ (due.map (·.dest)).Nodup := by decide +kernel

/-- Instructions of four slots with a guard that does not hold. -/
theorem test_witness_GuardOff : sguard off base.ctx = false ∧ base.ctx.leadGuard = none ∧ base.ctx.delay = 0
    ∧ ([Instr.add ⟨off, 1, 2, 3, 0, 0, 0, 0, 0⟩, .mzero ⟨off, 0, 0, 0, 0, 0, 0, 0, 0⟩, .ldw ⟨off, 0, 0, 0, 0, 0, 0, 0, 0, 0, false⟩,
        .stw ⟨off, 0, 0, 0, 0, 0, 0, 0, 0, 0, false⟩, .hrel ⟨off, 0, 0, 0, 0, 0, 0, 0, 0, false, 0, 0⟩].all
        fun i => (Machine.Encoding.tag i).any (fun t => t ∉ [1, 2, 3]) && (Machine.Encoding.guardOf i == off)) = true := by decide +kernel

/-! ## Numbers -/

/-- R28: 464 is the tie of E4M3 that does not saturate, and what lies above it does; 2^128 less half a place is the first magnitude that FP32 takes to infinity; a draw below and at the limit of R30. -/
theorem test_witness_Rounding : Val.lt (.fin false 29 4) (.fin false 29 4) = false ∧ round .e4m3 .rne (.fin false 29 4) = ⟨0x7E, false⟩
    ∧ Val.lt (.fin false 29 4) (Val.fin true 4641 (-3)).abs = true ∧ round .e4m3 .rne (.fin true 4641 (-3)) = ⟨0xFE, true⟩
    ∧ round .f32 .rne (.fin false (2 ^ 25 - 1) 103) = ⟨0x7F800000, false⟩ ∧ round .f32 .rne (.fin false (2 ^ 26 - 3) 102) = ⟨0x7F7FFFFF, false⟩
    ∧ (Val.fin false 15 5).abs.lt (.fin false 15 5) = false ∧ (Val.fin false 19 4).abs.lt (.fin false 15 5) = true
    ∧ round .e4m3 (.sr 16383) (.fin false 19 4) = ⟨0x7A, false⟩ ∧ round .e4m3 (.sr 16384) (.fin false 19 4) = ⟨0x79, false⟩ := by decide +kernel

/-- R24, R27, R29: 0.75 and a number beyond 2 in DS8, half a place of PF16 and of an integer; the start of the block of R36 with 500.0 and its one retry; a group whose two least distances are equal. -/
theorem test_witness_Conversions : (Val.ofInt 2).lt (Val.fin false 3 (-2)).abs = false ∧ ds8Val 0x0A = .fin false 96 (-7) ∧ (Val.ofInt 2).lt (Val.fin true 5 (-1)).abs = true ∧ (Val.fin false 3 (-16)).lt (.ofInt 1) = true
    ∧ pf16Val (.fin false 3 (-16)) = 2 ∧ toInt 8 true false (.fin true 257 (-1)) = ⟨0x80, false⟩
    ∧ (let v := [Val.fin false 500 0, .fin false 1 0]
       (∀ b ∈ v, b.isFin = true → (Val.fin false 500 0).lt b.abs = false) ∧ (Val.fin false 500 0).lt (.fin false 1 8) = false ∧ (Val.fin false 500 0).lt (.fin false 1 9) = true
       ∧ bcvt .e4m3 v = ([0x78, 0x30], 0x80, false))
    ∧ (let cw (a b : Int) : List Val := [.ofInt a, .ofInt b]
       let qs := [cw 0 0, cw 2 0, cw 1 4]
       (∀ x ∈ cw 1 0, x.isFin = true) ∧ search qs (cw 1 0) = (0, false) ∧ search qs [.nan, .ofInt 0] = (0, true) ∧ search [[.nan, .nan]] (cw 1 0) = (0, true)) := by decide +kernel

/-! ## Scalar instructions -/

/-- A guard that holds, room for the result, a divisor zero and one not zero. -/
theorem test_witness_IntegerResults : sguard on base.ctx = true ∧ collision base.ctx.flights (putG 1 7 20) = none ∧ base.ctx.G 2 ≠ 0 ∧ base.ctx.G 9 = 0 := by
  decide +kernel

/-- Conditions at the ends of their ranges. -/
theorem test_witness_ConstantsSelectsAndPredicates : (sr 0 2 3 0).sub.toNat = 0 ∧ (sr 0 2 3 5).sub.toNat = 5 ∧ (sr 0 2 3 7).sub.toNat = 7
    ∧ (si 0 2 0 0).sub.toNat = 0 ∧ (si 0 2 0 5).sub.toNat = 5 ∧ collision base.ctx.flights (putP 5 true 1 ++ putP 6 false 1) = none := by decide +kernel

/-- Conversions 0 and 9. -/
theorem test_witness_ScalarFloatAndConversions : (sr 1 2 0 0).sub.toNat = 0 ∧ (sr 1 2 0 9).sub.toNat = 9 ∧ collision base.ctx.flights (putG 1 7 4) = none := by
  decide +kernel

/-- A branch taken and one in a delay bundle, a loop with a count, without one, and in a delay bundle. -/
theorem test_witness_BranchesAndDelayBundles : base.ctx.delay = 0 ∧ base.ctx.leadGuard.getD (sguard on base.ctx) = true
    ∧ ({ ctx1 with delay := 2 } : Context).delay ≠ 0
    ∧ (let c : Context := { ctx1 with target := some 0x100 }
       c.delay = 0 ∧ c.act0 = false ∧ c.act1 = false ∧ c.jump = none ∧ c.target = some 0x100)
    ∧ (let c : Context := { ctx1 with delay := 1 }
       c.delay = 1 ∧ c.act0 = false ∧ c.act1 = false ∧ c.jump = none ∧ c.target = none) := by decide +kernel

theorem test_witness_Loops : base.ctx.delay = 0 ∧ base.ctx.leadGuard.getD (sguard on base.ctx) = true ∧ (base.ctx.G 2).setWidth 32 ≠ 0#32
    ∧ (base.ctx.G 9).setWidth 32 = 0#32 ∧ (si 0 9 0).gd = 0 ∧ (si 1 9 0).gd = 1
    ∧ bundleLen addState.core addState.ctx.func.toNat addState.ctx.pc = some 8
    ∧ (let c : Context := { ctx1 with act0 := true, lc0 := 1 }
       c.act0 = true ∧ c.act1 = false ∧ c.delay = 0 ∧ c.jump = none ∧ c.lc0.toNat = 0 + 1)
    ∧ (let c : Context := { ctx1 with act0 := true, act1 := true, le0 := 8, lc1 := 1 }
       c.act1 = true ∧ c.le0 ≠ c.le1 ∧ c.delay = 0 ∧ c.jump = none ∧ c.lc1.toNat = 0 + 1)
    ∧ (let c : Context := { ctx1 with act0 := true, act1 := true, pc := 8, le0 := 8, le1 := 8, lc0 := 1, lc1 := 2 }
       c.le0 = c.le1 ∧ c.pc = c.le0 ∧ c.lc0.toNat ≤ 1 ∧ 1 < c.lc1.toNat ∧ 1 < ({ c with lc0 := 2 } : Context).lc0.toNat
         ∧ ({ c with lc1 := 1 } : Context).lc1.toNat ≤ 1) := by decide +kernel

/-- A context alone on its core, and one beside a context that is ready. -/
theorem test_witness_ControlAndTick : otherReady base = false ∧ inTeam base = false ∧ base.ctx.yielded = false
    ∧ (let s := { base with core := { base.core with parked := [(1, ctx1)] } }
       s.ctx.yielded = false ∧ inTeam s = false ∧ otherReady s = true) := by decide +kernel

/-- Special registers 0 and 17, read and written, at supervisor level and below. -/
theorem test_witness_SpecialRegisters : (si 1 2 0).imm.toNat % 256 = 0 ∧ (si 1 2 17).imm.toNat % 256 = 17 ∧ (si 1 2 15).imm.toNat % 256 = 15
    ∧ base.ctx.supv = false ∧ ({ ctx1 with supv := true } : Context).supv = true ∧ collision base.ctx.flights (putG 1 7 1) = none := by decide +kernel

/-- A shape word of 65,536 bytes and format 12 is within the limits, on a tile that the context owns and one that it does not own; a ring of 64-byte slots; no ring. -/
theorem test_witness_StagingAndCalls : shFmt (0x30FFFF : BitVec 64) ≤ 12 ∧ shBytes (0x301FFF : BitVec 64) ≤ 65536
    ∧ tileOwner base.core 15 = base.ctxId ∧ tileOwner { base.core with tshare := 1 } 0 ≠ base.ctxId
    ∧ qLocal (base.ctx.Q 1) = true ∧ 64 ≤ qSize (base.ctx.Q 1) ∧ qLocal (base.ctx.Q 2) = false := by decide +kernel

/-! ## Vector instructions -/

theorem test_witness_ElementsLand : 0 < 8 ∧ 8 * 64 = 512 ∧ 32 * 16 = 512 ∧ twf 0 base.ctx.v = true := by decide +kernel

/-- Formats 0 and 5, conditions 0 and 3, results that do not collide. -/
theorem test_witness_VectorIntegers : (vf 1 2 3 0).fmt.toNat < 6 ∧ (vf 1 2 3 5).fmt.toNat < 6 ∧ 9 ≤ (vf 1 2 3 9).fmt.toNat ∧ (vf 1 2 3 11).fmt.toNat ≤ 11
    ∧ collision base.ctx.flights (vresults 1 32 16 (fun _ _ => true) (fun _ _ => 1) 2) = none := by decide +kernel

theorem test_witness_VectorMoves : Machine.Encoding.vsub (vf 1 2 3 0) = 0 ∧ Machine.Encoding.vsub (vf 1 2 3 0 (3 <<< 11)) = 3
    ∧ collision base.ctx.flights (mresults 1 16 (fun _ _ => true) (fun _ _ => true) 2) = none := by decide +kernel

theorem test_witness_VectorFloatsAndConversions : (vf 1 2 3 11).i = false ∧ Machine.Encoding.vsub (vf 1 2 3 11 (3 <<< 11)) = 3
    ∧ collision base.ctx.flights (vresults 1 32 16 (fun _ _ => true) (fun _ _ => 1) 4) = none := by decide +kernel

/-- The last pair of the last stage of 64 elements, of 32 and of 16; codes at the ends of a width. -/
theorem test_witness_ReductionsAndMasks : Machine.Encoding.vsub (vf 1 2 3 0 (7 <<< 11)) = 7
    ∧ 2 * 2 ^ 5 ≤ 64 ∧ 31 < 64 ∧ (31 : Nat).testBit 5 = false ∧ 2 * 2 ^ 4 ≤ 32 ∧ (15 : Nat).testBit 4 = false ∧ (14 : Nat).testBit 0 = false ∧ 255 < 2 ^ 8
    ∧ ([1, 2] : List Nat).length = 2 ^ (0 + 1)
    ∧ collision base.ctx.flights (vresults 2 16 32 (fun _ _ => true) (fun _ _ => 1) 2 ++ vresults 3 16 32 (fun _ _ => true) (fun _ _ => 1) 2) = none := by
  decide +kernel

/-- Infinities of one sign, infinities of two, and numbers, at κ' infinite and κ' zero. -/
theorem test_witness_Probability : Val.nan.isNaN = true ∧ (Val.inf true).isNaN = false ∧ (Val.fin false 0 0).isFin = true
    ∧ rv32 ((Val.inf true).sub (.inf true)) = .nan ∧ rv32 ((Val.inf false).sub (.inf true)) = .inf false ∧ rv32 ((Val.inf true).sub (.inf false)) = .inf true
    ∧ (rv32 ((Val.ofInt 3).sub (.ofInt 2))).isFin = true ∧ kappa { base with ctx := { ctx1 with tmpr := 0x7F800000 } } = .inf false
    ∧ collision base.ctx.flights (wresults 1 (fun _ _ => true) (fun _ _ => 1) (fun _ => 1) 3) = none := by decide +kernel

/-- A binding that is valid, whose array has no error, and one that is not, with an element enabled. -/
theorem test_witness_SpecialFunctions : FFmt.f16.value 0xFC00 = .inf true ∧ FFmt.bf16.value 0xFFC0 = .nan ∧ FFmt.f32.value 0xBF800000 = .fin true (2 ^ 23) (-23)
    ∧ FFmt.f16.value 0x8000 = .fin true 0 (-24) ∧ bValid (BitVec.ofNat 64 (2 ^ 49)) = true ∧ base.core.scratchPoison = [] ∧ bValid (base.ctx.B 0) = false
    ∧ (vguard on base.ctx 7).getLsbD 31 = true
    ∧ collision base.ctx.flights (vresults 1 16 32 (fun _ _ => true) (fun _ _ => 1) 9) = none := by decide +kernel

/-- A pattern of section indices up to 7, the network free and the network busy. -/
theorem test_witness_Exchanges : (∀ l, l < 8 → (0x76543210 : BitVec 64).toNat / 2 ^ (4 * l) % 16 < 8) ∧ base.ctx.xlast = false
    ∧ (sections.any fun sec => (List.range 16).any fun e => (vguard on { ctx1 with xlast := true } sec).getLsbD e) = true
    ∧ ({ ctx1 with xlast := true } : Context).xlast = true
    ∧ collision base.ctx.flights (vresults 1 32 16 (fun _ _ => true) (fun _ _ => 1) 6) = none := by decide +kernel

/-! ## Matrix instructions -/

/-- A shape word from its fields (Table 8-8). -/
abbrev shape (rows cols fmt : Nat) : BitVec 64 := .ofNat 64 (rows - 1 + (cols - 1) <<< 9 + fmt <<< 18)

/-- Element formats and shapes that the tile operations take: tiles 1 and 2 for MOP at its last K, 3 and 4 for MPART, 5 and 6 for MLUT and MLUT2, 7 for MOPT; binding 0 has w = 2 and d = 1. -/
def mat : State := { base with
  ctx := { ctx1 with
    b := [(0, .ofNat 64 (2 ^ 49))], q := [(1, 0x0000000000000001_8000000000C00200), (2, 0x0000000000000000_8000000000C00200)]
    g := [(2, 0x700000)] }
  core := { base.core with
    shapes := [(1, shape 256 17 6), (2, shape 17 256 10), (3, shape 8 1 11), (4, shape 2 1 6), (5, shape 8 1 11), (6, shape 2 8 1), (7, shape 2 2 11)] } }

theorem test_witness_MatrixOperations : sguard on mat.ctx = true ∧ mat.core.mqueue.length < 16 ∧ accOwner mat.core 0 = mat.ctxId ∧ accOwner mat.core 11 = mat.ctxId
    ∧ (∀ t, t < 16 → tileOwner mat.core t = mat.ctxId)
    ∧ (let x := mat.core.shape 1
       let y := mat.core.shape 2
       6 ≤ shFmt x ∧ shFmt y ≤ 10 ∧ shCols x = shRows y ∧ 16 * 1 < shCols x ∧ shRows x ≤ 256 ∧ shCols y ≤ 256 ∧ tget 0 mat.ctx.latch 1 = 0)
    ∧ (let b := mat.ctx.B 0
       bValid b = true ∧ bD b = 1 ∧ bK b = 4
       ∧ (let x := mat.core.shape 3
          let y := mat.core.shape 4
          6 ≤ shFmt y ∧ shFmt y ≤ 11 ∧ shRows y % bD b = 0 ∧ shFmt x = 11 ∧ shTr x = false ∧ shRows x = bK b * (shRows y / bD b) ∧ shCols x = shCols y)
       ∧ (let x := mat.core.shape 5
          let y := mat.core.shape 6
          shFmt x = 11 ∧ shTr x = false ∧ shRows x % bK b = 0 ∧ shFmt y = 1 ∧ shTr y = false ∧ 8 * ((shRows x / bK b + 64 / bW b - 1) / (64 / bW b)) ≤ shCols y
            ∧ shRows y ≤ 256 ∧ shCols x ≤ 256)
       ∧ (let x := mat.core.shape 6
          shFmt x = 1 ∧ shTr x = false ∧ 8 * ((31 + 1 + 64 / bW b - 1) / (64 / bW b)) ≤ shCols x)) := by decide +kernel

theorem test_witness_MatrixDrainsAndReads : qLocal (mat.ctx.Q 1) = true ∧ (mat.ctx.G 2).toNat % 2048 = 0
    ∧ (mat.ctx.G 2).toNat + 0x100000 = spaceBytes mat.coreId true ∧ qLocal (mat.ctx.Q 2) = true ∧ qSize (mat.ctx.Q 1) = qSize (mat.ctx.Q 2)
    ∧ 0 < qN (mat.ctx.Q 1) ∧ 0 + 1 ≤ seenAvail mat.core mat.ctx 1 ∧ shFmt (mat.core.shape 7) = 11
    ∧ qSize (mat.ctx.Q 1) / 16 ≤ shRows (mat.core.shape 7) * shCols (mat.core.shape 7)
    ∧ mat.core.accPoison.getLsbD 11 = false ∧ mat.ctx.accUnwaited.getLsbD 11 = false
    ∧ ({ mat.ctx with accUnwaited := 0x800 } : Context).accUnwaited.getLsbD 11 = true
    ∧ collision mat.ctx.flights (sections.flatMap fun sec => putSec (.v 3 sec) 5 (2 ^ 512 - 1) 6) = none
    ∧ mat.ctx.clearOf (· == .g 1) = true ∧ (tget {} mat.core.peaks 0).pend = []
    ∧ (tget ({} : Peak) [(0, { pend := [(1, none)] })] 0).pend ≠ [] := by decide +kernel

/-- An MZERO of A3, issued on cycle 4. -/
def zero3 : MEntry := { id := 1, op := .mzero, ctx := 0, pc := 0, acc := 3, cycle := 4 }

/-- A queue with one place left, and a bundle with a matrix operation and an LDT. -/
theorem test_witness_MatrixOperations_pair : (let s := { mat with core := { mat.core with mqueue := List.replicate 15 zero3 } }
    let pre := preBundle s
    sguard on pre.ctx = true ∧ slotStop pre ⟨4, 0, .mzero (mf 0 0 3)⟩ = none ∧ slotStop pre ⟨5, 0, .ldt (ls 1 7 0 0)⟩ = none ∧ 14 < pre.core.mqueue.length) := by
  decide +kernel

/-- The head of a queue that writes a ring with a free slot, one that writes a full ring, and one that waits for a command. -/
theorem test_witness_MatrixEngine_rings : (let e : MEntry := { zero3 with op := .mxfer, qout := some 1 }
    let s := { mat with cycle := 5, core := { mat.core with mqueue := [e] } }
    (getCore s 0).mqueue = e :: [] ∧ e.res = none ∧ e.cycle < s.cycle ∧ (getCore s 0).matrixFree ≤ s.cycle
    ∧ startedOn (getCore s 0) e.ctx 1 + 1 ≤ producerFree (getCore s 0) (ownerAt s 0 e.ctx e.task) 1
    ∧ (let t := { s with ctx := { s.ctx with q := [(1, 0x0000000000000004_8000000000C00200)] } }
       ¬ startedOn (getCore t 0) e.ctx 1 + 1 ≤ producerFree (getCore t 0) (ownerAt t 0 e.ctx e.task) 1)
    ∧ (let t := { s with core := { s.core with cmds := [{ id := 7, op := .cpy, eng := 0, ctx := 0, task := 1, func := 1, pc := 0, ring := some 2, epoch := 0, step := 0, cycle := 0, remote := true }] } }
       nearDone (getCore t 0) 7 = false ∧ farDone (getCore t 0) 7 = false ∧ nearDone (getCore t 0) 8 = true ∧ farDone (getCore t 0) 8 = true)) := by decide +kernel

/-- A queue whose head may start, and one whose head may land. -/
theorem test_witness_MatrixEngine :
    (let s := { mat with cycle := 5, core := { mat.core with mqueue := [zero3] } }
     ∃ e, (getCore s 0).mqueue = [e] ∧ e.res = none ∧ e.cycle < s.cycle ∧ (getCore s 0).matrixFree ≤ s.cycle ∧ e.holds = [] ∧ e.remoteHolds = [] ∧ e.qout = none)
    ∧ (let s := { mat with cycle := 20, core := { mat.core with mqueue := [{ zero3 with start := 5, res := some {} }] } }
     ∃ e, (getCore s 0).mqueue = [e] ∧ e.res = some {} ∧ e.start + e.busy ≤ s.cycle + 1 ∧ e.op ≠ .ldt) :=
  ⟨⟨_, rfl, by decide +kernel⟩, ⟨_, rfl, by decide +kernel⟩⟩

/-- Queued operations of the kinds that MatrixEngine tells apart, and segments: with a NaN, with infinities, with zeros, with a largest product of exponent 3; a state of AdamW that is frozen and one that is not. -/
theorem test_witness_MatrixEngine_results : twf 0 (getCore mat 0).acc = true ∧ twf 0 (getCore mat 0).tile = true ∧ zero3.k < 512 ∧ zero3.m ≤ 512 ∧ zero3.n ≤ 512
    ∧ (let e : MEntry := { zero3 with op := .mop, sa := mat.core.shape 1, sb := mat.core.shape 2 }
       e.m ≤ 512 ∧ e.n ≤ 512 ∧ 255 < e.m ∧ 255 < e.n)
    ∧ 4 * (shRows (mat.core.shape 3) * shCols (mat.core.shape 3)) ≤ 65536
    ∧ (let e : MEntry := { zero3 with op := .mlut2, acc := 0, aux := 11, sa := mat.core.shape 6, sb := mat.core.shape 6 }
       e.aux ∉ quad e.acc e.m e.n)
    ∧ (let e : MEntry := { zero3 with op := .ldt, data := some [1, 2] }
       e.data = some [1, 2] ∧ ([1, 2] : List Byte).length ≤ 65536)
    ∧ (let e : MEntry := { zero3 with op := .mopt, qin := some (mat.ctx.Q 1, 1, 0, 0x8000), qout := some 2 }
       e.qin = some (mat.ctx.Q 1, 1, 0, 0x8000) ∧ e.qout = some 2 ∧ qSize (mat.ctx.Q 2) ≤ 65536 ∧ qSize (mat.ctx.Q 1) ≤ 65536)
    ∧ (val32 0x7FC00000).isNaN = true ∧ (val32 0).isNaN = false ∧ Val.nan ∉ [Val.inf true] ∧ Val.inf true ∈ [Val.inf true] ∧ Val.inf (!true) ∉ [Val.inf true]
    ∧ ((2 ^ 120 : Nat).testBit 120 = true ∧ (0 : Nat).testBit 120 = false ∧ 2 ^ 128 - 1 < 2 ^ 128) := by decide +kernel

theorem test_witness_MatrixEngine_segments : (∀ p ∈ [Val.fin true 0 5], ∃ b x, p = Val.fin b 0 x)
    ∧ (∀ p ∈ [Val.fin false 8 0, Val.fin true 1 2], ∃ b m x, p = Val.fin b m x ∧ (m ≠ 0 → (Nat.log2 m : Int) + x ≤ 3))
    ∧ ∃ b m x, Val.fin b m x ∈ [Val.fin false 8 0, Val.fin true 1 2] ∧ m ≠ 0 ∧ (Nat.log2 m : Int) + x = 3 :=
  ⟨fun p h => ⟨true, 5, List.mem_singleton.mp h⟩, fun p h => by
    rcases List.mem_cons.mp h with rfl | h
    · exact ⟨false, 8, 0, rfl, fun _ => by decide⟩
    · exact ⟨true, 1, 2, List.mem_singleton.mp h, fun _ => by decide⟩, false, 8, 0, List.mem_cons_self, by decide, by decide⟩

/-! ## Loads and stores -/

/-- A machine for loads and stores at the top of the private scratchpad and of the window; binding 0 is valid, ring 1 has one slot produced, ring 2 none, tile 1 is 2 × 4 FP32, tag 3 holds block 0 of function 1. -/
def mem2 : State := { base with
  ctx := { ctx1 with
    g := [(2, 0x3FFE00), (3, 0x7FFE00), (4, 0x3FFFC0), (5, 0x3FFFF8), (6, 0x7FFFF8), (7, 0x3FFFE0), (8, 3), (9, 0x3FFFFC), (10, 0x7FFFFC), (11, 0x800)]
    b := [(0, .ofNat 64 (2 ^ 49 + 6 <<< 36))]
    h := [(0, .ofNat 64 (3 + 0x5 <<< 16))]
    q := [(1, 0x0000000000000001_8000000000D00200), (2, 0x0000000000000000_8000000000C00200), (3, 0x0000000000000001_8000000000D20200)] }
  core := { base.core with shapes := [(1, shape 2 4 11)], cachecfg := .ofNat 64 (1 + 4 <<< 16 + 2 <<< 32), tags := [(3, 13)] } }

/-- Register operands of loads and stores at the last address of each form. -/
theorem test_witness_PrivateLoads : sguard on mem2.ctx = true ∧ (ls 1 5 0 3).space = 0
    ∧ effAddr (ls 1 5 0 3) mem2.ctx = 0x3FFFF8 ∧ 0x3FFFF8 % 2 ^ 3 = 0 ∧ 0x3FFFF8 + 8 ≤ 0x400000
    ∧ effAddr (ls 1 2 0 0) mem2.ctx = 0x3FFE00 ∧ 0x3FFE00 % 64 = 0 ∧ 0x3FFE00 + 512 ≤ 0x400000
    ∧ banks (numbered ((List.range 32).map fun j => 0x3FFE00 + j * 16)) = []
    ∧ (gathered (ls 1 9 0 0) mem2).all (fun x => x == 0x3FFFFC) = true ∧ banks (numbered (gathered (ls 1 9 0 0) mem2)) = []
    ∧ effAddr (ls 1 4 0 0) mem2.ctx = 0x3FFFC0 ∧ 0x3FFFC0 % 8 = 0 ∧ 0x3FFFC0 + 64 ≤ 0x400000
    ∧ bValid (mem2.ctx.B 0) = true ∧ codedBytes 0 (mem2.ctx.B 0) = 32 ∧ effAddr (ls 1 7 0 0) mem2.ctx + 32 ≤ 0x400000
    ∧ mem2.core.scratchPoison = [] ∧ mem2.ctx.flights = [] := by decide +kernel

theorem test_witness_WindowLoads : (ls 1 6 1 3).space = 1 ∧ spaceBytes mem2.coreId true = 0x800000
    ∧ effAddr (ls 1 6 1 3) mem2.ctx = 0x7FFFF8 ∧ effAddr (ls 1 3 1 0) mem2.ctx = 0x7FFE00
    ∧ banks (numbered ((List.range 32).map fun j => 0x7FFE00 + j * 16)) = [] ∧ banks (numbered (gathered (ls 1 10 1 0) mem2)) = []
    ∧ ((List.range 512).all fun x => !localPoisoned mem2 mem2.coreId true (0x7FFE00 + x)) = true
    ∧ mem2.ctx.clearOf (fun d => (sections.map fun sec => Dest.v 1 sec).contains d) = true := by decide +kernel

/-- A slot produced and one that is not; a tile's image and a ring slot's; a hit and a miss in the tag table. -/
theorem test_witness_RingTableAndProbeReads : qConsumer (mem2.ctx.Q 1) = true ∧ 0 < qN (mem2.ctx.Q 1) ∧ 0 + 1 ≤ qAvail (mem2.ctx.Q 1)
    ∧ qWin (mem2.ctx.Q 1) = false ∧ qSlot (mem2.ctx.Q 1) (qCons (mem2.ctx.Q 1)) = 0x8000 ∧ (mem2.ctx.G 0).toNat % 16 = 0
    ∧ 0 + 1 ≤ seenAvail mem2.core mem2.ctx 1 ∧ seenAvail mem2.core mem2.ctx 2 ≤ 0 ∧ hTier (mem2.ctx.H 0) ≠ 1
    ∧ (let q := mem2.ctx.Q 3
       qConsumer q = true ∧ qWin q = true ∧ 0 < qN q ∧ 0 + 1 ≤ seenAvail mem2.core mem2.ctx 3 ∧ qSlot q (qCons q + 0) + 0 + 512 ≤ spaceBytes mem2.coreId true
       ∧ (∀ y, y < 512 → localPoisoned mem2 mem2.coreId true (qSlot q (qCons q) + y) = false)
       ∧ mem2.ctx.clearOf (fun d => sections.any fun sec => d == .v 1 sec) = true
       ∧ (∀ j, j < 2 → qSlot q (qCons q) + 0 + j * 16 + 16 ≤ spaceBytes mem2.coreId true))
    ∧ qAvail (mem2.ctx.Q 2) ≤ 0 ∧ ringStop mem2.core mem2.ctxId 2 = none ∧ mem2.ctx.dropped = []
    ∧ mem2.core.mqueue.length < 16 ∧ tileOwner mem2.core 1 = mem2.ctxId ∧ tileLines (mem2.core.shape 1) = (2, 16) ∧ shZ (mem2.core.shape 1) = 4
    ∧ effAddr (ls 1 7 0 0) mem2.ctx = 0x3FFFE0 ∧ (∀ j, j < 2 → 0x3FFFE0 + j * 16 + 16 ≤ 0x400000)
    ∧ (∀ j, j < 2 → 0x8000 + j * 16 + 16 ≤ 0x400000)
    ∧ mem2.core.cachecfg.getLsbD 0 = true ∧ probeHit mem2 0 = some 3 ∧ (mem2.ctx.G 8).toNat % 2048 < bits mem2.core.cachecfg.toNat 26 16
    ∧ mem2.ctx.supv = false ∧ bits mem2.core.cachecfg.toNat 42 32 ≤ (mem2.ctx.G 8).toNat % 2048
    ∧ effAddr (ls 1 11 0 0) mem2.ctx = 0x800 ∧ probeHit mem2 0x800 = none ∧ queuedCmds mem2.core 0 < 16
    ∧ hValid (mem2.ctx.H 0) = true ∧ hTier (mem2.ctx.H 0) ≠ 3 ∧ qLocal (mem2.ctx.Q 1) = true
    ∧ collision mem2.ctx.flights (putG 1 3 3 ++ putP 0 true 3) = none := by decide +kernel

theorem test_witness_PrivateStores : mem2.core.scratch.wf = true ∧ tileOwner mem2.core 1 = mem2.ctxId ∧ 0x3FFFE0 % shZ (mem2.core.shape 1) = 0
    ∧ mem2.core.tilePoison.getLsbD 1 = false ∧ mem2.ctx.tileUnwaited.getLsbD 1 = false ∧ effAddr (ls 1 7 0 0) mem2.ctx = 0x3FFFE0
    ∧ (∀ j, j < 2 → 0x3FFFE0 + j * 16 + 16 ≤ 0x400000) := by decide +kernel

theorem test_witness_WindowStores : 2 ≤ (ls 1 6 1 3).width.toNat ∧ 0x7FFFF8 % 2 ^ 3 = 0 ∧ 0x7FFFF8 + 8 ≤ spaceBytes mem2.coreId true
    ∧ (∀ x, 0x7FFFF8 ≤ x → x < 0x7FFFF8 + 8 → localPoisoned mem2 mem2.coreId true x = false) ∧ mem2.ctx.clearOf (· == .g 1) = true := by decide +kernel

theorem test_witness_PrivateStores_atomics : 2 ≤ (ls 1 9 0 2).width.toNat ∧ effAddr (ls 1 9 0 2) mem2.ctx = 0x3FFFFC ∧ 0x3FFFFC % 2 ^ 2 = 0 ∧ 0x3FFFFC + 4 ≤ 0x400000
    ∧ (∀ x, 0x3FFFFC ≤ x → x < 0x3FFFFC + 4 → mem2.core.scratchPoison.contains (x / 16) = false) ∧ collision mem2.ctx.flights (putG 1 0 5) = none := by
  decide +kernel

/-- A free slot and a full ring; a tag slot of the function and one of the supervisor. -/
theorem test_witness_RingAndTagWrites : qLocal (mem2.ctx.Q 2) = true ∧ 0 < qN (mem2.ctx.Q 2) ∧ 0 + 1 ≤ storeFree mem2.core mem2.ctx 2
    ∧ qSlot (mem2.ctx.Q 2) (qProd (mem2.ctx.Q 2)) + 512 ≤ 0x400000 ∧ storeFree mem2.core { mem2.ctx with q := [(2, 0x0000000000000004_8000000000C00200)] } 2 ≤ 0
    ∧ effAddr (ls 1 8 0 0) mem2.ctx = 3 ∧ 3 < bits mem2.core.cachecfg.toNat 26 16 ∧ bits mem2.core.cachecfg.toNat 42 32 ≤ 3
    ∧ effAddr (ls 1 0 0 0) mem2.ctx = 0 ∧ 0 < bits mem2.core.cachecfg.toNat 42 32 ∧ (mem2.ctx.G 1).toNat / 256 % 8 = 0 ∧ (mem2.ctx.G 1).toNat / 2 ^ 52 = 0
    ∧ qLocal (mem2.ctx.Q 3) = true ∧ 0 + 1 ≤ storeFree mem2.core mem2.ctx 3 ∧ qWin (mem2.ctx.Q 3) = true
    ∧ qSlot (mem2.ctx.Q 3) (qProd (mem2.ctx.Q 3) + 0) + 512 ≤ spaceBytes mem2.coreId true := by decide +kernel

/-- Accesses of both kinds, on a core and on a supervisor core. -/
theorem test_witness_WindowAccessPerforms : isSupCore 0 = false ∧ isSupCore 0x100 = true ∧ isCore 0x100 = true
    ∧ (let x : WinAcc := { id := 1, ctx := 0, cycle := 6, read := [0] }
       x.atom = none ∧ x.read ≠ [] ∧ x.entry = 0 ∧ localPoisoned base 0 true 0 = false
       ∧ (let s := { base with core := { base.core with sharedPoison := [0] } }
          x.reads = [] ++ 0 :: [] ∧ localPoisoned s 0 true 0 = true ∧ (getCtx s 0 x.ctx).life = .running ∧ (getCtx s 0 x.ctx).frozen = none))
    ∧ (let x : WinAcc := { id := 1, ctx := 0, cycle := 6, write := [(0, 1), (0, 2)] }
       x.atom = none ∧ x.read = [] ∧ x.write = [(0, 1)] ++ (0, 2) :: [])
    ∧ (let x : WinAcc := { id := 1, ctx := 0, cycle := 6, atom := some (7, 0x7FFFF8, 8, 0xFFFFFFFFFFFFFFFF, 1) }
       x.atom = some (7, 0x7FFFF8, 8, 0xFFFFFFFFFFFFFFFF, 1) ∧ (0xFFFFFFFFFFFFFFFF : BitVec 64).toNat < 256 ^ 8
       ∧ ∀ i, i < 8 → localPoisoned base 0 true (0x7FFFF8 + i) = false) := by decide +kernel
theorem test_witness_WindowAccessPerforms_wf : ∀ d, (getCore State.reset d).shared.wf = true := fun d => by
  unfold getCore; split <;> rfl

/-! ## The E slot -/

/-- A machine for the E slot: handle 0 is the page at 0x50000, writable, atomic, tier 0; ring 1 local, ring 3 a remote consumer end with one slot produced; codebook 1 has a live latest version; remote-ring entry 0 of the function is a producer end, paired with entry 1. Staging 0 to 2 is a run of 64 bytes from 0 to 64, 8 to 15 two runs of 64. -/
def eng : State := { base with
  ctx := { ctx1 with
    g := [(20, 64), (21, 0x3FFFF8), (22, 0xFFF8), (23, 0x00010001), (24, 0x10000), (25, 0x8000000040C00200), (26, 0x800000018000C00), (27, 1), (28, 0x80C00200),
      (29, 0x0000000040C00200 + 0x80000000), (30, 0x3FFFC0)]
    h := [(0, 0x50007)]
    b := [(1, .ofNat 64 (2 ^ 49))]
    q := [(1, 0x0000000000000001_8000000000C00200), (2, 0), (3, 0x0000000000000001_8000000140C00200)]
    es := [(1, 64), (2, 64), (9, 0x1000), (10, 64), (11, 1), (12, 0x4000000040)]
    pins := [⟨0x50000, 1, false, 0⟩] }
  core := { base.core with tlb := [⟨1, 0, 0x50007⟩] }
  mem := mem1 ++ [(0x52040, 5), (0x52041, 0x24), (0x52048, 1), (0x5204A, 1), (0x53000, 3), (0x53004, 1), (0x53006, 1), (0x53010, 1), (0x53016, 1)]
  hub := { hub1 with funcs := [(1, .ofNat 1024 (5 + 0x10000 <<< 64 + 0x2000 <<< 256 + 0x3000 <<< 448 + 2 <<< 512 + 0x1000 <<< 576 + 4 <<< 640))] } }

/-- The staging words of an indirect copy: two runs, their table at 0x1000 of the private scratchpad. -/
def indirect : List (BitVec 64) := [0, 0x1000, 64, 1, 0, 0, 0, 0x100003]

theorem test_witness_CopyCommandsQueue : sguard on eng.ctx = true ∧ queuedCmds eng.core 0 < 16 ∧ qLocal (eng.ctx.Q 1) = true
    ∧ dirOf (ef 1 0 0 0 0 0) = 0 ∧ dirOf (ef 1 0 0 0 0 2) = 2
    ∧ hValid (eng.ctx.H 0) = true ∧ hW (eng.ctx.H 0) = true ∧ hRat (eng.ctx.H 0) = true ∧ hTier (eng.ctx.H 0) = 0 ∧ hBytes (eng.ctx.H 0) = 65536
    ∧ (let es := stagingRun (ef 1 0 0 0 0) 3 eng
       word es 0 = 0 ∧ word es 1 = 64 ∧ bits (word es 2).toNat 31 0 = 64 ∧ bits (word es 2).toNat 63 32 = 0
       ∧ bits (word es 1).toNat 63 25 = 0 ∧ (word es 1).getLsbD 23 = false ∧ locWin (word es 0) = locWin (word es 1) ∧ locOff (word es 0) + 64 ≤ locOff (word es 1))
    ∧ (let es := stagingRun (ef 1 0 0 0 8) 8 eng
       word es 7 = 0 ∧ bits (word es 3).toNat 63 48 = 0 ∧ cpyaRuns es = [(0, 0, 0), (1, 0, 0)]
       ∧ (∀ i ∈ cpyaRuns es, 0 ≤ cpyaOff es false 0 0 i ∧ cpyaOff es false 0 0 i + 64 ≤ 65536 ∧ 0 ≤ cpyaOff es true 0x1000 0 i ∧ cpyaOff es true 0x1000 0 i + 64 ≤ 0x400000))
    ∧ cpyaInd indirect = true ∧ cpyaControl indirect 0 = true ∧ cpyaTbl indirect % 8 = 0
    ∧ cpyaTbl indirect + 8 * cpyaFirst indirect + 8 * ixAt (cpyaCounts indirect) (cpyaDim indirect) ≤ 0x400000 ∧ cpyaFillb indirect = false
    ∧ (∀ i ∈ cpyaRuns indirect, 0 ≤ cpyaOff indirect false 0 1 i ∧ cpyaOff indirect false 0 1 i + 64 ≤ 65536) := by decide +kernel

theorem test_witness_CopyCommandsQueue_rest :
    (let es := stagingRun (ef 1 0 0 0 0) 2 eng
     bits (word es 1).toNat 63 32 = 0 ∧ bits (word es 1).toNat 31 0 ≠ 0 ∧ bits (word es 1).toNat 31 0 ≤ qSize (eng.ctx.Q 1) ∧ qValid (eng.ctx.Q 1) = true
       ∧ qRemote (eng.ctx.Q 1) = false ∧ bits (word es 0).toNat 63 40 = 0 ∧ locOff (word es 0) % 64 = 0)
    ∧ (let es := stagingRun (ef 1 0 0 0 14) 2 eng
       word es 0 = 0 ∧ bits (word es 1).toNat 7 4 = 0 ∧ bits (word es 1).toNat 63 16 = 0 ∧ locOff (word es 0) + 4096 * (bits (word es 1).toNat 15 8 + 1) ≤ 0x400000)
    ∧ (eng.ctx.G 21).toNat % 8 = 0 ∧ (eng.ctx.G 21).toNat + 8 ≤ 0x400000
    ∧ queuedCmds eng.core 4 < 16 ∧ (ef 1 22 0 0 0 8).sub.getLsbD 3 = true ∧ (eng.ctx.G 22).toNat % 8 = 0 ∧ (eng.ctx.G 22).toNat + 8 ≤ hBytes (eng.ctx.H 0)
    ∧ (let es := stagingRun (ef 1 22 0 0 0) 3 eng
       bits (word es 2).toNat 63 23 = 0 ∧ bits (word es 2).toNat 22 0 % 8 = 0 ∧ bits (word es 2).toNat 22 0 + 8 ≤ 0x400000) := by decide +kernel

/-- Staging 4 to 6 of an ENC of one row of one index of width 2. -/
def engEnc : State := { eng with ctx := { eng.ctx with es := [(6, 0x1000001)] } }

theorem test_witness_BookAndTensorCommandsQueue : qLocal (eng.ctx.Q 1) = true ∧ queuedCmds eng.core 1 < 16 ∧ queuedCmds eng.core 2 < 16 ∧ queuedCmds eng.core 3 < 16
    ∧ (let es := stagingRun (ef 1 1 1 0 4) 3 engEnc
       bits (word es 0).toNat 63 40 = 0 ∧ bits (word es 1).toNat 59 40 = 0 ∧ bits (word es 2).toNat 63 48 = 0 ∧ bits (word es 2).toNat 23 0 ≠ 0
       ∧ bits (word es 2).toNat 47 24 ≠ 0 ∧ bits (word es 1).toNat 63 60 = 0 ∧ devOff (word es 0) + codedTensor (bW (engEnc.ctx.B 1)) 1 1 ≤ hBytes (engEnc.ctx.H 0)
       ∧ devOff (word es 0) = devOff (word es 1) ∧ bValid (engEnc.ctx.B 1) = true)
    ∧ bValid (eng.ctx.B 0) = false ∧ bits (eng.ctx.G 23).toNat 49 32 = 0 ∧ bits (eng.ctx.G 27).toNat 31 16 = 0
    ∧ cbindSlot eng false (eng.ctx.G 23) = some 0 ∧ cbindSlot eng true (eng.ctx.G 27) = some 0 ∧ bBase (eng.ctx.G 23) + bits (header eng 1 0x2400) 159 144 ≤ 0x400000
    ∧ (let w : BitVec 64 := .ofNat 64 (6 <<< 36)
       bVer w = 0 ∧ bFloat w = false ∧ bValid w = false ∧ bFmt w ∈ [6, 8, 9, 10] ∧ bBase w + bBytes w ≤ 0x400000)
    ∧ (eng.ctx.G 20).toNat % 64 = 0 ∧ (eng.ctx.G 20).toNat + 320 ≤ hBytes (eng.ctx.H 0) ∧ (eng.ctx.G 30).toNat % 32 = 0 ∧ (eng.ctx.G 30).toNat + 32 ≤ 0x400000
    ∧ entryCause eng 1 1 = none ∧ readCause eng 1 (svHdr (slotWord eng 1 1 0)) 64 = none ∧ hW (eng.ctx.H 0) = true ∧ hTier (eng.ctx.H 0) = 0
    ∧ pinCount eng < 16 ∧ hPsz (eng.ctx.H 0) = 0 ∧ ({ eng.ctx with supv := true } : Context).supv = true ∧ bits (0x10 : BitVec 64).toNat 4 0 ≤ 16
    ∧ bValid (eng.ctx.B 1) = true ∧ eng.ctx.supv = false
    ∧ (⟨hBase (eng.ctx.H 0) + (eng.ctx.G 0).toNat, bits (eng.ctx.G 23).toNat 15 0, false, 0⟩ : Pin) ∈ eng.ctx.pins
    ∧ (∀ m ∈ eng.core.cmds, m.id ≠ 0) ∧ eng.ctx.pins = [] ++ [⟨0x50000, 1, false, 0⟩] := by decide +kernel

/-- A translation cached and one that is not, a count of zero and one, a ring that takes it, ring words at the ends of their ranges, local and remote. -/
theorem test_witness_HandlesAndRings : tlbFind eng.core 1 0xFFF8 = some ⟨1, 0, 0x50007⟩ ∧ tlbFind eng.core 1 0x10000 = none
    ∧ (eng.ctx.G 0).toNat % 2 ^ 32 = 0 ∧ (eng.ctx.G 27).toNat % 2 ^ 32 = 1 ∧ qAvail (eng.ctx.Q 1) + 1 ≤ qN (eng.ctx.Q 1)
    ∧ qConsumer (eng.ctx.Q 1) = true ∧ 1 ≤ qAvail (eng.ctx.Q 1) ∧ qRemote (eng.ctx.Q 1) = false
    ∧ qConsumer (eng.ctx.Q 3) = true ∧ 1 ≤ qAvail (eng.ctx.Q 3) ∧ qRemote (eng.ctx.Q 3) = true
    ∧ (let w : BitVec 64 := 0x0000000000C00200
       let q : BitVec 128 := (w ||| 0x8000000000000000).setWidth 128
       bits w.toNat 21 18 ≤ 10 ∧ bits w.toNat 29 22 ≠ 0 ∧ bits w.toNat 62 48 = 0 ∧ qBase q + qN q * qSize q ≤ spaceBytes 0 (qWin q) ∧ qRemote q = false)
    ∧ (let w : BitVec 64 := 0x00000000C0C00200
       let q : BitVec 128 := (w ||| 0x8000000000000000).setWidth 128
       bits w.toNat 21 18 ≤ 10 ∧ bits w.toNat 29 22 ≠ 0 ∧ bits w.toNat 62 48 = 0 ∧ qBase q + qN q * qSize q ≤ spaceBytes 0 (qWin q) ∧ qRemote q = true
       ∧ mayBind eng (qLink q) (qProducer q) = true)
    ∧ ringCmds eng.core eng.ctxId 1 = [] ∧ returning eng eng.coreId eng.ctxId 1 = false ∧ qLocal (eng.ctx.Q 1) = true
    ∧ rrHere eng (rrEntry eng 1 (qLink (eng.ctx.Q 3))) = true ∧ rrBad eng 1 (qLink (eng.ctx.Q 3)) = none
    ∧ pairBad eng 1 (qLink ((0x80000000C0C00200 : BitVec 64).setWidth 128)) = none
    ∧ (let q : BitVec 128 := eng.ctx.Q 1
       let m : Cmd := { id := 1, op := .cpy, eng := 0, ctx := 0, task := 1, func := 1, pc := 0, ring := none, epoch := 0, step := 0, cycle := 0, sub := 2,
                        es := [0, .ofNat 64 (qSlot q (qProd q + 0)), 64] }
       m.ctx = eng.ctxId ∧ m.phase ≠ .done ∧ m.dests.any (inSlot q ((qProd q + 0) % 2 ^ 32)) = true) := by decide +kernel

/-- What a barrier, a fence and a message ask for; a level in DOMAIN and one that is not; a wait that holds and one that does not. -/
theorem test_witness_MessagesWaitsAndBarriers : (eng.ctx.G 20).toNat % 64 = 0 ∧ (eng.ctx.G 20).toNat + 64 ≤ 0x400000 ∧ queuedCmds eng.core 5 < 16
    ∧ bits (eng.ctx.G 27).toNat 19 8 = eng.hub.package.toNat ∧ 2 ≤ fSclim eng 1 ∧ fFpol eng 1 = false
    ∧ eng.core.cmds = [] ∧ groupBroken eng eng.ctx = false ∧ takesPart 0 eng = false ∧ stale eng = false ∧ eng.ctx.release = .no
    ∧ (let s := { eng with ctx := { eng.ctx with domain := 0x3F, b := [(1, .ofNat 64 (1 + 2 ^ 48 + 2 ^ 49))] } }
       takesPart 0 s = true ∧ takesPart 5 s = true ∧ stale s = true)
    ∧ stale { eng with ctx := { eng.ctx with b := [(1, .ofNat 64 (1 + 2 ^ 48 + 2 ^ 49))] } } = true ∧ isSupCore 0x100 = true
    ∧ (let h := { eng.hub with aligned := true }
       h.aligned = true ∧ h.step5Bad = []) := by decide +kernel

/-! ## Steps of the part -/

/-- A copy that engine 0 holds, as issued on cycle 0. -/
def cmd1 : Cmd := { id := 1, op := .cpy, eng := 0, ctx := 0, task := 1, func := 1, pc := 0, ring := some 1, epoch := 0, step := 0, cycle := 0 }

/-- A machine on cycle 6 whose core 0 holds the commands. -/
def withCmds (l : List Cmd) : State := { eng with cycle := 6, fresh := 9, core := { eng.core with cmds := l } }

/-- Commands queued with and without a tick, one held back, one started, one started behind an earlier one on its bytes, one suspended, one sent to another package. -/
theorem test_witness_EngineSteps : nextCmd (getCore (withCmds [cmd1]) 0) 0 = some cmd1 ∧ mayStart (withCmds [cmd1]) 0 cmd1 = true
    ∧ (let m := { cmd1 with at_ := some 3 }
       nextCmd (getCore (withCmds [m]) 0) 0 = some m ∧ mayStart (withCmds [m]) 0 m = true)
    ∧ (let m := { cmd1 with holds := [2] }
       let s := withCmds [m, { cmd1 with id := 2, eng := 1 }]
       nextCmd (getCore s 0) 0 = some m ∧ mayStart s 0 m = false)
    ∧ (let m := { cmd1 with phase := .started }
       findCmd (withCmds [m]) 0 1 = some m ∧ m.sources = [] ∧ mustFollow (withCmds [m]) 0 m = false)
    ∧ (let m := { cmd1 with phase := .started, sub := 2, es := [0, 64, 64], cycle := 1 }
       findCmd (withCmds [m]) 0 1 = some m ∧ m.sources ≠ [] ∧ (withCmds [m]).cycle < m.cycle + 6)
    ∧ (let m := { cmd1 with phase := .started, sub := 2, es := [0, 64, 64] }
       m.sources ≠ [] ∧ m.cycle + 6 ≤ (withCmds [m]).cycle ∧ mustFollow (withCmds [m]) 0 m = false)
    ∧ (let m := { cmd1 with op := .slotReturn, sub := 3, phase := .sent }
       findCmd (withCmds [m]) 0 1 = some m ∧ m.cause = none ∧ carried (withCmds [m]) 0 1 = false ∧ mayReturn (withCmds [m]) 0 m = true ∧ returnBehind (withCmds [m]) 0 m = false)
    ∧ (let m := { cmd1 with phase := .started, sub := 2, es := [0, 64, 64] }
       let m2 := { m with id := 2 }
       findCmd (withCmds [m, m2]) 0 2 = some m2 ∧ mustFollow (withCmds [m, m2]) 0 m2 = true)
    ∧ (let m := { cmd1 with phase := .suspended ⟨4, 1, 0, 0, 0⟩ }
       findCmd (withCmds [m]) 0 1 = some m ∧ m.cause ≠ none)
    ∧ (let m := { cmd1 with op := .msg, eng := 4, ga := 0x100, phase := .sent }
       findCmd (withCmds [m]) 0 1 = some m ∧ m.cause = none ∧ m.op = .msg ∧ bits m.ga.toNat 19 8 ≠ eng.hub.package.toNat
         ∧ earlierMsg (withCmds [m]) 0 m = false ∧ m.at_ = none ∧ earlierMsg (withCmds [m, { m with id := 2 }]) 0 { m with id := 2 } = true
         ∧ m.behind = false ∧ droppedBefore (withCmds [{ m with refused := 1 }, { m with id := 2 }]) 0 { m with id := 2 } = true)
    ∧ (let m := { cmd1 with op := .msg, eng := 4, ga := 0x100, phase := .sent, at_ := some 9 }
       findCmd (withCmds [m]) 0 1 = some m ∧ (withCmds [m]).tick < 9) := by decide +kernel

/-- A remote request that has failed twice, and a copy that reads CXL memory. -/
theorem test_witness_RequestFailures : (let m := { cmd1 with op := .rmw, eng := 4, remote := true, phase := .started, retries := 2 }
       findCmd (withCmds [m]) 0 1 = some m ∧ m.remote = true ∧ inFlight (withCmds [m]) 0 m = true ∧ 2 ≤ m.retries
         ∧ inFlight (withCmds [m]) 0 { m with phase := .done } = false)
    ∧ (let m := { cmd1 with h := 0x50047, es := [0, 64, 64], phase := .started }
       let t := withCmds [m]
       let s := { t with hub := { t.hub with ranges := [(0, .ofNat 256 (1 + 0x1000 <<< 80 + 2 <<< 132 + 0xFFFF <<< 192))] } }
       findCmd s 0 1 = some m ∧ m.phase = .started ∧ deviceByte s 0 m (· == 2) = some 0x50000 ∧ deviceByte t 0 m (· == 2) = none) := by decide +kernel

/-- A copy of 64 bytes within the private scratchpad, and a signal to the last counter. The other kinds follow. -/
theorem test_witness_CopiesAndSignalsPerform : (let m := { cmd1 with sub := 2, es := [0, 64, 64] }
       m.op = .cpy ∧ locWin (word m.es 0) = false ∧ locWin (word m.es 1) = false ∧ (getCore eng 0).scratch.wf = true
       ∧ (∀ i, i < 64 → localPoisoned eng 0 false (0 + i) = false))
    ∧ ({ cmd1 with op := .evsig, eng := 5, ga := 0xFFF, gb := 1 } : Cmd).op = .evsig ∧ twf 0 eng.hub.counters = true := by decide +kernel

/-- Pages in each state that the steps name: 7 in quarantine and past its epoch, 8 in quarantine within it, 9 pending scrub, 10 reset, 11 pending scrub after a poisoned line; 5 mapped. -/
def pages : State := { eng with hub := { eng.hub with
  epoch := 2, pages := [(5, mkDesc 1 1 0 0), (7, mkDesc 2 1 0 1), (8, mkDesc 2 1 0 2), (9, mkDesc 3 1 0 1), (11, mkDesc 3 1 0 1)]
  free := [12], resetPages := [(10, 1)], oncePoisoned := [11], reserve := [(1, 0x10000)], poison := [] } }

/-- A copy from and to the page of handle 0, a fill of a tag's block, a CPYW, an RMW, an allocation, records for a queue here and of another package; pages allocated and in quarantine. -/
theorem test_witness_CopiesAndSignalsPerform_rest :
    (let m := { cmd1 with h := 0x50007, es := [0xFFC0, 0x3FFFC0, 64] }
     hTier m.h = 0 ∧ locWin (word m.es 1) = false ∧ (∀ i, i < 64 → tget 0 eng.hub.copies ((hBase m.h + devOff (word m.es 0) + i) / 65536) = 0
           ∧ lineCode eng (hTier m.h) (hBase m.h + devOff (word m.es 0) + i) = none ∧ keepsByte eng (hBase m.h + devOff (word m.es 0) + i) = true))
    ∧ (let m := { cmd1 with op := .probeFill, h := 0x50007, ga := 0xF800, aux := 3 }
       m.op = .probeFill ∧ twf 0 (getCore mem2 0).tags = true ∧
         (∀ i, i < 2048 → tget 0 mem2.hub.copies ((hBase m.h + m.ga.toNat + i) / 65536) = 0 ∧ lineCode mem2 (hTier m.h) (hBase m.h + m.ga.toNat + i) = none))
    ∧ (let m := { cmd1 with op := .cpyw, sub := 2, es := [0, 64] }
       let q := (ownerCtx (withCmds [m]) 0 m).Q (m.ring.getD 0)
       qRemote q = false ∧ qWin q = false ∧ locWin (word m.es 0) = false)
    ∧ (let m := { cmd1 with op := .rmw, eng := 4, h := 0x50007, ga := 0xFFF8, sub := 15, es := [1, 0, 0x3FFFF8] }
       m.ga.toNat % 8 = 0 ∧ (∀ i, i < 8 → keepsByte eng (hBase m.h + m.ga.toNat + i) = true))
    ∧ dState (desc pages 5) = 1 ∧ dShare (desc pages 5) = 0 ∧ dState (desc pages 7) ≠ 1 ∧ twf 0 pages.hub.pages = true
    ∧ (∀ i, i < 64 → localPoisoned eng 0 false (0x3FFFC0 + i) = false) ∧ bits (0x100 : BitVec 64).toNat 19 8 ≠ eng.hub.package.toNat
    ∧ bits (0xFF : BitVec 64).toNat 19 8 = eng.hub.package.toNat ∧ (ownerCtx eng 0 cmd1).replay = [] := by decide +kernel

/-- Codewords 1, 0, -2 and 3 of the version that the directory of `eng` names; packed indices at 0x58000. -/
def books : State := { eng with
  mem := Memory.store eng.mem [(0x52404, 0x60), (0x52412, 4), (0x52440, 1), (0x52442, 0xFE), (0x52443, 3), (0x58000, 0xE), (0x58008, 7)]
  hub := { eng.hub with logs := [(18, { base := 0x400000, pages := 4, ptr := 1 })] } }

/-- The array of a CBIND, a CBREV that failed at its start and one of the same and of another format, an ENC of two rows of two indices, an append of two pages and one that is more than the log holds. -/
theorem test_witness_CopiesAndSignalsPerform_books :
    (let plain (a n : Nat) := ∀ i, i < n → tget 0 books.hub.copies ((a + i) / 65536) = 0 ∧ lineCode books 0 (a + i) = none ∧ keepsByte books (a + i) = true
     readCause books 1 0x2400 64 = none ∧ bits (header books 1 0x2400) 159 144 = 4 ∧ walk books 1 0x2440 = .ok ⟨0x50000, 0, 0x50007⟩
       ∧ hTier (handleOf 1 ⟨0x50000, 0, 0x50007⟩) = 0 ∧ plain 0x52440 4
     ∧ (∀ fmt ∈ [6, 8], let w := BitVec.ofNat 64 (2 ^ 49 + 1 + 2 ^ 16 + fmt * 2 ^ 36)
        entryCause books 1 (bId w) = none ∧ headersCause books 1 (bId w) = none ∧ mismatch books 1 w = decide (fmt = 8) ∧ cbrevVa books 1 4 = some 4)
     ∧ (let b := BitVec.ofNat 64 (1 + 2 ^ 16)
        heldCause books 1 b = none ∧ (heldBook books 1 b).k = 4 ∧ codedTensor 2 2 2 = 16 ∧ plain 0x58000 16 ∧ plain 0x59000 16)
     ∧ (let l := tget {} books.hub.logs (16 + 2)
        l.pages < l.ptr + 4 + l.bad.length ∧ l.ptr + 2 ≤ l.pages ∧ l.bad = [])) := by decide +kernel

/-- The head of a tensor at 0x51000, without a version; a request to insert one fresh piece. -/
def tensor : State := { eng with
  ctx := { eng.ctx with pins := [⟨0x51000, 1, true, 0⟩] }
  core := { eng.core with scratch := [(0x108, 1), (0x10C, 0x40), (0x200, 1)] }
  mem := Memory.store eng.mem [(0x51000, 1), (0x51010, 4), (0x51018, 4)]
  hub := { eng.hub with free := [12, 13], funcs := [(1, .ofNat 1024 (5 + 8 <<< 16 + 0x10000 <<< 64 + 0x2000 <<< 256 + 0x3000 <<< 448 + 2 <<< 512 + 0x1000 <<< 576 + 4 <<< 640))] } }

def splice1 : Cmd := { cmd1 with op := .splice, eng := 2, ga := 0x51000, gb := 0x100, began := 1 }

/-- The tensor with a first version of one piece, in the page 13 behind the list's page 12 (Tables 5-1 to 5-3). -/
def version1 : State := { tensor with
  mem := Memory.store tensor.mem [(0x30020, 7), (0x30022, 12), (0x30028, 7), (0x3002A, 13), (0x51003, 1), (0x51004, 1), (0x51008, 1), (0x5100C, 1),
    (0x51040, 5), (0x51042, 1), (0x51048, 1), (0x5104C, 1), (0x51050, 4), (0xC0000, 1), (0xC0002, 5)]
  hub := { tensor.hub with free := [], heads := [0x51000], pages := [(12, mkDesc 1 1 0 0), (13, mkDesc 1 1 0 0)] } }

/-- A SPLICE that publishes a version without pieces, one that waits for a page, and one that answers each STAT; a PIN, an UNPIN that does not retire, a SHARE of a piece, of no piece and at the limit. -/
theorem test_witness_CopiesAndSignalsPerform_tensors :
    headCause tensor splice1 false = none ∧ hdBusy (headAt tensor 0x51000) = false ∧ headTaken tensor splice1 = false ∧ spliceCause tensor 0 splice1 = none
    ∧ (match splice 1 0x51000 2 0 0x140 tensor with | .ok _ v => v | _ => 0) = 1 ∧ hdVer (headAt tensor 0x51000) = 0
    ∧ (∀ i, i < 320 → keepsByte tensor (0x51000 + i) = true ∧ lineBad tensor (0x51000 + i) = none)
    ∧ (match splice 1 0x51000 2 0 0x100 { tensor with hub := { tensor.hub with free := [] } } with | .wait => true | _ => false) = true
    ∧ (splice 1 0x51000 2 0 0x140 tensor matches .ok _ _) = true
    ∧ spliceRange tensor 1 0x51000 ⟨1, 0, 1, 0x200, [1]⟩ [] = false ∧ spliceRange tensor 1 0x51000 (spliceReq tensor 0 0x100) [] = true
    ∧ withinQuota { tensor with hub := { tensor.hub with funcs := hub1.funcs } } 1 2 = false ∧ (areaFree tensor 1 0x51000).length = 4
    ∧ (let m := { cmd1 with op := .pin, eng := 2, ga := 0x51000, gb := 0x300 }
       headCause version1 m true = none ∧ (ownerCtx version1 0 m).life = .running ∧ (ownerCtx version1 0 m).task = m.task)
    ∧ (let m := { cmd1 with op := .unpin, eng := 2, ga := 0x51000, gb := 1 }
       headCause version1 m false = none ∧ (ownerCtx version1 0 m).pins.any m.takes = true ∧ stitchSlot version1 0x51000 1 = some 0 ∧ vsCur (vslot version1 0x51000 0) = true)
    ∧ headsCause version1 1 = none ∧ twf 0 version1.hub.pages = true ∧ holders version1 13 = [0x51000] ∧ holders version1 12 = [] ∧ dShare (desc version1 13) = 0
    ∧ (∀ a ∈ holders version1 13, hdVer (headAt version1 a) ≠ 0 ∧ hdFunc (headAt version1 a) = 1 ∧ headSound version1 a = true)
    ∧ dShare (desc (setDesc 13 (mkDesc 1 1 32767 0) version1) 13) = 32767 := by decide +kernel

/-- A CPYA of two runs with strides, its table unread, read in part and an entry that FILL leaves out. -/
theorem test_witness_CopiesAndSignalsPerform_cpya :
    (let m := { cmd1 with op := .cpya, sub := 2, es := [0, 0x1000, 8, 1, .ofNat 64 (64 + 128 * 2 ^ 32), 0, 0, 0] }
     cpyaInd m.es = false ∧ cpyaRuns m.es = [(0, 0, 0), (1, 0, 0)]
       ∧ (match cpyaSides eng 0 m (1, 0, 0) with | .ok (some (.loc false 64, .loc false 0x1080)) => true | _ => false) = true)
    ∧ (let m := { cmd1 with op := .cpya, es := indirect }
       cpyaInd m.es = true ∧ 0 < cpyaEntries m.es ∧ (∀ i, i < 8 → localPoisoned eng 0 false (cpyaTbl m.es + 8 * cpyaFirst m.es + i) = false)) := by decide +kernel

/-- An allocation at the head of its queue, with a free page and quota, and without a free page. -/
theorem test_witness_EngineSteps_pgalloc : (let m := { cmd1 with op := .pgalloc, eng := 3, ga := 1 }
    let s := { pages with core := { pages.core with cmds := [m] }, hub := { pages.hub with funcs := [(1, .ofNat 1024 (5 + 8 <<< 16))] } }
    nextCmd (getCore s 0) 3 = some m ∧ mayStart s 0 m = true ∧ withinQuota s m.ga.toNat 1 = true
    ∧ mayStart { s with hub := { s.hub with free := [] } } 0 m = false) := by decide +kernel

theorem test_witness_Scrub : pages.mem.wf = true ∧ twf 0 pages.hub.pages = true ∧ (∀ p ∈ pages.hub.resetPages, p.1 ≠ 7)
    ∧ dState (desc pages 7) = 2 ∧ dStamp (desc pages 7) < quiescence pages ∧ quiescence pages ≤ dStamp (desc pages 8)
    ∧ pages.hub.resetPages.find? (fun p => p.1 == 10) = some (10, 1) ∧ dState (desc pages 9) = 3 ∧ 9 ∉ pages.hub.oncePoisoned
    ∧ pages.hub.linked = [] ∧ dState (desc pages 11) = 3 ∧ 11 ∈ pages.hub.oncePoisoned ∧ dState (desc pages 5) ≠ 3 := by decide +kernel

/-- A context that waits for a walk that succeeds, one for a walk that fails, and the same of instruction fetch. -/
theorem test_witness_WalksAndFetches : (let s := { eng with ctx := { eng.ctx with block := some (.xlat 0x10000) } }
       (getCtx s 0 0).block = some (.xlat 0x10000) ∧ tlbFind (getCore s 0) 1 0x10000 = none ∧ walk s 1 0x10000 = .ok ⟨0x60000, 0, 0x60007⟩)
    ∧ walk eng 1 0x20000 = .bad 1 ∧ tlbFind eng.core 1 0x20000 = none
    ∧ (let s := { eng with ctx := { eng.ctx with block := some (.icache 0x2400) } }
       (getCtx s 0 0).block = some (.icache 0x2400) ∧ icSyll (getCore s 0) 1 0x2400 = none ∧ walk s 1 0x2400 = .ok ⟨0x50000, 0, 0x50007⟩
       ∧ (match devIn ⟨1, 0, bits 0x50007 5 4⟩ (0x50000 + 0x2400 / 64 * 64 % pageBytes 0) 64 s with | .ok _ _ => true | _ => false) = true) := by decide +kernel

theorem test_witness_Revocation : usesTag (withCmds [cmd1]) 1 5 = false ∧ usesTag (withCmds [{ cmd1 with h := 0x00500000000500A7 }]) 1 5 = true := by decide +kernel
/-- A state with a saved context. -/
def savedState : State := { State.reset with hub := { State.reset.hub with saved := [{ core := 0, ctxId := 0, ctx := { ctx1 with h := [(0, 0x005000000005008F)] }, faulted := false }] } }
theorem test_witness_Revocation_wf : (∀ c k, twf 0 (getCtx savedState c k).h = true) ∧ (∀ v ∈ savedState.hub.saved, twf 0 v.ctx.h = true) :=
  ⟨fun c k => by unfold getCtx getCore; repeat' split
                 all_goals rfl, by decide +kernel⟩

theorem test_witness_ReserveAndLogs : pte3Addr pages 1 0 = some 0x30000 ∧ devNat pages 0x30000 8 = 0x50007 ∧ dState (desc pages 5) = 1 ∧ dShare (desc pages 5) = 0
    ∧ evictable pages 1 0 = some (0x30000, 0x50007) ∧ evictRange pages = none ∧ evictable pages 1 0x20000 = none
    ∧ (let s := { pages with hub := { pages.hub with staged := [⟨1, 0, [(0, 1)]⟩] } }
       evictRange s = some (1, 0, 1) ∧ evictable s 1 0 = some (0x30000, 0x50007))
    ∧ (∀ i, i < 8 → keepsByte pages (0x30000 + i) = true ∧ keepsByte pages (0x30008 + i) = true) ∧ (∀ p ∈ pages.hub.free, p < 2 ^ 36) ∧ 0x30008 / 65536 ≠ 12 ∧ pages.mem.wf = true ∧ twf 0 pages.hub.pages = true ∧ pages.hub.saved = []
    ∧ eligible pages 1 ≠ [] ∧ pte3Addr pages 1 0x10000 = some 0x30008
    ∧ pages.hub.reserve.find? (fun r => r.1 == 1 && r.2 == 0x10000) = some (1, 0x10000)
    ∧ ((some ⟨4, 2, 0, 0, 0⟩ : Option Cause).any (fun e => e.cls == 4 && (e.code == 2 || e.code == 4))) = true := by decide +kernel

/-- Records on their way: to an enabled queue of function 1, to one of another function, to one that drops its sender's records. -/
def queues : State := { eng with hub := { eng.hub with
  queues := [(0, { conf := 0x03 }), (1, { conf := 0x05 }), (2, { conf := 0x03, dropping := [{ sender := .graph 1, queue := 2, lr := 1 }] })]
  graphs := [{ id := 1, func := 1, queue := 2, task := 1, array := 0x4000, ready := [0, 1, 2, 3, 4, 5] }]
  inbox := [{ sender := .graph 1, queue := 0, lr := 0 }, { sender := .graph 1, queue := 1, lr := 0 }, { sender := .graph 1, queue := 2, lr := 0 }] } }

theorem test_witness_QueueRecords : 8 ≤ queues.hub.bringUp ∧ State.reset.hub.bringUp < 8 ∧ firstTo eng 0 = none
    ∧ (∃ x, firstTo queues 0 = some x ∧ refuses queues x = false ∧ drops queues x = false)
    ∧ (∃ x, firstTo queues 1 = some x ∧ refuses queues x = true)
    ∧ (∃ x, firstTo queues 2 = some x ∧ refuses queues x = false ∧ drops queues x = true)
    ∧ (let s := { queues with hub := { queues.hub with inbox := [{ sender := .host 0, queue := 0, lr := 0x200 }] } }
       ∃ x, firstTo s 0 = some x ∧ refuses s x = false ∧ drops s x = false ∧ x.sender = .host 0)
    ∧ (let s := { queues with tick := 256, ctx := { queues.ctx with replay := [{ queue := 0, lr := 0, cmd := 1, nackAt := 0, refused := 0 }] } }
       (tasksAt s 0 0).find? (mayReplay s 0 0 0) = some 1) :=
  ⟨by decide +kernel, by decide +kernel, by decide +kernel, ⟨_, rfl, by decide +kernel⟩, ⟨_, rfl, by decide +kernel⟩, ⟨_, rfl, by decide +kernel⟩,
    ⟨_, rfl, by decide +kernel⟩, by decide +kernel⟩

/-- A replay window of a host queue window that is empty, one that is full, and one whose record has been refused for now. -/
theorem test_witness_QueueRecords_host : (let again (l : List HostRec) := l.any fun x => x.queue == 0 && x.lr == 7 && x.nacked
    let here (l : List HostRec) := l.countP fun x => x.queue == 0
    again [] = false ∧ here [] < 8 ∧ again (List.replicate 8 ⟨0, 5, false⟩) = false ∧ 8 ≤ here (List.replicate 8 ⟨0, 5, false⟩)
    ∧ again [⟨0, 7, true⟩] = true) := by decide +kernel

/-- A program of function 1 at entry 0 of its table, so that a record of one core is runnable. -/
theorem test_witness_QueueRecords_runnable : (let s := { eng with hub := { eng.hub with funcs := [(1, .ofNat 1024 (5 + 0x10000 <<< 64 + 0x5000 <<< 128 + 1 <<< 192))] }
                                                                  mem := mem1 ++ [(0x55001, 1)] }
    ∃ r : BitVec 512, lrVf r = 1 ∧ lrShape r = 0 ∧ lrNcore r = 1 ∧ progEntry s 1 (lrProg r) ≠ 0 ∧ runnable s r = true) :=
  ⟨.ofNat 512 (1 <<< 12 + 1 <<< 24), by decide +kernel⟩

/-- A graph of function 1 at virtual address 0x4000: a launch, an if, a while, a switch, a join and a reserved node, whose condition word stands at 0x4800. -/
def graph1 : State := { queues with mem := eng.mem ++ [(0x54080, 9), (0x54089, 0x48), (0x54100, 10), (0x54109, 0x48), (0x54180, 11), (0x54189, 0x48),
  (0x54200, 12), (0x54201, 1), (0x54280, 5)] }

/-- Tasks done, running and finished, a call that can be answered, and nodes of every kind. -/
theorem test_witness_TasksGraphsAndCalls : readyHeads eng = [] ∧ placement eng (.ofNat 512 (1 <<< 12 + 1 <<< 24)) 0 0 = some [(0, 1)]
    ∧ (let t : TaskSt := { id := 2, func := 1, queue := 0, seq := 1, lr := 0, prio := 0, places := [] }
       let s := { eng with hub := { eng.hub with tasks := [t] } }
       taskOf s 2 = some t ∧ t.finished = false ∧ taskDone s t = true ∧ t.ended = none)
    ∧ (let t : TaskSt := { id := 1, func := 1, queue := 0, seq := 1, lr := 0, prio := 0, places := [(0, 0)] }
       let s := { eng with hub := { eng.hub with tasks := [t] } }
       taskOf s 1 = some t ∧ taskDone s t = false)
    ∧ (let x : Call := ⟨0, 0, 0, 1, 1, [], true⟩
       nextCall { eng with hub := { eng.hub with calls := [x] } } 0 [] [x] = some x)
    ∧ (∃ x, graphOf graph1 1 = some x ∧ x.ready = [0, 1, 2, 3, 4, 5]
      ∧ (nodeHeader graph1 x 0).map ndKind = some 0 ∧ (nodeHeader graph1 x 1).map ndKind = some 1 ∧ (nodeHeader graph1 x 2).map ndKind = some 2
      ∧ (nodeHeader graph1 x 3).map ndKind = some 3 ∧ (nodeHeader graph1 x 4).map ndKind = some 4 ∧ (nodeHeader graph1 x 5).map ndKind = some 5
      ∧ (vread graph1 1 (x.array.toNat + 64) 64).isSome = true ∧ ((nodeHeader graph1 x 1).bind (ndCond graph1 x)).isSome = true
      ∧ (vphys graph1 1 (x.array.toNat + 128 * 4 + 48)).isSome = true ∧ (nodeHeader graph1 x 4).map (fun h => bits h 23 8) = some 1) := by
  refine ⟨by decide +kernel, by decide +kernel, by decide +kernel, by decide +kernel, by decide +kernel, _, rfl, ?_⟩
  decide +kernel

/-- A remote ring of function 1 whose ends, links 0 and 1, are both bound to context 0, with a send, an accept and a slot return on their way. -/
def rings : State :=
  let s := withCmds [{ cmd1 with op := .cpyw, ring := some 2, phase := .sent }, { cmd1 with id := 7, op := .slotReturn, sub := 3, ring := none, phase := .sent }]
  { s with ctx := { s.ctx with q := [(1, 0x0000000000000001_8000000000C00200), (2, 0x0000000000000001_80000000C0C00200), (3, 0x0000000000000001_8000000140C00200)] }
           hub := { s.hub with ringMsgs := [.data 1 1 [7] 0 0 1, .accept 1 0, .ret 1 0 0 0 3 0 7], bound := [⟨65537, 0, 0, 1, 3⟩, ⟨65536, 0, 0, 1, 2⟩] } }

/-- The same with nothing on its way, and as seen from package 1, whose entries then name package 0. -/
def idleRings : State := { rings with hub := { rings.hub with ringMsgs := [] } }
def farRings : State := { idleRings with hub := { idleRings.hub with package := 1 } }

theorem test_witness_RemoteRings : firstData rings 1 1 = some (0, 1, [7])
    ∧ (∃ m, findCmd rings 0 1 = some m ∧ sendBehind rings 0 m = false
      ∧ sendBehind (withCmds [{ m with id := 0, phase := .started }, m]) 0 m = true)
    ∧ boundEnd rings 1 1 false = some ⟨65537, 0, 0, 1, 3⟩ ∧ boundEnd { rings with hub := { rings.hub with bound := [] } } 1 1 false = none
    ∧ (takeAccept 1 0 rings.hub.ringMsgs).isSome = true ∧ boundEnd rings 1 0 true = some ⟨65536, 0, 0, 1, 2⟩
    ∧ (firstSent rings ⟨65536, 0, 0, 1, 2⟩).isSome = true ∧ firstSent (withCmds []) ⟨65536, 0, 0, 1, 2⟩ = none
    ∧ takeAccept 1 0 idleRings.hub.ringMsgs = none ∧ rrHere idleRings (rrEntry idleRings 1 0) = true
    ∧ (∃ l, takeReturn 1 0 rings.hub.ringMsgs = some ((0, 7), l)) ∧ mayLeave rings 0 7 = true
    ∧ mayLeave { rings with ctx := { rings.ctx with held := [⟨3, 0, [5]⟩] }
                            core := { rings.core with window := [{ id := 5, ctx := 0, cycle := 9, read := [0], ring := some (3, 0) }] } } 0 7 = false
    ∧ isSaved rings 0 0 1 = false ∧ (getCtx rings 0 0).task = 1
    ∧ (let s := { farRings with hub := { farRings.hub with bound := [] } }
       firstData s 1 1 = none ∧ takeAccept 1 0 s.hub.ringMsgs = none ∧ takeReturn 1 0 s.hub.ringMsgs = none ∧ rrHere s (rrEntry s 1 0) = false
       ∧ boundEnd s 1 0 true = none ∧ portsUp s ≠ [] ∧ portsUp { s with hub := { s.hub with portsDown := List.range 16 } } = [])
    ∧ (takeReturn 1 0 idleRings.hub.ringMsgs = none ∧ bits (rrEntry idleRings 1 0) 0 0 = 1 ∧ bits (rrEntry base 1 0) 0 0 = 0
       ∧ rings.hub.clusterSaves = [] ∧ (getCore rings 0).scratch.wf = true ∧ qWin ((getCtx rings 0 0).Q 3) = false
       ∧ behindLost rings 0 { cmd1 with ring := some 2 } = false
       ∧ behindLost { rings with ctx := { rings.ctx with dropped := [⟨2, 0, 0, 0, 0⟩] } } 0 { cmd1 with ring := some 2 } = true) := by
  refine ⟨by decide +kernel, ⟨_, rfl, by decide +kernel⟩, by decide +kernel, by decide +kernel, by decide +kernel, by decide +kernel, by decide +kernel,
    by decide +kernel, by decide +kernel, by decide +kernel, ⟨_, rfl⟩, by decide +kernel, by decide +kernel, by decide +kernel, by decide +kernel, by decide +kernel, by decide +kernel⟩

/-- Where the far entry pairs with it (a free value, log entry 35), a bound end whose peer lies on another package takes data while it has room. -/
theorem test_witness_RemoteRings_far (h : Config.farPaired 65537 (rrEntry farRings 1 1) = true) :
    boundEnd farRings 1 1 false = some ⟨65537, 0, 0, 1, 3⟩ ∧ firstData farRings 1 1 = none ∧ rrHere farRings (rrEntry farRings 1 1) = false
    ∧ qAvail ((taskCtx farRings 0 0 1).Q 3) < qN ((taskCtx farRings 0 0 1).Q 3) := by
  have e : rrHere farRings (rrEntry farRings 1 1) = false := by decide +kernel
  have v : (bits (rrEntry farRings 1 1) 0 0 == 1) = true := by decide +kernel
  have p : paired farRings 1 1 = true := by
    simp only [paired, e, v, Bool.not_false, if_true, Bool.true_and]
    exact h
  refine ⟨?_, by decide +kernel, e, by decide +kernel⟩
  have f : farRings.hub.bound.find? (fun b => b.key == 1 * 65536 + 1) = some ⟨65537, 0, 0, 1, 3⟩ := by decide +kernel
  simp only [boundEnd, f, p, Bool.true_and]
  rw [if_pos (by decide +kernel)]

/-- Context 0 waits and context 1 is ready; context 1 has aged; a team whose stop has cleared. -/
def two : State := { eng with
  cycle := 5000
  ctx := { eng.ctx with block := some (.event 0 1) }
  core := { eng.core with parked := [(1, { ctx1 with readySince := 1 })] } }

def team1 : TaskSt := { id := 1, func := 1, queue := 0, seq := 1, lr := 0, prio := 0, places := [(0, 0)], team := true }

/-- The order behind a block: no one waits, the first in line, the lowest of one cycle, an age of one cycle less than the limit and at it. -/
theorem test_witness_Switching_order : two.ctxId < 4
    ∧ (∀ j ∈ [1, 2, 3], ready eng 0 j = false)
    ∧ (let s := { two with core := { two.core with blockAt := 0, parked := [(1, { ctx1 with readySince := 1 }), (3, { ctx1 with readySince := 2 })] } }
       ready s 0 1 = true ∧ ready s 0 3 = true ∧ (getCtx s 0 1).readySince = 1 ∧ (getCtx s 0 3).readySince = 2 ∧ nextReady s = some 1)
    ∧ (let s := { two with ctx := { two.ctx with block := none }
                           core := { two.core with blockAt := 0, parked := [(1, { ctx1 with readySince := 1 }), (3, { ctx1 with readySince := 1 })] } }
       ready s 0 1 = true ∧ ready s 0 3 = true ∧ s.core.blockAt < (getCtx s 0 1).readySince ∧ nextReady s = some 1)
    ∧ oldestAged two = some 1 ∧ oldestAged { two with cycle := 4095 } = none ∧ oldestAged { two with cycle := 4096 } = some 1 := by decide +kernel

theorem test_witness_Switching : nextReady (focusCore 0 two) = some 1 ∧ maySwitch (focusCore 0 two) = true ∧ nextReady two = some 1 ∧ maySwitch two = true
    ∧ (let s := { two with ctx := { two.ctx with block := none } }
       nextReady (focusCore 0 s) = some 1 ∧ maySwitch (focusCore 0 s) = false ∧ oldestAged (focusCore 0 s) = some 1 ∧ (focusCore 0 s).core.agedIn = false
         ∧ (focusCore 0 { s with core := { s.core with agedIn := true } }).core.agedIn = true ∧ s.ctx.life = .running ∧ s.ctx.frozen = none
         ∧ s.ctx.delay = 0 ∧ inTeam (focusCore 0 s) = false)
    ∧ (let s := { two with ctx := { two.ctx with block := some .team }, hub := { two.hub with tasks := [team1] } }
       taskOf s 1 = some team1 ∧ team1.team = true ∧ teamPlaced s team1 = true ∧ team1.places.any (fun p => frozenWithTeam (memberCtx s team1 p)) = true
       ∧ (∀ p ∈ team1.places, (memberCtx s team1 p).frozen = none ∧ halts s p.1 p.2 = false)) := by decide +kernel

/-- One member at a barrier, and one of two members; a release decided; SYNC on a die where all have arrived, and where not all have. -/
def solo : TaskSt := { team1 with team := false }
def pair : TaskSt := { solo with places := [(0, 0), (0, 1)] }
def atBlock (b : Block) (t : TaskSt) (r : Release := .no) : State := { two with
  ctx := { two.ctx with block := some b, domain := 1, release := r }
  core := { two.core with parked := [(1, { ctx1 with domain := 1 })] }
  hub := { two.hub with tasks := [t] } }

theorem test_witness_BarrierReleases :
    (let s := atBlock (.bar 0) solo
     taskOf s 1 = some solo ∧ isSaved s 0 0 1 = false ∧ (getCtx s 0 0).block = some (.bar 0) ∧ (getCtx s 0 0).release = .no ∧ allArrived s solo (0, 0) 0 (.bar 0) = true)
    ∧ allArrived (atBlock (.bar 0) pair) pair (0, 0) 0 (.bar 0) = false ∧ allArrived (atBlock (.step 0) solo) solo (0, 0) 0 (.step 0) = true
    ∧ (getCtx (atBlock (.bar 0) solo (.decided [])) 0 0).release = .decided [] ∧ (getCtx (atBlock (.step 0) solo (.decided [2])) 0 0).release = .decided [2]
    ∧ takesPartAt (getCtx (atBlock (.step 0) solo) 0 0) 0 0 = true ∧ takesPartAt (getCtx (atBlock (.step 5) solo) 0 0) 0 5 = false
    ∧ (participants (atBlock (.step 0) solo) solo (0, 0) 0).all (fun u => resolveCause (seatOf u.1 u.2) (atBlock (.step 0) solo) == none) = true
    ∧ (let t := atBlock (.step 0) solo
       let s := { t with ctx := { t.ctx with b := [(1, .ofNat 64 (1 + 2 ^ 48 + 2 ^ 49))] }, hub := { t.hub with badLines := [0x52040 / 64] } }
       ((participants s solo (0, 0) 0).find? fun u => (resolveCause (seatOf u.1 u.2) s).isSome) = some (solo, (0, 0)) ∧ isSaved s 0 0 solo.id = false)
    ∧ (let s := atBlock (.step 0) solo (.reloading [1])
       (getCtx s 0 0).release = .reloading [1] ∧ arrayRead s 0 0 = false ∧ reloadCause ⟨1, 0, 0, 1⟩ [1] s = none
       ∧ arrayRead { s with core := { s.core with mqueue := [{ id := 1, op := .mpart, ctx := 0, pc := 0, cycle := 0 }] } } 0 0 = true
       ∧ (let r := { s with ctx := { s.ctx with b := [(1, .ofNat 64 (1 + svVer (slotWord s 1 1 0) <<< 16 + 2 ^ 48 + 2 ^ 49))] }, mem := Memory.setByte s.mem 0x52042 3 }
          (reloadCause ⟨1, 0, 0, 1⟩ [1] r).isSome = true))
    ∧ allArrived (atBlock (.step 0) pair) pair (0, 0) 0 (.step 0) = false ∧ solo.team = false
    ∧ syncTime (atBlock .sync solo) solo (dieOf 0) = some 0 ∧ syncTime (atBlock .sync pair) pair (dieOf 0) = none := by decide +kernel

/-- A record of 192 cores and priority 3 finds the first cluster taken by a context of another function and priority 0; a faulted context; a saved context whose place is free. -/
def crowded : State := { eng with
  ctx := { ctx1 with func := 2 }
  hub := { eng.hub with
    tasks := [{ solo with func := 2 }]
    queues := [(0, { conf := 0xC3, recs := [⟨.ofNat 512 (192 <<< 12 + 1 <<< 20 + 3 <<< 22 + 1 <<< 24), 1, none, none⟩] })] } }

theorem test_witness_SavingAndRestoring : (needy crowded).any (fun h => nextVictim crowded h 0 0) = true
    ∧ taskOf crowded 1 = some { solo with func := 2 } ∧ maySave crowded 0 0 = true ∧ crowded.ctx.delay = 0 ∧ crowded.ctx.retrying = false
    ∧ needy eng = none
    ∧ (let t := { solo with func := 2, team := true }
       let s := { crowded with hub := { crowded.hub with tasks := [t] } }
       (needy s).any (fun h => decide (t.prio < h.prio) && (ctxIds s).all fun p => !givesWay s h p.1 p.2) = true ∧ taskOf s 1 = some t ∧ s.ctx.life = .running)
    ∧ (let s := { crowded with ctx := { crowded.ctx with frozen := some ⟨1, 1, 0, 0, 0⟩ } }
       (getCtx s 0 0).frozen ≠ none ∧ (getCtx s 0 0).life = .running ∧ maySave s 0 0 = true)
    ∧ (let v : Saved := { core := 0, ctxId := 0, ctx := ctx1, faulted := false }
       let s := { eng with ctx := {}, hub := { eng.hub with saved := [v], tasks := [solo] } }
       s.hub.saved.find? (fun v => v.core == 0 && v.ctxId == 0 && mayRestore s v) = some v ∧ taskOf s v.ctx.task = some solo)
    ∧ (let s := { crowded with ctx := { crowded.ctx with saving := true } }
       maySave s 0 0 = true ∧ mayIssue s = false
       ∧ maySave { s with core := { s.core with mqueue := [{ op := .mzero, ctx := 0, id := 1, pc := 0 }] } } 0 0 = false) := by decide +kernel

/-- What comes back of a save area that can be read and of one that cannot. -/
theorem test_witness_SavingAndRestoring_area :
    (let v : Saved := { core := 0, ctxId := 0, ctx := ctx1, faulted := false }
     vread eng v.ctx.func.toNat (saveBase v.ctx + 0x48) 8 = some 0 ∧ vread eng v.ctx.func.toNat (saveBase v.ctx + 0x20000) 64 = none
     ∧ twf 0 v.ctx.g = true ∧ twf 0 v.ctx.q = true ∧ twf 0 v.ctx.h = true ∧ twf 0 v.ctx.b = true ∧ twf 0 v.ctx.xp = true ∧ twf 0 v.ctx.es = true
     ∧ twf 0 v.ctx.v = true ∧ twf 0 v.ctx.m = true ∧ twf 0 v.ctx.w = true ∧ twf 0 v.tile = true ∧ twf 0 v.acc = true ∧ twf 0 v.stats = true
     ∧ eng.hub.clusterSaves = [] ∧ twf 0 eng.core.tile = true ∧ twf 0 eng.core.acc = true ∧ twf 0 eng.core.stats = true) := by decide +kernel

/-- Function 16 not enabled, function 1 enabled, queue 255, remote-ring entry 1. -/
theorem test_witness_FunctionsAndManagement : fEnabled eng 16 = false ∧ (3 : BitVec 1024).getLsbD 0 = true ∧ bits (3 : BitVec 1024).toNat 2 1 ≠ 3
    ∧ fEnabled eng 1 = true ∧ twf 0 eng.hub.funcs = true ∧ 1 < fblk eng 1 528 512 ∧ vphys eng 1 (fblk eng 1 511 448 + 16 * 1) = some (0x53010, true)
    ∧ eng.mem.wf = true ∧ broughtTo eng 7 = true ∧ broughtTo eng 6 = true ∧ eng.hub.reserve = []
    ∧ (let s := { eng with hub := { eng.hub with bringUp := 6 } }
       broughtTo s 6 = true ∧ broughtTo s 7 = false ∧ broughtTo State.reset 6 = false)
    ∧ eng.hub.bringFail = none
    ∧ (∀ n ∈ [6, 7, 8], let s := { eng with hub := { eng.hub with bringUp := n - 1, bringFail := some (n, 3) } }
       broughtTo s (n - 1) = true ∧ s.hub.bringFail = some (n, 3) ∧ (n = 6 → s.hub.bringUp < 6))
    ∧ broughtTo State.reset 2 = false ∧ broughtTo State.reset 3 = false
    ∧ (let s := { eng with hub := { eng.hub with pages := [(5, 1), (6, 1)], scrubLines := [], poison := [5 * 1024 + 3] } }
       dState (desc s 5) = 1 ∧ dState (desc s 6) = 1 ∧ s.hub.scrubLines = [] ∧ s.mem.wf = true ∧ 5 * 1024 + 3 ∈ s.hub.poison)
    ∧ (∀ i, i < 64 → keepsByte eng (0x5FFC0 + i) = true ∧ lineBad eng (0x5FFC0 + i) = none)
    ∧ (let s := { eng with hub := { eng.hub with ranges := [(0, .ofNat 256 (1 + 0x1000 <<< 80 + 1 <<< 132 + 0xFFFF <<< 192))] } }
       ∀ i, i < 64 → lineTier s (0x5FFC0 + i) = 1) ∧ eng.hub.inbox = [] ∧ eng.hub.saved = [] ∧ isCore 0x107 = true := by decide +kernel

/-- Ticks and packages on both sides of each limit. -/
theorem test_witness_AlignmentRecordsAndLinks :
    (let s := { eng with tick := 65536, hub := { eng.hub with package := 1, aligned := true } }
     s.hub.lastSent.toNat + 1024 ≤ s.tick.toNat ∧ s.hub.package ≠ 0 ∧ eng.hub.package = 0 ∧ s.hub.aligned = true ∧ s.hub.lastFlit.toNat + 65536 ≤ s.tick.toNat
       ∧ maySteer s = true ∧ s.tick < 65537 ∧ (65535 : BitVec 64) < s.tick ∧ maySteer { s with hub := { s.hub with steerAt := 65000 } } = false)
    ∧ (let s := { eng with tick := 1023 }
       s.tick.toNat < s.hub.lastSent.toNat + 1024 ∧ s.hub.package = 0 ∧ s.hub.studBook.buffer.length < 1024 ∧ s.hub.studBook.keyBad = false ∧ s.hub.rows = []
       ∧ twf 0 s.hub.studBook.missed = true)
    ∧ next (runMove .keyWriteFail eng) (fun s => s.hub.studBook.keyBad) = true
    ∧ (let s := { eng with tick := 1024, hub := { eng.hub with inRange := 1 } }
       s.hub.aligned = false ∧ s.hub.inRange ≠ 0 ∧ s.hub.inRange + 1023 ≤ s.tick.toNat)
    ∧ eng.hub.studBook.page.length < 126 ∧ ({ eng.hub.studBook with page := List.replicate 126 0 } : StudBook).page.length = 126
    ∧ 1024 ≤ (List.replicate 1024 (0 : BitVec 256)).length
    ∧ (let s := { eng with hub := { eng.hub with bgSteps := [(3 * 8 + 5, 7)], step5Bad := [4] } }
       (tget 0 s.hub.bgSteps (3 * 8 + 5) ≠ 6 ∧ next (exec (.alignFlitReceive 0 [(3, 6), (4, 0)]) s) (fun t => t.hub.step5Bad.contains 3 && t.hub.step5Bad.contains 4)) = true) := by decide +kernel

/-! ## Worked examples and corners -/

/-- The context after an instruction, every result in flight landed. -/
def after (i : Instr) (s : State) : Context := match exec i s with
  | .next t => t.ctx.flights.foldl Context.land t.ctx
  | _ => {}

/-- Table 10-2: the sum wraps; both high products of minus one with itself. -/
theorem test_add_wraps : (after (.add (sr 1 2 6)) base).G 1 = 6 := by decide +kernel
theorem test_mulh : (after (.mulh (sr 1 6 6)) base).G 1 = 0 ∧ (after (.mulhx (sr 1 6 6)) base).G 1 = 0xFFFFFFFFFFFFFFFE := by decide +kernel

/-- R202: a zero divisor; the remainder has the sign of the dividend. -/
theorem test_div_zero : (after (.div (sr 1 2 9)) base).G 1 = 0xFFFFFFFFFFFFFFFF ∧ (after (.div (sr 1 2 9)) base).status = 0x20 := by decide +kernel
theorem test_rem_sign : (after (.rem (sr 1 6 3)) base).G 1 = 0xFFFFFFFFFFFFFFFF ∧ (after (.remx (sr 1 6 3)) base).G 1 = 1 := by decide +kernel

/-- R203: the two words that load the multiplier of the generator. -/
theorem test_li_lih : (after (.li ⟨on, 20, 0x16D1CE4E5B9⟩) base).G 20 = 0xFFFFFF6D1CE4E5B9
    ∧ (after (.lih ⟨on, 20, 0x5FAC23⟩) { base with ctx := { ctx1 with g := [(20, 0xFFFFFF6D1CE4E5B9)] } }).G 20 = 0xBF58476D1CE4E5B9 := by decide +kernel

/-- R205: cmp.ltx of all ones with 7. -/
theorem test_cmp_ltx : (after (.cmp (sr 0 6 2 4)) base).P 5 = false ∧ (after (.cmp (sr 0 6 2 4)) base).P 6 = true
    ∧ (after (.cmp (sr 0 6 2 2)) base).P 5 = true := by decide +kernel

/-- R173: a write to G0 is discarded. -/
theorem test_g0_discards : (after (.add (sr 0 2 2)) base).G 0 = 0 := by decide +kernel

/-- R207: 1.5 + 2.5; R209: a NaN converts to 0 and sets SATUR. -/
def floats : State := { base with ctx := { ctx1 with g := [(2, 0x3FC00000), (3, 0x40200000), (4, 0x7FC00000)] } }
theorem test_fadd : (after (.fadd (sr 1 2 3)) floats).G 1 = 0x40800000 := by decide +kernel
theorem test_fcvt_nan : (after (.fcvt (sr 1 4 0 4)) floats).G 1 = 0 ∧ (after (.fcvt (sr 1 4 0 4)) floats).status = 1 := by decide +kernel

/-- Operands of the vector examples: element 0 of V4 is 1.25 and of V5 1.0; V6 holds 8.0 and V7 4.0; W1 is 0.75 with lineage 8, W2 0.375 with lineage 1, in section 0; κ is 1.0. -/
def vecs : State := { base with ctx := { ctx1 with
  tmpr := 0x3F800000
  v := [(32, 0x3FA00000), (40, 0x3F800000), (48, 0x41000000), (56, 0x40800000), (64, 0x40A0000040400000_7FC0000040400000), (72, 0x0000000300000002_0000000100000000)]
  w := [(8, .ofNat 264 (0x6000 + 8 <<< 256)), (16, .ofNat 264 (0x3000 + 1 <<< 256))] } }

/-- R229, R230, R231: the examples that the rules give. -/
theorem test_wcmp : ((after (.wcmp (vf 1 4 5 11)) vecs).W 1 0).toNat % 65536 = 0x6000 := by decide +kernel
theorem test_wand : ((after (.wand (vf 3 0 0 12 0xA0000)) vecs).W 3 0).toNat % 65536 = 0x2400 ∧ ((after (.wand (vf 3 0 0 12 0xA0000)) vecs).W 3 0).toNat / 2 ^ 256 = 9 := by
  decide +kernel
theorem test_wand_dependent : ((after (.wand (vf 3 0 0 12 0x90000)) vecs).W 3 0).toNat % 65536 = 0x6000 ∧ (after (.wand (vf 3 0 0 12 0x90000)) vecs).status = 4
    ∧ ((after (.wand (vf 3 0 0 12 0x90800)) vecs).W 3 0).toNat % 65536 = 0x4800 := by decide +kernel
theorem test_wblend : ((after (.wblend (vf 1 6 7 11 0x80000)) vecs).V 1 0).toNat % 2 ^ 32 = 0x40E00000 := by decide +kernel

/-- R226: stage 2 of the bitonic example, keys 3, NaN, 3, 5 with companions 0 to 3. -/
theorem test_vcas : ((after (.vcas (vi 10 8 11 (2 ||| 4 <<< 6) 1)) vecs).V 10 0).toNat % 2 ^ 128 = 0x7FC0000040400000_40A0000040400000
    ∧ ((after (.vcas (vi 10 8 11 (2 ||| 4 <<< 6) 1)) vecs).V 11 0).toNat % 2 ^ 128 = 0x0000000100000002_0000000300000000 := by decide +kernel

/-- R220, R223: vbcast.hi.f32 of 0x3F80; vcvt.e4m3.f32 with part 2 fills bytes 32 to 47. -/
theorem test_vbcast_hi : elt ((after (.vbcastHi (vi 1 0 11 0x3F80 2)) base).V 1 7) 32 15 = 0x3F800000 := by decide +kernel
theorem test_vcvt_part : elt ((after (.vcvt ⟨on, false, 1, 5, 0, 11, 6, false, 0x4000⟩) vecs).V 1 0) 8 32 = 0x38 := by decide +kernel

/-- Table 11-4: 2^1.0, log2(1.0), 1/0, 1/√4.0, tanh(−0). -/
def specials : State := { base with ctx := { ctx1 with v := [(8, 0x40800000_80000000_00000000_3F800000)] } }
theorem test_vexp2 : elt ((after (.vexp2 (vf 2 1 0 11)) specials).V 2 0) 32 0 = 0x40000000 := by decide +kernel
theorem test_vlog2 : elt ((after (.vlog2 (vf 2 1 0 11)) specials).V 2 0) 32 0 = 0 := by decide +kernel
theorem test_vrcp : elt ((after (.vrcp (vf 2 1 0 11)) specials).V 2 0) 32 1 = 0x7F800000 ∧ elt ((after (.vrcp (vf 2 1 0 11)) specials).V 2 0) 32 2 = 0xFF800000 := by decide +kernel
theorem test_vrsq : elt ((after (.vrsq (vf 2 1 0 11)) specials).V 2 0) 32 3 = 0x3F000000 := by decide +kernel
theorem test_vtanh : elt ((after (.vtanh (vf 2 1 0 11)) specials).V 2 0) 32 2 = 0x80000000 := by decide +kernel

/-- R239: xrot.f32 by 1, and the last element comes round. -/
theorem test_xrot : elt ((after (.xrot (xf 2 1 0 11 1)) specials).V 2 0) 32 0 = 0 ∧ elt ((after (.xrot (xf 2 1 0 11 1)) specials).V 2 0) 32 15 = 0x3F800000 := by decide +kernel

/-- R27: a PF16 element above 0x8000 that XREV moves is written as 0x8000 and sets PFRNG. -/
theorem test_xrev_pf16 : (let s := { base with ctx := { ctx1 with v := [(8, 0x9000)] } }
    elt ((after (.xrev (xf 2 1 0 12 0)) s).V 2 0) 16 31 = 0x8000 ∧ (after (.xrev (xf 2 1 0 12 0)) s).status = 8) := by decide +kernel

/-- Byte order of a store and a load at the last word of the private scratchpad (R4, R245), and the fault one byte beyond (R66). -/
theorem test_sts_bytes : next (exec (.sts (ls 2 5 0 2)) { mem2 with ctx := { mem2.ctx with g := [(2, 0x04030201), (5, 0x3FFFFC)] } })
    (fun t => decide (t.core.scratch = [(0x3FFFFC, 1), (0x3FFFFD, 2), (0x3FFFFE, 3), (0x3FFFFF, 4)])) = true := by decide +kernel
theorem test_lds_zero_extends : (after (.lds (ls 1 5 0 1)) { mem2 with core := { mem2.core with scratch := [(0x3FFFF8, 0xFE), (0x3FFFF9, 0xFF)] } }).G 1 = 0xFFFE := by
  decide +kernel
theorem test_sts_outside : next (exec (.sts (ls 2 1 0 2)) { mem2 with ctx := { mem2.ctx with g := [(1, 0x400000)] } })
    (fun t => decide (t.ctx.frozen.isSome = true ∧ t.core.scratch = [])) = true := by decide +kernel

/-- What an attempt to issue comes to: it commits, or faults with a class and code. -/
def outcome (l : List SlotOp) (s : State) : Option (Nat × Nat) := match trySlots l s with
  | .commit _ => some (0, 0)
  | .bad c => some (c.cls, c.code)
  | _ => none

/-- R134, R352: STT stores the tile as its bundle found it beside an LDT of the same tile; with the tile's bit set before the bundle it faults. -/
theorem test_stt_beside_ldt : outcome [⟨5, 0, .ldt (ls 1 7 0 0)⟩, ⟨6, 0, .stt (ls 1 7 0 0)⟩] mem2 = some (0, 0)
    ∧ outcome [⟨6, 0, .stt (ls 1 7 0 0)⟩] { mem2 with ctx := { mem2.ctx with tileUnwaited := 2 } } = some (2, 3) := by decide +kernel

/-- R252: .max keeps the larger signed word and returns the old one. -/
theorem test_atom_max : next (exec (.atom ⟨on, 1, 5, 0, 2, 0, 2, 0, 2, 0, false⟩) { mem2 with
      ctx := { mem2.ctx with g := [(2, 0xFFFFFFFF), (5, 0x3FFFFC)] }, core := { mem2.core with scratch := [(0x3FFFFC, 5)] } })
    (fun t => decide (t.core.scratch = [(0x3FFFFC, 5)] ∧ t.ctx.flights.map (·.val) = [5])) = true := by decide +kernel

/-- R269, R268: PROD counts on, VALID of a handle goes. -/
theorem test_adv_prod : next (exec (.advProd (ef 1 27 0 0 0)) eng) (fun t => decide (qProd (t.ctx.Q 1) = 2 ∧ qCons (t.ctx.Q 1) = 0)) = true := by decide +kernel
theorem test_hrel : hValid ((after (.hrel (ef 0 0 0 0 0)) eng).H 0) = false := by decide +kernel

/-- R361: a page that is not mapped faults with CLASS 4. -/
theorem test_xlat_fault : next (exec (.pageWalkDone 0 0) { eng with ctx := { eng.ctx with block := some (.xlat 0x20000) } })
    (fun t => decide ((getCtx t 0 0).frozen.map (fun e => (e.cls, e.code, e.slots)) = some (4, 1, 128))) = true := by decide +kernel

/-- R316: a record is 64 bytes, its CLASS in bits 95:88 and CODE in bits 111:96 (Table 20-1). -/
theorem test_faultRecord : faultRecord { base with tick := 9 } 3 1 0x2000 { cls := 4, code := 2, slots := 128, addr := 0x77 }
    = 9 + 3 <<< 64 + 1 <<< 80 + 4 <<< 88 + 2 <<< 96 + 0x2000 <<< 128 + 128 <<< 192 + 0x77 <<< 256 := by decide +kernel

/-- R8, R215: a cycle is shorter than a tick, whatever the drift: none passes from the start of a tick, and one from its last part. -/
theorem test_tick : (tickOn State.reset).tick = 0 ∧ (tickOn { State.reset with phase := 18 }).tick = 1 := by
  have h := Nat.mod_lt (Config.tickDrift 0) (y := 3) (by omega)
  constructor
  · rw [tickOn]; exact congrArg State.tick (if_pos (show 0 + 9 + Config.tickDrift 0 % 3 < 19 by omega))
  · rw [tickOn]; exact congrArg State.tick (if_neg (show ¬ 18 + 9 + Config.tickDrift 0 % 3 < 19 by omega))

/-- The first step on a program runs it: the ADD's result is in flight and control is past it. -/
theorem test_step_runs : next (step addState) (fun t => decide (t.ctx.frozen = none ∧ t.ctx.pc = addState.ctx.pc + 8
    ∧ t.ctx.flights.map (fun f => (f.dest, f.val, f.cnt)) = [(.g 4, 0, 0)])) = true := by decide +kernel

end Sys2Proof.Tests
end

/-! ## Exact values as rationals (02_numbers) -/

namespace Sys2Proof.Machine

namespace Val

/-- The rational that a finite value is; 0 for the others. -/
def q : Val → ℚ
  | fin s m e => (if s then -1 else 1) * (m * 2 ^ e)
  | _ => 0

theorem q_fin (s : Bool) (m : Nat) (e : Int) : (fin s m e).q = (if s then -1 else 1) * (m * 2 ^ e) := rfl

/-- A finite value without sign is its magnitude. -/
theorem q_fin_false (m : Nat) (e : Int) : (fin false m e).q = m * 2 ^ e := by simp [q_fin]

/-- A finite value is one of the third kind. -/
theorem isFin_iff {a : Val} : a.isFin = true ↔ ∃ s m e, a = fin s m e := by cases a <;> simp [isFin]

@[simp] theorem isFin_fin (s : Bool) (m : Nat) (e : Int) : (fin s m e).isFin = true := rfl

@[simp] theorem isNaN_fin (s : Bool) (m : Nat) (e : Int) : (fin s m e).isNaN = false := rfl

/-- The shifted integer is the value in units of 2^g. -/
theorem shiftTo_mul_zpow {e g : Int} (s : Bool) (m : Nat) (h : g ≤ e) : (shiftTo s m e g : ℚ) * 2 ^ g = (fin s m e).q := by
  have hp : (2 : ℚ) ^ (e - g).toNat * 2 ^ g = 2 ^ e := by
    rw [← zpow_natCast, Int.toNat_of_nonneg (by omega), ← zpow_add₀ (by norm_num), sub_add_cancel]
  cases s <;> simp [shiftTo, q_fin, Nat.shiftLeft_eq, mul_assoc, hp]

/-- The order of finite values is that of the rationals. -/
theorem lt_iff {a b : Val} (ha : a.isFin = true) (hb : b.isFin = true) : a.lt b = true ↔ a.q < b.q := by
  obtain ⟨s, m, e, rfl⟩ := isFin_iff.1 ha
  obtain ⟨t, n, f, rfl⟩ := isFin_iff.1 hb
  rw [← shiftTo_mul_zpow s m (min_le_left e f), ← shiftTo_mul_zpow t n (min_le_right e f),
    mul_lt_mul_iff_left₀ (by positivity)]
  simp [lt]

/-- As `lt_iff`, where the order does not hold. -/
theorem lt_eq_false_iff {a b : Val} (ha : a.isFin = true) (hb : b.isFin = true) : a.lt b = false ↔ b.q ≤ a.q := by
  rw [← not_lt, ← lt_iff ha hb, Bool.not_eq_true]

/-- Numerical equality of finite values is that of the rationals. -/
theorem eqv_iff {a b : Val} (ha : a.isFin = true) (hb : b.isFin = true) : a.eqv b = true ↔ a.q = b.q := by
  have na : a.isNaN = false := by obtain ⟨s, m, e, rfl⟩ := isFin_iff.1 ha; rfl
  have nb : b.isNaN = false := by obtain ⟨s, m, e, rfl⟩ := isFin_iff.1 hb; rfl
  simp only [eqv, na, nb, Bool.not_false, Bool.true_and, Bool.and_eq_true, Bool.not_eq_true', lt_eq_false_iff ha hb,
    lt_eq_false_iff hb ha]
  exact and_comm.trans le_antisymm_iff.symm

@[simp] theorem isFin_abs (a : Val) : a.abs.isFin = a.isFin := by cases a <;> rfl

@[simp] theorem q_abs (a : Val) : a.abs.q = |a.q| := by
  cases a with
  | fin s m e => cases s <;> simp [abs, q_fin, abs_of_nonneg (show (0 : ℚ) ≤ m * 2 ^ e by positivity)]
  | _ => simp [abs, q]

@[simp] theorem isFin_neg (a : Val) : a.neg.isFin = a.isFin := by cases a <;> rfl

@[simp] theorem q_neg (a : Val) : a.neg.q = -a.q := by
  cases a with
  | fin s m e => cases s <;> simp [neg, q_fin]
  | _ => simp [neg, q]

/-- An integer over its sign and magnitude. -/
theorem q_ofSign (x : Int) (g : Int) : (fin (decide (x < 0)) x.natAbs g).q = x * 2 ^ g := by
  rw [q_fin]
  by_cases h : x < 0
  · simp [h, abs_of_neg (show (x : ℚ) < 0 by exact_mod_cast h)]
  · simp [h, abs_of_nonneg (show (0 : ℚ) ≤ x by exact_mod_cast not_lt.1 h)]

@[simp] theorem isFin_ofInt (x : Int) : (ofInt x).isFin = true := rfl

@[simp] theorem q_ofInt (x : Int) : (ofInt x).q = x := by rw [ofInt, q_ofSign]; simp

theorem isFin_add {a b : Val} (ha : a.isFin = true) (hb : b.isFin = true) : (a.add b).isFin = true := by
  obtain ⟨s, m, e, rfl⟩ := isFin_iff.1 ha
  obtain ⟨t, n, f, rfl⟩ := isFin_iff.1 hb
  simp only [add]
  split <;> rfl

/-- The sum of finite values is exact. -/
theorem q_add {a b : Val} (ha : a.isFin = true) (hb : b.isFin = true) : (a.add b).q = a.q + b.q := by
  obtain ⟨s, m, e, rfl⟩ := isFin_iff.1 ha
  obtain ⟨t, n, f, rfl⟩ := isFin_iff.1 hb
  rw [← shiftTo_mul_zpow s m (min_le_left e f), ← shiftTo_mul_zpow t n (min_le_right e f), ← add_mul, ← Int.cast_add]
  simp only [add]
  split
  · next h => rw [h]; simp [q_fin]
  · exact q_ofSign _ _

theorem isFin_sub {a b : Val} (ha : a.isFin = true) (hb : b.isFin = true) : (a.sub b).isFin = true :=
  isFin_add ha (by rwa [isFin_neg])

theorem q_sub {a b : Val} (ha : a.isFin = true) (hb : b.isFin = true) : (a.sub b).q = a.q - b.q := by
  rw [sub, q_add ha (by rwa [isFin_neg]), q_neg, sub_eq_add_neg]

theorem isFin_mul {a b : Val} (ha : a.isFin = true) (hb : b.isFin = true) : (a.mul b).isFin = true := by
  obtain ⟨s, m, e, rfl⟩ := isFin_iff.1 ha
  obtain ⟨t, n, f, rfl⟩ := isFin_iff.1 hb
  rfl

/-- The product of finite values is exact. -/
theorem q_mul {a b : Val} (ha : a.isFin = true) (hb : b.isFin = true) : (a.mul b).q = a.q * b.q := by
  obtain ⟨s, m, e, rfl⟩ := isFin_iff.1 ha
  obtain ⟨t, n, f, rfl⟩ := isFin_iff.1 hb
  have hp : (2 : ℚ) ^ (e + f) = 2 ^ e * 2 ^ f := zpow_add₀ (by norm_num) e f
  cases s <;> cases t <;> simp [mul, q_fin, hp] <;> ring

@[simp] theorem isFin_scale (k : Int) (a : Val) : (a.scale k).isFin = a.isFin := by cases a <;> rfl

end Val

end Sys2Proof.Machine

/-! ## Cutting a magnitude at a weight (R28 to R30) -/

namespace Sys2Proof.Machine

/-- What a direction makes of the whole part `n` and the fraction `t` of a magnitude in units of the last place. -/
def RMode.chosen : RMode → Nat → ℚ → Nat
  | .rne, n, t => if t < 1 / 2 then n else if 1 / 2 < t then n + 1 else if n % 2 = 0 then n else n + 1
  | .rz, n, _ => n
  | .sr d, n, t => if (d + 1 : ℚ) ≤ 32768 * t then n + 1 else n

/-- A quotient in units of 2^u is that of the two numbers that the cut divides. -/
theorem cut_quotient (num den : Nat) (u : Int) (hd : den ≠ 0) : ∃ a b : Nat, b ≠ 0 ∧ (a : ℚ) / b = (num : ℚ) / den / 2 ^ u
    ∧ cut num den u = { n := a / b, exact := a % b = 0, half := compare (2 * (a % b)) b } := by
  refine ⟨if 0 ≤ u then num else num <<< (-u).toNat, if 0 ≤ u then den <<< u.toNat else den, ?_, ?_, rfl⟩
  · split <;> simp [Nat.shiftLeft_eq, hd]
  · have hd' : (den : ℚ) ≠ 0 := by exact_mod_cast hd
    by_cases h : 0 ≤ u
    · simp only [h, if_true, Nat.shiftLeft_eq, Nat.cast_mul, Nat.cast_pow, Nat.cast_ofNat]
      conv_rhs => rw [← Int.toNat_of_nonneg h, zpow_natCast]
      rw [div_div]
    · simp only [h, if_false, Nat.shiftLeft_eq, Nat.cast_mul, Nat.cast_pow, Nat.cast_ofNat]
      have : (2 : ℚ) ^ u = ((2 : ℚ) ^ (-u).toNat)⁻¹ := by
        rw [← zpow_natCast, Int.toNat_of_nonneg (by omega), zpow_neg, inv_inv]
      rw [this, div_inv_eq_mul]
      ring

/-- The whole part of a quotient lies below it by less than one. -/
theorem nat_div_bounds (a b : Nat) (hb : b ≠ 0) : ((a / b : Nat) : ℚ) ≤ (a : ℚ) / b ∧ (a : ℚ) / b < (a / b : Nat) + 1 := by
  have hb' : (0 : ℚ) < b := by exact_mod_cast Nat.pos_of_ne_zero hb
  refine ⟨Nat.cast_div_le, ?_⟩
  rw [div_lt_iff₀ hb']
  exact_mod_cast (mul_comm b _ ▸ Nat.lt_mul_div_succ a (Nat.pos_of_ne_zero hb) : a < (a / b + 1) * b)

/-- The rest of a division in units of the divisor. -/
theorem nat_mod_eq (a b : Nat) (hb : b ≠ 0) : ((a % b : Nat) : ℚ) = ((a : ℚ) / b - (a / b : Nat)) * b := by
  have hb' : (b : ℚ) ≠ 0 := by exact_mod_cast hb
  have : ((b * (a / b) + a % b : Nat) : ℚ) = a := by rw [Nat.div_add_mod]
  push_cast at this
  rw [sub_mul, div_mul_cancel₀ _ hb', ← this]
  ring

/-- The cut is the whole part of the quotient in units of 2^u. -/
theorem cut_n_bounds (num den : Nat) (u : Int) (hd : den ≠ 0) :
    ((cut num den u).n : ℚ) ≤ (num : ℚ) / den / 2 ^ u ∧ (num : ℚ) / den / 2 ^ u < (cut num den u).n + 1 := by
  obtain ⟨a, b, hb, hq, hc⟩ := cut_quotient num den u hd
  rw [hc, ← hq]
  exact nat_div_bounds a b hb

/-- A natural number is the whole part exactly where it lies below by less than one. -/
theorem eq_of_floor_bounds {m n : Nat} {w : ℚ} (hm : (m : ℚ) ≤ w) (hm' : w < m + 1) (hn : (n : ℚ) ≤ w) (hn' : w < n + 1) : m = n := by
  have h1 : (m : ℚ) < n + 1 := hm.trans_lt hn'
  have h2 : (n : ℚ) < m + 1 := hn.trans_lt hm'
  norm_cast at h1 h2
  omega

/-- The rest compared with half of the divisor is the fraction compared with a half. -/
theorem two_mul_mod_lt_iff (a b : Nat) (hb : b ≠ 0) : (2 * (a % b) < b ↔ (a : ℚ) / b - (a / b : Nat) < 1 / 2)
    ∧ (b < 2 * (a % b) ↔ 1 / 2 < (a : ℚ) / b - (a / b : Nat)) := by
  have hb' : (0 : ℚ) < b := by exact_mod_cast Nat.pos_of_ne_zero hb
  have hr := nat_mod_eq a b hb
  rw [← Nat.cast_lt (α := ℚ), ← Nat.cast_lt (α := ℚ) (m := b), Nat.cast_mul, hr, Nat.cast_ofNat]
  exact ⟨⟨fun h => by nlinarith, fun h => by nlinarith⟩, ⟨fun h => by nlinarith, fun h => by nlinarith⟩⟩

/-- The rest is none exactly where the fraction is. -/
theorem cut_exact (num den : Nat) (u : Int) (hd : den ≠ 0) (h : (cut num den u).exact = true) :
    (num : ℚ) / den / 2 ^ u = (cut num den u).n := by
  obtain ⟨a, b, hb, hq, hc⟩ := cut_quotient num den u hd
  rw [hc] at h ⊢
  have hr := nat_mod_eq a b hb
  rw [of_decide_eq_true h, Nat.cast_zero, eq_comm, mul_eq_zero] at hr
  rcases hr with h | h
  · rw [← hq]; linarith
  · exact absurd h (by exact_mod_cast hb)

/-- The 32,768 parts that the draw is compared with are those of the fraction. -/
theorem draw_lt_iff (num den d : Nat) (u : Int) (hd : den ≠ 0) : d < (cut (32768 * num) den u).n - 32768 * (cut num den u).n
    ↔ (d + 1 : ℚ) ≤ 32768 * ((num : ℚ) / den / 2 ^ u - (cut num den u).n) := by
  have hk := cut_n_bounds (32768 * num) den u hd
  generalize (cut num den u).n = n
  generalize (cut (32768 * num) den u).n = k at hk ⊢
  have hw : ((32768 * num : Nat) : ℚ) / den / 2 ^ u = 32768 * ((num : ℚ) / den / 2 ^ u) := by push_cast; ring
  rw [hw] at hk
  constructor
  · intro h
    have : ((d + 1 + 32768 * n : Nat) : ℚ) ≤ k := by exact_mod_cast (by omega)
    push_cast at this
    linarith [hk.1]
  · intro h
    have : ((d + 1 + 32768 * n : Nat) : ℚ) < k + 1 := by push_cast; linarith [hk.2]
    norm_cast at this
    omega

/-- The direction chooses by the whole part and the fraction alone. -/
theorem choose_cut (m : RMode) (num den : Nat) (u : Int) (hd : den ≠ 0) : m.choose (cut num den u) num den u
    = m.chosen (cut num den u).n ((num : ℚ) / den / 2 ^ u - (cut num den u).n) := by
  cases m with
  | rz => rfl
  | rne =>
    obtain ⟨a, b, hb, hq, hc⟩ := cut_quotient num den u hd
    obtain ⟨hlt, hgt⟩ := two_mul_mod_lt_iff a b hb
    rw [hc, ← hq]
    simp only [RMode.choose, RMode.chosen, ← hlt, ← hgt]
    rcases Nat.lt_trichotomy (2 * (a % b)) b with h | h | h
    · rw [Nat.compare_eq_lt.2 h, if_pos h]
    · rw [Nat.compare_eq_eq.2 h, if_neg h.not_lt, if_neg h.not_gt]
    · rw [Nat.compare_eq_gt.2 h, if_neg h.not_gt, if_pos h]
  | sr d =>
    simp only [RMode.choose, RMode.chosen, ← draw_lt_iff num den d u hd]
    split
    · next h =>
      rw [if_neg]
      rw [draw_lt_iff _ _ _ _ hd, cut_exact num den u hd h, sub_self, mul_zero]
      exact not_le.2 (by positivity)
    · rfl

/-- A choice is the whole part or the next number. -/
theorem RMode.chosen_cases (m : RMode) (n : Nat) (t : ℚ) : m.chosen n t = n ∨ m.chosen n t = n + 1 := by
  cases m with
  | rne => simp only [chosen]; split_ifs <;> simp
  | rz => exact .inl rfl
  | sr d => simp only [chosen]; split_ifs <;> simp

/-- A whole magnitude is not moved. -/
@[simp] theorem RMode.chosen_zero (m : RMode) (n : Nat) : m.chosen n 0 = n := by
  cases m with
  | rne => simp [chosen]
  | rz => rfl
  | sr d => simp [chosen, show ¬ ((d : ℚ) + 1 ≤ 0) by linarith [show (0 : ℚ) ≤ d by positivity]]

/-- RNE is within half of the magnitude; at exactly half it is even. -/
theorem RMode.chosen_rne_bounds (n : Nat) {t : ℚ} :
    (RMode.rne.chosen n t = n ∧ t ≤ 1 / 2 ∧ (t = 1 / 2 → n % 2 = 0))
      ∨ (RMode.rne.chosen n t = n + 1 ∧ 1 / 2 ≤ t ∧ (t = 1 / 2 → (n + 1) % 2 = 0)) := by
  simp only [chosen]
  split
  · next h => exact .inl ⟨rfl, h.le, fun e => absurd e h.ne⟩
  · next h =>
    split
    · next h' => exact .inr ⟨rfl, h'.le, fun e => absurd e h'.ne'⟩
    · next h' =>
      split
      · next hn => exact .inl ⟨rfl, not_lt.1 h', fun _ => hn⟩
      · next hn => exact .inr ⟨rfl, not_lt.1 h, fun _ => by omega⟩

end Sys2Proof.Machine

/-! ## Codes of the floating formats (R19, R22, Table 2-1) -/

namespace Sys2Proof.Machine

namespace FFmt

/-- The largest finite value of a format is `maxN` units of the last place 2^`maxU`. -/
def maxN : FFmt → Nat
  | f32 => 2 ^ 24 - 1 | f16 => 2 ^ 11 - 1 | bf16 => 2 ^ 8 - 1 | e4m3 => 14 | e5m2 => 7

/-- The weight of the last place of the largest finite value. -/
def maxU : FFmt → Int
  | f32 => 104 | f16 => 5 | bf16 => 120 | e4m3 => 5 | e5m2 => 13

theorem value_maxCode (f : FFmt) : f.value f.maxCode = .fin false f.maxN f.maxU := by cases f <;> decide

/-- The largest finite value. -/
def maxQ (f : FFmt) : ℚ := f.maxN * 2 ^ f.maxU

theorem maxN_bounds (f : FFmt) : 2 ^ f.mb ≤ f.maxN ∧ f.maxN + 1 ≤ 2 ^ (f.mb + 1) := by cases f <;> decide

theorem minExp_le_maxU (f : FFmt) : f.minExp ≤ f.maxU := by cases f <;> decide

/-- A sign, an exponent field and a fraction in their places: what the value of a code reads. -/
theorem code_fields (f : FFmt) (neg : Bool) {E fr : Nat} (hE : E < 2 ^ f.eb) (hfr : fr < 2 ^ f.mb) :
    (f.signBit neg + (E * 2 ^ f.mb + fr)).testBit (f.eb + f.mb) = neg ∧ (f.signBit neg + (E * 2 ^ f.mb + fr)) >>> f.mb % 2 ^ f.eb = E
      ∧ (f.signBit neg + (E * 2 ^ f.mb + fr)) % 2 ^ f.mb = fr := by
  rw [Nat.testBit_eq_decide_div_mod_eq, Nat.shiftRight_eq_div_pow]
  cases f <;> cases neg <;> simp only [signBit, eb, mb] at * <;> norm_num at * <;> omega

/-- The value of a code by its fields. -/
theorem value_fields (f : FFmt) (neg : Bool) {E fr : Nat} (hE : E < 2 ^ f.eb) (hfr : fr < 2 ^ f.mb) :
    f.value (f.signBit neg + (E * 2 ^ f.mb + fr)) = if f = e4m3 ∧ E = 15 ∧ fr = 7 then .nan
      else if f.hasInf ∧ E = 2 ^ f.eb - 1 then (if fr = 0 then .inf neg else .nan)
      else if E = 0 then .fin neg fr f.minExp
      else .fin neg (2 ^ f.mb + fr) ((E : Int) - f.bias - f.mb) := by
  obtain ⟨h1, h2, h3⟩ := code_fields f neg hE hfr
  simp only [value, h1, h2, h3]

/-- Units within the range of a format: those of the last place that a code can have. -/
def Within (f : FFmt) (j : Nat) (t : Int) : Prop := f.minExp ≤ t ∧ j < 2 ^ (f.mb + 1) ∧ (t < f.maxU ∨ t = f.maxU ∧ j ≤ f.maxN)

/-- A finite code is units within the range. -/
theorem value_within {f : FFmt} {c : Nat} (h : (f.value c).isFin = true) :
    ∃ j t, f.value c = .fin (c.testBit (f.eb + f.mb)) j t ∧ f.Within j t := by
  have hfr : c % 2 ^ f.mb < 2 ^ f.mb := Nat.mod_lt _ (by positivity)
  have hE : c >>> f.mb % 2 ^ f.eb < 2 ^ f.eb := Nat.mod_lt _ (by positivity)
  simp only [value] at h ⊢
  generalize c % 2 ^ f.mb = fr at *
  generalize c >>> f.mb % 2 ^ f.eb = E at *
  split_ifs at h ⊢ with h1 h2 h3 h4
  · simp [Val.isFin] at h
  · simp [Val.isFin] at h
  · simp [Val.isFin] at h
  · refine ⟨_, _, rfl, le_refl _, by rw [pow_succ]; omega, ?_⟩
    cases f <;> simp [minExp, maxU, bias, mb]
  · refine ⟨_, _, rfl, ?_⟩
    cases f <;> simp_all [Within, minExp, maxU, maxN, bias, mb, eb, hasInf] <;> omega

/-- Units within the range do not lie above the largest finite value. -/
theorem within_le_maxQ {f : FFmt} {j : Nat} {t : Int} (h : f.Within j t) : (j : ℚ) * 2 ^ t ≤ f.maxQ := by
  obtain ⟨-, hj, ht | ⟨rfl, hn⟩⟩ := h
  · have hN := (maxN_bounds f).1
    calc (j : ℚ) * 2 ^ t ≤ 2 ^ (f.mb + 1) * 2 ^ t := by gcongr; exact_mod_cast hj.le
      _ = 2 ^ f.mb * 2 ^ (t + 1) := by rw [pow_succ, zpow_add₀ (by norm_num)]; ring
      _ ≤ f.maxN * 2 ^ f.maxU := by
        gcongr
        · exact_mod_cast hN
        · norm_num
        · omega
  · exact mul_le_mul_of_nonneg_right (by exact_mod_cast hn) (by positivity)

/-- Normal units that do not lie above the largest finite value are within the range. -/
theorem within_of_le {f : FFmt} {n : Nat} {u : Int} (hu : f.minExp ≤ u) (hn : n < 2 ^ (f.mb + 1)) (hm : u = f.minExp ∨ 2 ^ f.mb ≤ n)
    (h : (n : ℚ) * 2 ^ u ≤ f.maxQ) : f.Within n u := by
  refine ⟨hu, hn, ?_⟩
  rcases lt_trichotomy u f.maxU with h' | h' | h'
  · exact .inl h'
  · subst h'
    exact .inr ⟨rfl, by exact_mod_cast le_of_mul_le_mul_right h (by positivity)⟩
  · have hn := hm.resolve_left (by have := minExp_le_maxU f; omega)
    exfalso
    have : f.maxQ < n * 2 ^ u := calc
      f.maxQ < 2 ^ (f.mb + 1) * 2 ^ f.maxU := mul_lt_mul_of_pos_right (by exact_mod_cast (maxN_bounds f).2) (by positivity)
      _ = 2 ^ f.mb * 2 ^ (f.maxU + 1) := by rw [pow_succ, zpow_add₀ (by norm_num)]; ring
      _ ≤ n * 2 ^ u := by
        gcongr
        · exact_mod_cast hn
        · norm_num
        · omega
    linarith

/-- The code of normal units within the range: it has their value, and its last bit is that of their number. -/
theorem value_packMag {f : FFmt} {n : Nat} {u : Int} (hw : f.Within n u) (hm : u = f.minExp ∨ 2 ^ f.mb ≤ n) (neg : Bool) :
    f.value (f.signBit neg + packMag f n u) = .fin neg n u ∧ packMag f n u < 2 ^ (f.eb + f.mb) ∧ packMag f n u % 2 = n % 2 := by
  obtain ⟨hu, hn, hb⟩ := hw
  have hp2 : n ≠ 2 ^ (f.mb + 1) := hn.ne
  by_cases h : n < 2 ^ f.mb
  · have hu' : u = f.minExp := hm.resolve_right (by omega)
    have hp : packMag f n u = 0 * 2 ^ f.mb + n := by simp [packMag, h]
    rw [hp]
    refine ⟨?_, ?_, by simp⟩
    · rw [value_fields f neg (by positivity) h]
      cases f <;> simp [hu', eb]
    · rw [zero_mul, zero_add]
      exact h.trans_le (Nat.pow_le_pow_right (by norm_num) (by omega))
  · have hE : 0 < u + f.mb + f.bias := by simp only [minExp] at hu; omega
    have hp : packMag f n u = (u + f.mb + f.bias).toNat * 2 ^ f.mb + (n - 2 ^ f.mb) := by
      simp [packMag, h, hp2, Nat.shiftLeft_eq]
    rw [hp]
    obtain ⟨E, hE'⟩ : ∃ E : Nat, u + f.mb + f.bias = E := ⟨(u + f.mb + f.bias).toNat, by omega⟩
    rw [hE', Int.toNat_natCast]
    have hEb : E < 2 ^ f.eb := by
      cases f <;> simp [maxU, maxN, mb, bias, eb] at * <;> omega
    have hfr : n - 2 ^ f.mb < 2 ^ f.mb := by rw [pow_succ] at hn; omega
    refine ⟨?_, ?_, ?_⟩
    · rw [value_fields f neg hEb hfr]
      have h1 : ¬ (f = e4m3 ∧ E = 15 ∧ n - 2 ^ f.mb = 7) := by
        rintro ⟨rfl, hE, hf⟩
        simp [maxU, maxN, mb, bias] at *
        omega
      have h2 : ¬ (f.hasInf = true ∧ E = 2 ^ f.eb - 1) := by
        cases f <;> simp [maxU, maxN, mb, bias, eb, hasInf] at * <;> omega
      rw [if_neg h1, if_neg h2, if_neg (by omega)]
      congr 1 <;> omega
    · rw [pow_add]
      calc E * 2 ^ f.mb + (n - 2 ^ f.mb) < E * 2 ^ f.mb + 2 ^ f.mb := by omega
        _ = (E + 1) * 2 ^ f.mb := by ring
        _ ≤ _ := Nat.mul_le_mul_right _ hEb
    · cases f <;> simp [mb] at * <;> omega

/-- The code of a number of units that fills the next power of two is that of half as many at twice the weight. -/
theorem packMag_carry (f : FFmt) (u : Int) : packMag f (2 ^ (f.mb + 1)) u = packMag f (2 ^ f.mb) (u + 1) := by
  have h : ¬ 2 ^ (f.mb + 1) < 2 ^ f.mb := by rw [pow_succ]; omega
  have h' : ¬ 2 ^ f.mb = 2 ^ (f.mb + 1) := by rw [pow_succ]; have := Nat.pow_pos (n := f.mb) (a := 2) (by norm_num); omega
  simp only [packMag, h, h', if_false, if_true, lt_irrefl]
  rw [show 2 ^ (f.mb + 1) / 2 = 2 ^ f.mb by rw [pow_succ]; simp]

end FFmt

end Sys2Proof.Machine

/-! ## The cell of a magnitude in the grid of a format (R28, R30) -/

namespace Sys2Proof.Machine

/-- The magnitude `v` lies from `n` units of the last place 2^u up to the next, in the grid of `f` without an upper end. -/
structure Cell (f : FFmt) (v : ℚ) (n : Nat) (u : Int) : Prop where
  weight : f.minExp ≤ u
  fits : n < 2 ^ (f.mb + 1)
  normal : u = f.minExp ∨ 2 ^ f.mb ≤ n
  lower : (n : ℚ) * 2 ^ u ≤ v
  upper : v < (n + 1) * 2 ^ u

/-- The quotient is not below the power of two at the floor of its logarithm. -/
theorem floorLog2_le (num den : Nat) (hn : num ≠ 0) (hd : den ≠ 0) : (2 : ℚ) ^ floorLog2 num den ≤ (num : ℚ) / den := by
  have hd' : (0 : ℚ) < den := by exact_mod_cast Nat.pos_of_ne_zero hd
  rw [le_div_iff₀ hd']
  have h1 : (2 : ℚ) ^ (Nat.log2 num : Int) ≤ num := by exact_mod_cast Nat.log2_self_le hn
  have h2 : (den : ℚ) < 2 ^ ((Nat.log2 den : Int) + 1) := by exact_mod_cast Nat.lt_log2_self (n := den)
  have low : (2 : ℚ) ^ ((Nat.log2 num : Int) - Nat.log2 den - 1) * den ≤ num := by
    calc (2 : ℚ) ^ ((Nat.log2 num : Int) - Nat.log2 den - 1) * den
        ≤ 2 ^ ((Nat.log2 num : Int) - Nat.log2 den - 1) * 2 ^ ((Nat.log2 den : Int) + 1) := by gcongr
      _ = 2 ^ (Nat.log2 num : Int) := by rw [← zpow_add₀ (by norm_num)]; congr 1; ring
      _ ≤ num := h1
  unfold floorLog2
  extract_lets l ok
  split
  · next h =>
    by_cases hl : 0 ≤ l
    · have h' : den * 2 ^ l.toNat ≤ num := by simpa [ok, hl, Nat.shiftLeft_eq] using h
      rw [← Int.toNat_of_nonneg hl, zpow_natCast, mul_comm]
      exact_mod_cast h'
    · have h' : den ≤ num * 2 ^ (-l).toNat := by simpa [ok, hl, Nat.shiftLeft_eq] using h
      have e : (2 : ℚ) ^ l = ((2 : ℚ) ^ (-l).toNat)⁻¹ := by
        rw [← zpow_natCast, Int.toNat_of_nonneg (by omega), zpow_neg, inv_inv]
      rw [e, inv_mul_le_iff₀ (by positivity), mul_comm]
      exact_mod_cast h'
  · exact low

/-- The cut of a positive magnitude at the weight of its last place is its cell. -/
theorem cell_cut (f : FFmt) (num den : Nat) (hn : num ≠ 0) (hd : den ≠ 0) :
    Cell f ((num : ℚ) / den) (cut num den (ulpOf f num den)).n (ulpOf f num den) := by
  have hb := cut_n_bounds num den (ulpOf f num den) hd
  have hp : (0 : ℚ) < 2 ^ ulpOf f num den := by positivity
  refine ⟨le_max_right _ _, ?_, ?_, ?_, ?_⟩
  · refine cut_n_lt _ _ _ _ hd ((lt_floorLog2 num den hd).trans_le (zpow_le_zpow_right₀ (by norm_num) ?_))
    have := le_max_left (floorLog2 num den - f.mb) f.minExp
    simp only [ulpOf]; omega
  · by_cases h : floorLog2 num den - f.mb ≤ f.minExp
    · exact .inl (max_eq_right h)
    · right
      have hu : ulpOf f num den = floorLog2 num den - f.mb := max_eq_left (le_of_lt (not_le.1 h))
      have h2 : (2 : ℚ) ^ f.mb ≤ (num : ℚ) / den / 2 ^ ulpOf f num den := by
        rw [le_div_iff₀ hp, ← zpow_natCast, ← zpow_add₀ (by norm_num), hu, add_sub_cancel]
        exact floorLog2_le num den hn hd
      have := h2.trans_lt hb.2
      exact_mod_cast Nat.lt_succ_iff.1 (by exact_mod_cast this)
  · exact (le_div_iff₀ hp).1 hb.1
  · exact (div_lt_iff₀ hp).1 hb.2

/-- The cell of zero. -/
theorem cell_zero (f : FFmt) : Cell f 0 0 f.minExp :=
  ⟨le_refl _, by positivity, .inl rfl, by simp, by rw [Nat.cast_zero, zero_add, one_mul]; positivity⟩

/-- What rounding gives where the chosen magnitude lies beyond the largest finite value (R28). -/
def RMode.overflow (m : RMode) (f : FFmt) (neg : Bool) : Rounded :=
  match m, f with
  | .rne, .f32 | .rne, .f16 | .rne, .bf16 => ⟨f.signBit neg + f.infCode, false⟩
  | .rz, .f32 | .rz, .f16 | .rz, .bf16 => ⟨f.signBit neg + f.maxCode, false⟩
  | _, _ => ⟨f.signBit neg + f.maxCode, true⟩

/-- What rounding makes of `k` units of 2^u. -/
def RMode.settle (m : RMode) (f : FFmt) (neg : Bool) (k : Nat) (u : Int) : Rounded :=
  if beyond f k u then m.overflow f neg else ⟨f.signBit neg + packMag f k u, false⟩

/-- Units lie beyond the largest finite value exactly where they are more. -/
theorem beyond_iff {f : FFmt} {k : Nat} {u : Int} : beyond f k u = true ↔ f.maxQ < k * 2 ^ u := by
  have h : beyond f k u = (Val.fin false f.maxN f.maxU).lt (.fin false k u) := by simp only [beyond, f.value_maxCode]
  rw [h, Val.lt_iff rfl rfl, Val.q_fin_false, Val.q_fin_false]
  rfl

/-- Rounding a positive magnitude chooses in its cell. -/
theorem roundMag_eq (f : FFmt) (m : RMode) (neg : Bool) (num den : Nat) (hd : den ≠ 0) :
    let u := ulpOf f num den
    let n := (cut num den u).n
    roundMag f m neg num den = m.settle f neg (m.chosen n ((num : ℚ) / den / 2 ^ u - n)) u := by
  simp only [roundMag, RMode.settle, choose_cut m num den _ hd]
  split
  · cases m <;> cases f <;> rfl
  · rfl

/-- Units of a whole weight as the quotient that the model rounds. -/
theorem units_eq_shl {k : Nat} {e : Int} (h : 0 ≤ e) : (k : ℚ) * 2 ^ e = ((k <<< e.toNat : Nat) : ℚ) / (1 : Nat) := by
  rw [Nat.shiftLeft_eq]
  conv_lhs => rw [← Int.toNat_of_nonneg h, zpow_natCast]
  push_cast
  ring

/-- Units of a fractional weight as the quotient that the model rounds. -/
theorem units_eq_div {k : Nat} {e : Int} (h : ¬ 0 ≤ e) : (k : ℚ) * (2 : ℚ) ^ e = (k : ℚ) / ((1 <<< (-e).toNat : Nat) : ℚ) := by
  rw [Nat.shiftLeft_eq]
  push_cast
  rw [one_mul, ← zpow_natCast, Int.toNat_of_nonneg (by omega), zpow_neg, div_inv_eq_mul]

/-- Rounding a finite value chooses in the cell of its magnitude, which no direction depends on. -/
theorem round_fin (f : FFmt) (neg : Bool) (k : Nat) (e : Int) : ∃ n u, Cell f (k * 2 ^ e) n u
    ∧ ∀ m, round f m (.fin neg k e) = m.settle f neg (m.chosen n (k * 2 ^ e / 2 ^ u - n)) u := by
  cases k with
  | zero =>
    refine ⟨0, f.minExp, by simpa using cell_zero f, fun m => ?_⟩
    have hb : beyond f 0 f.minExp = false := by
      rw [← Bool.not_eq_true, beyond_iff, Nat.cast_zero, zero_mul, not_lt]
      exact mul_nonneg (Nat.cast_nonneg _) (by positivity)
    have hp : packMag f 0 f.minExp = 0 := by simp [packMag]
    simp [round, RMode.settle, hb, hp]
  | succ k =>
    by_cases h : 0 ≤ e
    · rw [units_eq_shl h]
      refine ⟨_, _, cell_cut f _ _ (by simp [Nat.shiftLeft_eq]) (by norm_num), fun m => ?_⟩
      simp only [round, h, if_true]
      exact roundMag_eq f m neg _ _ (by norm_num)
    · rw [units_eq_div h]
      refine ⟨_, _, cell_cut f _ _ (by simp) (by simp [Nat.shiftLeft_eq]), fun m => ?_⟩
      simp only [round, h, if_false]
      exact roundMag_eq f m neg _ _ (by simp [Nat.shiftLeft_eq])

/-- No value of the format lies inside a cell. -/
theorem Cell.gap {f : FFmt} {v : ℚ} {n : Nat} {u : Int} (hc : Cell f v n u) {j : Nat} {t : Int} (ht : f.minExp ≤ t) (hj : j < 2 ^ (f.mb + 1)) :
    (j : ℚ) * 2 ^ t ≤ n * 2 ^ u ∨ ((n : ℚ) + 1) * 2 ^ u ≤ j * 2 ^ t := by
  by_cases h : u ≤ t
  · have hz : (2 : ℚ) ^ t = 2 ^ (t - u).toNat * 2 ^ u := by
      rw [← zpow_natCast, Int.toNat_of_nonneg (by omega), ← zpow_add₀ (by norm_num), sub_add_cancel]
    rw [hz, ← mul_assoc]
    have hp : (0 : ℚ) ≤ 2 ^ u := by positivity
    rcases Nat.lt_or_ge n (j * 2 ^ (t - u).toNat) with h | h
    · exact .inr (mul_le_mul_of_nonneg_right (by exact_mod_cast h) hp)
    · exact .inl (mul_le_mul_of_nonneg_right (by exact_mod_cast h) hp)
  · left
    have hn := hc.normal.resolve_left (by omega)
    calc (j : ℚ) * 2 ^ t ≤ 2 ^ (f.mb + 1) * 2 ^ t := by gcongr; exact_mod_cast hj.le
      _ = 2 ^ f.mb * 2 ^ (t + 1) := by rw [pow_succ, zpow_add₀ (by norm_num)]; ring
      _ ≤ n * 2 ^ u := by
        gcongr
        · exact_mod_cast hn
        · norm_num
        · omega

/-- The first value past the largest finite one in the grid without an upper end. -/
def FFmt.nextQ (f : FFmt) : ℚ := (f.maxN + 1) * 2 ^ f.maxU

/-- Where the magnitude does not lie above the largest finite value, its cell does not reach past it. -/
theorem Cell.of_le_maxQ {f : FFmt} {v : ℚ} {n : Nat} {u : Int} (hc : Cell f v n u) (h : v ≤ f.maxQ) :
    v = n * 2 ^ u ∨ ((n : ℚ) + 1) * 2 ^ u ≤ f.maxQ := by
  have hN : f.maxN < 2 ^ (f.mb + 1) := (FFmt.maxN_bounds f).2
  rcases hc.gap (FFmt.minExp_le_maxU f) hN with h' | h'
  · exact .inl (le_antisymm (h.trans h') hc.lower)
  · exact .inr h'

/-- From the largest finite value up to the next of its grid, the cell is that of the largest finite value. -/
theorem Cell.eq_max {f : FFmt} {v : ℚ} {n : Nat} {u : Int} (hc : Cell f v n u) (h1 : f.maxQ ≤ v) (h2 : v < f.nextQ) :
    n = f.maxN ∧ u = f.maxU := by
  obtain ⟨hN, hN'⟩ := FFmt.maxN_bounds f
  have hu : u ≤ f.maxU := by
    by_contra hu
    have hn := hc.normal.resolve_left (by have := FFmt.minExp_le_maxU f; omega)
    have : f.nextQ ≤ v := calc
      f.nextQ ≤ 2 ^ (f.mb + 1) * 2 ^ f.maxU := mul_le_mul_of_nonneg_right (by exact_mod_cast hN') (by positivity)
      _ = 2 ^ f.mb * 2 ^ (f.maxU + 1) := by rw [pow_succ, zpow_add₀ (by norm_num)]; ring
      _ ≤ n * 2 ^ u := by
        gcongr
        · exact_mod_cast hn
        · norm_num
        · omega
      _ ≤ v := hc.lower
    linarith
  have hu' : f.maxU ≤ u := by
    by_contra hu'
    have : v < f.maxQ := calc
      v < (n + 1) * 2 ^ u := hc.upper
      _ ≤ 2 ^ (f.mb + 1) * 2 ^ u := mul_le_mul_of_nonneg_right (by exact_mod_cast hc.fits) (by positivity)
      _ = 2 ^ f.mb * 2 ^ (u + 1) := by rw [pow_succ, zpow_add₀ (by norm_num)]; ring
      _ ≤ f.maxN * 2 ^ f.maxU := by
        gcongr
        · exact_mod_cast hN
        · norm_num
        · omega
    linarith
  have hu := le_antisymm hu hu'
  subst hu
  have hp : (0 : ℚ) < 2 ^ f.maxU := by positivity
  refine ⟨?_, rfl⟩
  have h3 : (f.maxN : ℚ) < n + 1 := lt_of_mul_lt_mul_right (h1.trans_lt hc.upper) hp.le
  have h4 : (n : ℚ) < f.maxN + 1 := lt_of_mul_lt_mul_right (hc.lower.trans_lt h2) hp.le
  norm_cast at h3 h4
  omega

/-- Past the next value of the grid, the cell lies beyond the largest finite value. -/
theorem Cell.beyond_of_nextQ_le {f : FFmt} {v : ℚ} {n : Nat} {u : Int} (hc : Cell f v n u) (h : f.nextQ ≤ v) : f.maxQ < n * 2 ^ u := by
  have hp : (0 : ℚ) < 2 ^ f.maxU := by positivity
  have hlt : f.maxQ < f.nextQ := mul_lt_mul_of_pos_right (lt_add_one _) hp
  by_contra hb
  have hb := not_lt.1 hb
  rcases hc.gap (j := f.maxN) (FFmt.minExp_le_maxU f) (FFmt.maxN_bounds f).2 with h' | h'
  · have he : (n : ℚ) * 2 ^ u = f.maxQ := le_antisymm hb h'
    have hc' : Cell f f.maxQ n u := ⟨hc.weight, hc.fits, hc.normal, he.le, by rw [← he]; nlinarith [show (0 : ℚ) < 2 ^ u by positivity]⟩
    obtain ⟨rfl, rfl⟩ := hc'.eq_max le_rfl hlt
    exact absurd hc.upper (not_lt.2 h)
  · exact absurd (hc.upper.trans_le h') (not_lt.2 (hlt.le.trans h))

end Sys2Proof.Machine

/-! ## Rounding to a format (R28, R30): O14 -/

namespace Sys2Proof.Machine

/-- A number with the sign that `neg` names. -/
def signed (neg : Bool) (v : ℚ) : ℚ := if neg then -v else v

@[simp] theorem abs_signed (neg : Bool) (v : ℚ) : |signed neg v| = |v| := by cases neg <;> simp [signed]

theorem Val.q_fin_signed (neg : Bool) (m : Nat) (e : Int) : (Val.fin neg m e).q = signed neg (m * 2 ^ e) := by
  cases neg <;> simp [Val.q_fin, signed]

/-- Of two numbers with one sign the distance is that of the magnitudes. -/
theorem abs_signed_sub (neg : Bool) (a b : ℚ) : |signed neg a - signed neg b| = |a - b| := by
  cases neg
  · rfl
  · simp only [signed, if_true, neg_sub_neg]; exact abs_sub_comm b a

/-- The magnitude in units of the last place: its whole part and its fraction. -/
theorem Cell.eq_add {f : FFmt} {v : ℚ} {n : Nat} {u : Int} (hc : Cell f v n u) :
    0 ≤ v / 2 ^ u - n ∧ v / 2 ^ u - n < 1 ∧ v = (n + (v / 2 ^ u - n)) * 2 ^ u := by
  have hp : (0 : ℚ) < 2 ^ u := by positivity
  have h1 := (le_div_iff₀ hp).2 hc.lower
  have h2 := (div_lt_iff₀ hp).2 hc.upper
  exact ⟨by linarith, by linarith, by field_simp; ring⟩

/-- RNE gives a nearest of the values of the format, and an even code where another is as near. -/
theorem Cell.rne_nearest {f : FFmt} {v : ℚ} {n : Nat} {u : Int} (hc : Cell f v n u) {j : Nat} {t : Int} (ht : f.minExp ≤ t) (hj : j < 2 ^ (f.mb + 1)) :
    let k := RMode.rne.chosen n (v / 2 ^ u - n)
    |(k : ℚ) * 2 ^ u - v| ≤ |(j : ℚ) * 2 ^ t - v| ∧ (|(j : ℚ) * 2 ^ t - v| = |(k : ℚ) * 2 ^ u - v| → (j : ℚ) * 2 ^ t = k * 2 ^ u ∨ k % 2 = 0) := by
  intro k
  have hg := hc.gap ht hj
  obtain ⟨h0, h1, hv⟩ := hc.eq_add
  have hk : k = RMode.rne.chosen n (v / 2 ^ u - n) := rfl
  generalize (j : ℚ) * 2 ^ t = y at *
  generalize v / 2 ^ u - n = w at *
  have hp : (0 : ℚ) < 2 ^ u := by positivity
  generalize (2 : ℚ) ^ u = p at *
  subst hv
  rcases RMode.chosen_rne_bounds n (t := w) with ⟨e, hw, he⟩ | ⟨e, hw, he⟩
  · rw [hk, e, show (n : ℚ) * p - (n + w) * p = -(w * p) by ring, abs_neg, abs_of_nonneg (by positivity)]
    rcases hg with hg | hg
    · rw [abs_of_nonpos (by nlinarith)]
      exact ⟨by linarith, fun h => .inl (by linarith)⟩
    · rw [abs_of_nonneg (by nlinarith)]
      refine ⟨by nlinarith, fun h => .inr (he ?_)⟩
      have : (1 - 2 * w) * p ≤ 0 := by linarith
      nlinarith
  · rw [hk, e, show ((n + 1 : Nat) : ℚ) * p - (n + w) * p = (1 - w) * p by push_cast; ring,
      abs_of_nonneg (mul_nonneg (by linarith) hp.le)]
    rcases hg with hg | hg
    · rw [abs_of_nonpos (by nlinarith)]
      refine ⟨by nlinarith, fun h => .inr (he ?_)⟩
      have : (2 * w - 1) * p ≤ 0 := by linarith
      nlinarith
    · rw [abs_of_nonneg (by nlinarith)]
      exact ⟨by linarith, fun h => .inl (by push_cast; linarith)⟩

/-- Half a place beyond the largest finite value. -/
def FFmt.limitQ (f : FFmt) : ℚ := (f.maxN + 1 / 2) * 2 ^ f.maxU

theorem FFmt.maxQ_lt_limitQ (f : FFmt) : f.maxQ < f.limitQ := mul_lt_mul_of_pos_right (by linarith) (by positivity)

theorem FFmt.limitQ_lt_nextQ (f : FFmt) : f.limitQ < f.nextQ := mul_lt_mul_of_pos_right (by linarith) (by positivity)

theorem FFmt.maxN_even_iff (f : FFmt) : f.maxN % 2 = 0 ↔ f = .e4m3 := by cases f <;> decide

/-- The magnitude lies past the point from which RNE leaves the finite values: the tie goes to the even code, in E4M3 the largest value's. -/
def FFmt.Past (f : FFmt) (v : ℚ) : Prop := f.limitQ < v ∨ v = f.limitQ ∧ f ≠ .e4m3

/-- RNE chooses beyond the largest finite value exactly past that point. -/
theorem Cell.rne_beyond_iff {f : FFmt} {v : ℚ} {n : Nat} {u : Int} (hc : Cell f v n u) :
    f.maxQ < RMode.rne.chosen n (v / 2 ^ u - n) * 2 ^ u ↔ f.Past v := by
  have hp : (0 : ℚ) < 2 ^ u := by positivity
  obtain ⟨h0, h1, hv⟩ := hc.eq_add
  have hm := f.maxQ_lt_limitQ
  have hn := f.limitQ_lt_nextQ
  rcases le_or_gt v f.maxQ with h | h
  · refine iff_of_false (not_lt.2 ?_) (by rintro (h' | ⟨rfl, -⟩) <;> linarith)
    rcases hc.of_le_maxQ h with h' | h'
    · rw [h', mul_div_cancel_right₀ _ hp.ne', sub_self, RMode.chosen_zero, ← h']
      exact h
    · rcases RMode.chosen_cases .rne n (v / 2 ^ u - n) with e | e
      · rw [e]; exact hc.lower.trans h
      · rw [e]; push_cast; exact h'
  · rcases lt_or_ge v f.nextQ with h' | h'
    · obtain ⟨rfl, rfl⟩ := hc.eq_max h.le h'
      have hlim : f.limitQ = f.maxN * 2 ^ f.maxU + 1 / 2 * 2 ^ f.maxU := by unfold FFmt.limitQ; ring
      rcases RMode.chosen_rne_bounds f.maxN (t := v / 2 ^ f.maxU - f.maxN) with ⟨e, hw, he⟩ | ⟨e, hw, he⟩
      · rw [e]
        refine iff_of_false (lt_irrefl _) ?_
        generalize v / 2 ^ f.maxU - f.maxN = w at *
        rintro (h3 | ⟨h3, h4⟩)
        · nlinarith
        · exact h4 (f.maxN_even_iff.1 (he (by nlinarith)))
      · rw [e]
        refine iff_of_true (mul_lt_mul_of_pos_right (by push_cast; linarith) hp) ?_
        generalize v / 2 ^ f.maxU - f.maxN = w at *
        rcases eq_or_lt_of_le hw with h3 | h3
        · refine .inr ⟨by rw [hv, ← h3, hlim]; ring, fun h4 => ?_⟩
          have := he h3.symm
          have := f.maxN_even_iff.2 h4
          omega
        · exact .inl (by nlinarith)
    · refine iff_of_true ((hc.beyond_of_nextQ_le h').trans_le (mul_le_mul_of_nonneg_right ?_ hp.le)) (.inl (by linarith))
      rcases RMode.chosen_cases .rne n (v / 2 ^ u - n) with e | e
      · rw [e]
      · rw [e]; push_cast; linarith

/-- A code of the format whose value is `w` with its sign. -/
structure Codes (f : FFmt) (neg : Bool) (w : ℚ) (c : Nat) : Prop where
  lt : c < 2 ^ (f.eb + f.mb + 1)
  fin : (f.value c).isFin = true
  sign : c.testBit (f.eb + f.mb) = neg
  q : (f.value c).q = signed neg w

theorem FFmt.signBit_add_lt (f : FFmt) (neg : Bool) {c : Nat} (h : c < 2 ^ (f.eb + f.mb)) : f.signBit neg + c < 2 ^ (f.eb + f.mb + 1) := by
  rw [pow_succ]
  cases neg <;> simp [signBit] <;> omega

/-- Units of a cell, or one more, that are not beyond the largest finite value have a code, whose last bit is that of their number. -/
theorem codes_packMag {f : FFmt} {k : Nat} {u : Int} (hu : f.minExp ≤ u) (hk : k ≤ 2 ^ (f.mb + 1)) (hm : u = f.minExp ∨ 2 ^ f.mb ≤ k)
    (hb : (k : ℚ) * 2 ^ u ≤ f.maxQ) (neg : Bool) :
    Codes f neg (k * 2 ^ u) (f.signBit neg + packMag f k u) ∧ packMag f k u < 2 ^ (f.eb + f.mb) ∧ packMag f k u % 2 = k % 2 := by
  have within {n : Nat} {t : Int} (ht : f.minExp ≤ t) (hn : n < 2 ^ (f.mb + 1)) (hm : t = f.minExp ∨ 2 ^ f.mb ≤ n) (hb : (n : ℚ) * 2 ^ t ≤ f.maxQ) :
      Codes f neg (n * 2 ^ t) (f.signBit neg + packMag f n t) ∧ packMag f n t < 2 ^ (f.eb + f.mb) ∧ packMag f n t % 2 = n % 2 := by
    obtain ⟨hv, hlt, hpar⟩ := FFmt.value_packMag (FFmt.within_of_le ht hn hm hb) hm neg
    have hfin : (f.value (f.signBit neg + packMag f n t)).isFin = true := by rw [hv]; rfl
    obtain ⟨j, t', hj, -⟩ := FFmt.value_within hfin
    rw [hv] at hj
    exact ⟨⟨f.signBit_add_lt neg hlt, hfin, (Val.fin.inj hj).1.symm, by rw [hv, Val.q_fin_signed]⟩, hlt, hpar⟩
  rcases Nat.lt_or_eq_of_le hk with h | h
  · exact within hu h hm hb
  · have hq : (k : ℚ) * 2 ^ u = (2 ^ f.mb : Nat) * 2 ^ (u + 1) := by
      rw [h, zpow_add₀ (by norm_num), pow_succ]; push_cast; ring
    rw [hq] at hb ⊢
    rw [h, FFmt.packMag_carry]
    have := within (by omega) (by rw [pow_succ]; have := Nat.pow_pos (n := f.mb) (a := 2) (by norm_num); omega) (.inr le_rfl) hb
    refine ⟨this.1, this.2.1, this.2.2.trans ?_⟩
    cases f <;> decide

theorem Cell.normal_succ {f : FFmt} {v : ℚ} {n : Nat} {u : Int} (hc : Cell f v n u) {k : Nat} (h : k = n ∨ k = n + 1) : u = f.minExp ∨ 2 ^ f.mb ≤ k :=
  hc.normal.imp_right fun h' => by omega

/-- What a direction chooses within the range has a code. -/
theorem Cell.codes {f : FFmt} {v : ℚ} {n : Nat} {u : Int} (hc : Cell f v n u) {k : Nat} (h : k = n ∨ k = n + 1) (hb : (k : ℚ) * 2 ^ u ≤ f.maxQ) (neg : Bool) :
    Codes f neg (k * 2 ^ u) (f.signBit neg + packMag f k u) ∧ packMag f k u < 2 ^ (f.eb + f.mb) ∧ packMag f k u % 2 = k % 2 :=
  codes_packMag hc.weight (by have := hc.fits; omega) (hc.normal_succ h) hb neg

theorem FFmt.packMag_max (f : FFmt) : packMag f f.maxN f.maxU = f.maxCode := by cases f <;> decide

/-- The code of the largest finite value. -/
theorem codes_maxCode (f : FFmt) (neg : Bool) : Codes f neg f.maxQ (f.signBit neg + f.maxCode) := by
  have h := codes_packMag f.minExp_le_maxU (Nat.le_of_succ_le f.maxN_bounds.2) (.inr f.maxN_bounds.1) le_rfl neg
  rw [f.packMag_max] at h
  exact h.1

/-- Within the range a direction gives the code of what it chooses. -/
theorem RMode.settle_of_le {m : RMode} {f : FFmt} {neg : Bool} {k : Nat} {u : Int} (h : (k : ℚ) * 2 ^ u ≤ f.maxQ) :
    m.settle f neg k u = ⟨f.signBit neg + packMag f k u, false⟩ := by
  rw [settle, if_neg]
  rw [beyond_iff]
  exact not_lt.2 h

theorem RMode.settle_of_lt {m : RMode} {f : FFmt} {neg : Bool} {k : Nat} {u : Int} (h : f.maxQ < k * 2 ^ u) :
    m.settle f neg k u = m.overflow f neg := by
  rw [settle, if_pos (beyond_iff.2 h)]

/-- Magnitudes as near as possible are values as near as possible: of two numbers, the one with the sign of the third is the nearer. -/
theorem signed_nearest {neg : Bool} {v r y : ℚ} {p : Prop} (hv : 0 ≤ v) (hr : 0 ≤ r) (h0 : |r - v| ≤ v)
    (h : |r - v| ≤ |(|y|) - v| ∧ (|(|y|) - v| = |r - v| → |y| = r ∨ p)) :
    |signed neg r - signed neg v| ≤ |y - signed neg v| ∧ (|y - signed neg v| = |signed neg r - signed neg v| → y = signed neg r ∨ p) := by
  have hy : |(|y|) - v| ≤ |y - signed neg v| := by
    have := abs_abs_sub_abs_le y (signed neg v)
    rwa [abs_signed, abs_of_nonneg hv] at this
  rw [abs_signed_sub]
  refine ⟨h.1.trans hy, fun e => ?_⟩
  rcases h.2 (le_antisymm (hy.trans e.le) h.1) with hyr | hp
  · left
    have hsame : |y| = |signed neg r| := by rw [abs_signed, abs_of_nonneg hr, hyr]
    rcases abs_eq_abs.1 hsame with hs | hs
    · exact hs
    · have hsum : r + v = |r - v| := by
        rw [← e, hs]
        cases neg
        · simp only [signed, Bool.false_eq_true, if_false]; rw [← neg_add', abs_neg, abs_of_nonneg (by linarith)]
        · simp only [signed, if_true]; rw [neg_neg, sub_neg_eq_add, abs_of_nonneg (by linarith)]
      have hr0 : r = 0 := by
        rcases abs_cases (r - v) with ⟨ha, -⟩ | ⟨ha, -⟩ <;> rw [ha] at hsum h0 <;> linarith
      rw [hs, hr0]; cases neg <;> simp [signed]
  · exact .inr hp

end Sys2Proof.Machine

namespace Sys2Proof.Machine

section
variable (f : FFmt) (neg : Bool) (k : Nat) (e : Int)

/-- The magnitude of a finite value lies above no value of the format that is at most the cell's lower end. -/
theorem Codes.abs_q {w : ℚ} {c : Nat} (h : Codes f neg w c) (hw : 0 ≤ w) : |(f.value c).q| = w := by
  rw [h.q, abs_signed, abs_of_nonneg hw]

theorem abs_q_fin : |(Val.fin neg k e).q| = k * 2 ^ e := by
  rw [Val.q_fin_signed, abs_signed, abs_of_nonneg (by positivity)]

/-- The magnitude of a finite code is units within the range. -/
theorem abs_value_units {f : FFmt} {c : Nat} (h : (f.value c).isFin = true) : ∃ (j : Nat) (t : Int), |(f.value c).q| = j * 2 ^ t ∧ f.Within j t := by
  obtain ⟨j, t, hv, hw⟩ := FFmt.value_within h
  exact ⟨j, t, by rw [hv, abs_q_fin], hw⟩

/-- The point past which RNE leaves the finite values. -/
def FFmt.limitVal (f : FFmt) : Val := .fin false (2 * f.maxN + 1) (f.maxU - 1)

/-- Does the magnitude lie past that point? -/
def FFmt.pastLimit (f : FFmt) (x : Val) : Bool := if f = .e4m3 then f.limitVal.lt x.abs else !x.abs.lt f.limitVal

theorem pastLimit_iff : f.pastLimit (.fin neg k e) = true ↔ f.Past (k * 2 ^ e) := by
  have hq : f.limitVal.q = f.limitQ := by
    rw [FFmt.limitVal, Val.q_fin_false, FFmt.limitQ, zpow_sub₀ (by norm_num)]; push_cast; ring
  have hx : (Val.fin neg k e).abs.q = k * 2 ^ e := by rw [Val.q_abs]; exact abs_q_fin ..
  unfold FFmt.Past FFmt.pastLimit
  split
  · next h => rw [Val.lt_iff rfl rfl, hq, hx]; simp [h]
  · next h =>
    rw [Bool.not_eq_true', Val.lt_eq_false_iff rfl rfl, hq, hx, le_iff_lt_or_eq]
    simp [h, eq_comm]

/-- The formats without room for an infinity on overflow: their conversions saturate. -/
def FFmt.narrow (f : FFmt) : Bool := decide (f = .e4m3) || decide (f = .e5m2)

/-- RNE past half a place beyond the largest finite value. -/
theorem round_rne_past (h : f.pastLimit (.fin neg k e) = true) :
    round f .rne (.fin neg k e) = ⟨f.signBit neg + (if f.narrow then f.maxCode else f.infCode), f.narrow⟩ := by
  obtain ⟨n, u, hc, hr⟩ := round_fin f neg k e
  rw [hr, RMode.settle_of_lt (hc.rne_beyond_iff.2 ((pastLimit_iff f neg k e).1 h))]
  cases f <;> rfl

/-- RNE before that point: a nearest value, of two the one with the even code. -/
theorem round_rne_nearest (h : f.pastLimit (.fin neg k e) = false) :
    let x := Val.fin neg k e
    let r := round f .rne x
    let off (c : Nat) : Val := ((f.value c).sub x).abs
    r.satur = false ∧ r.code < 2 ^ (f.eb + f.mb + 1) ∧ (f.value r.code).isFin = true ∧ r.code.testBit (f.eb + f.mb) = neg
      ∧ ∀ c, c < 2 ^ (f.eb + f.mb + 1) → (f.value c).isFin = true → (off c).lt (off r.code) = false
        ∧ ((off c).eqv (off r.code) = true → (f.value c).eqv (f.value r.code) = true ∨ r.code % 2 = 0) := by
  intro x r off
  obtain ⟨n, u, hc, hr⟩ := round_fin f neg k e
  set w := RMode.rne.chosen n (k * 2 ^ e / 2 ^ u - n) with hw
  have hle : (w : ℚ) * 2 ^ u ≤ f.maxQ := not_lt.1 (mt hc.rne_beyond_iff.1 (mt (pastLimit_iff f neg k e).2 (Bool.eq_false_iff.1 h)))
  have hrw : r = ⟨f.signBit neg + packMag f w u, false⟩ := (hr .rne).trans (RMode.settle_of_le hle)
  obtain ⟨hcode, -, hpar⟩ := hc.codes (RMode.chosen_cases ..) hle neg
  rw [hrw]
  refine ⟨rfl, hcode.lt, hcode.fin, hcode.sign, fun c _ hfin => ?_⟩
  have hv : (0 : ℚ) ≤ k * 2 ^ e := by positivity
  have hx : x.q = signed neg (k * 2 ^ e) := Val.q_fin_signed ..
  obtain ⟨j, t, hj, ht, hj', -⟩ := abs_value_units hfin
  have hnear := hc.rne_nearest ht hj'
  have hzero := (hc.rne_nearest (j := 0) le_rfl (by positivity)).1
  rw [Nat.cast_zero, zero_mul, zero_sub, abs_neg, abs_of_nonneg hv] at hzero
  rw [← hj] at hnear
  have key := signed_nearest (neg := neg) hv (by positivity) hzero hnear
  have hoff (d : Nat) (hd : (f.value d).isFin = true) : (off d).isFin = true ∧ (off d).q = |(f.value d).q - signed neg (k * 2 ^ e)| :=
    ⟨by rw [Val.isFin_abs]; exact Val.isFin_sub hd rfl, by rw [Val.q_abs, Val.q_sub hd rfl, hx]⟩
  obtain ⟨hfc, hqc⟩ := hoff c hfin
  obtain ⟨hfr, hqr⟩ := hoff _ hcode.fin
  rw [Val.lt_eq_false_iff hfc hfr, Val.eqv_iff hfc hfr, Val.eqv_iff hfin hcode.fin, hqc, hqr, hcode.q]
  refine ⟨key.1, fun hh => (key.2 hh).imp_right fun hk => ?_⟩
  have hs : f.signBit neg % 2 = 0 := by cases f <;> cases neg <;> decide
  have : packMag f w u % 2 = 0 := hpar.trans hk
  simp only []
  omega

/-- RZ before the next value of the grid keeps the whole part of the magnitude; its cell ends at the largest finite value or within the range. -/
theorem Cell.lower_le_maxQ {f : FFmt} {v : ℚ} {n : Nat} {u : Int} (hc : Cell f v n u) (h : v < f.nextQ) :
    (n : ℚ) * 2 ^ u ≤ f.maxQ ∧ ((n = f.maxN ∧ u = f.maxU) ∨ ((n : ℚ) + 1) * 2 ^ u ≤ f.maxQ) := by
  rcases lt_or_ge v f.maxQ with h' | h'
  · rcases hc.of_le_maxQ h'.le with h2 | h2
    · have hN : f.maxN < 2 ^ (f.mb + 1) := f.maxN_bounds.2
      rcases hc.gap f.minExp_le_maxU hN with h3 | h3
      · exact absurd (h2 ▸ h') (not_lt.2 h3)
      · exact ⟨hc.lower.trans h'.le, .inr h3⟩
    · exact ⟨hc.lower.trans h'.le, .inr h2⟩
  · obtain ⟨rfl, rfl⟩ := hc.eq_max h' h
    exact ⟨le_rfl, .inl ⟨rfl, rfl⟩⟩

theorem overflow_rz : RMode.rz.overflow f neg = ⟨f.signBit neg + f.maxCode, f.narrow⟩ := by cases f <;> rfl

theorem overflow_sr (d : Nat) : (RMode.sr d).overflow f neg = ⟨f.signBit neg + f.maxCode, true⟩ := rfl

/-- The next value of the grid past the largest finite one. -/
def FFmt.nextVal : FFmt → Val
  | f32 => .fin false 1 128 | f16 => .fin false 1 16 | bf16 => .fin false 1 128 | e4m3 => .fin false 15 5 | e5m2 => .fin false 1 16

@[simp] theorem FFmt.isFin_nextVal (f : FFmt) : f.nextVal.isFin = true := by cases f <;> rfl

theorem FFmt.q_nextVal (f : FFmt) : f.nextVal.q = f.nextQ := by
  cases f <;> simp only [nextVal, nextQ, maxN, maxU, Val.q_fin_false] <;> norm_num

theorem lt_nextVal_iff : (Val.fin neg k e).abs.lt f.nextVal = true ↔ k * 2 ^ e < f.nextQ := by
  rw [Val.lt_iff rfl f.isFin_nextVal, Val.q_abs, abs_q_fin, f.q_nextVal]

/-- RZ: the largest finite value that is not above the magnitude. -/
theorem round_rz_floor :
    let x := Val.fin neg k e
    let z := round f .rz x
    z.satur = (f.narrow && !x.abs.lt f.nextVal) ∧ z.code < 2 ^ (f.eb + f.mb + 1) ∧ (f.value z.code).isFin = true
      ∧ z.code.testBit (f.eb + f.mb) = neg ∧ x.abs.lt (f.value z.code).abs = false
      ∧ ∀ c, c < 2 ^ (f.eb + f.mb + 1) → (f.value c).isFin = true → x.abs.lt (f.value c).abs = true ∨ (f.value z.code).abs.lt (f.value c).abs = false := by
  intro x z
  obtain ⟨n, u, hc, hr⟩ := round_fin f neg k e
  have hx : x.abs.q = (k : ℚ) * 2 ^ e := by rw [Val.q_abs]; exact abs_q_fin ..
  have hp : (0 : ℚ) < 2 ^ u := by positivity
  obtain ⟨w, hcode, hsat, hw0, hwle, hmax⟩ : ∃ w : ℚ, Codes f neg w z.code ∧ z.satur = (f.narrow && !x.abs.lt f.nextVal) ∧ 0 ≤ w ∧ w ≤ k * 2 ^ e
      ∧ ∀ (j : Nat) (t : Int), f.Within j t → (j : ℚ) * 2 ^ t ≤ w ∨ (k : ℚ) * 2 ^ e < j * 2 ^ t := by
    by_cases h : (k : ℚ) * 2 ^ e < f.nextQ
    · have hle := (hc.lower_le_maxQ h).1
      have hz : z = ⟨f.signBit neg + packMag f n u, false⟩ := (hr .rz).trans (RMode.settle_of_le hle)
      refine ⟨n * 2 ^ u, by rw [hz]; exact (hc.codes (.inl rfl) hle neg).1, by rw [hz, (lt_nextVal_iff f neg k e).2 h]; simp, by positivity,
        hc.lower, fun j t hw => ?_⟩
      exact (hc.gap hw.1 hw.2.1).imp_right hc.upper.trans_le
    · have hlt := hc.beyond_of_nextQ_le (not_lt.1 h)
      have hz : z = ⟨f.signBit neg + f.maxCode, f.narrow⟩ := ((hr .rz).trans (RMode.settle_of_lt hlt)).trans (overflow_rz f neg)
      have hn : x.abs.lt f.nextVal = false := by rw [← Bool.not_eq_true, lt_nextVal_iff]; exact h
      exact ⟨f.maxQ, by rw [hz]; exact codes_maxCode f neg, by rw [hz, hn]; simp, by unfold FFmt.maxQ; positivity,
        hlt.le.trans hc.lower, fun j t hw => .inl (FFmt.within_le_maxQ hw)⟩
  have hzq : (f.value z.code).abs.q = w := by rw [Val.q_abs]; exact hcode.abs_q f neg hw0
  have hzf : (f.value z.code).abs.isFin = true := by rw [Val.isFin_abs]; exact hcode.fin
  refine ⟨hsat, hcode.lt, hcode.fin, hcode.sign, ?_, fun c _ hfin => ?_⟩
  · rw [Val.lt_eq_false_iff rfl hzf, hzq, hx]; exact hwle
  · obtain ⟨j, t, hj, hjt⟩ := abs_value_units hfin
    have hcf : (f.value c).abs.isFin = true := by rw [Val.isFin_abs]; exact hfin
    rw [Val.lt_iff rfl hcf, Val.lt_eq_false_iff hzf hcf, hzq, hx, Val.q_abs, hj]
    exact (hmax j t hjt).symm

/-- One unit more is one code more. -/
theorem Cell.packMag_succ {f : FFmt} {v : ℚ} {n : Nat} {u : Int} (hc : Cell f v n u) : packMag f (n + 1) u = packMag f n u + 1 := by
  have hE : 0 < u + f.mb + f.bias := by have := hc.weight; simp only [FFmt.minExp] at this; omega
  obtain ⟨E, hE'⟩ : ∃ E : Nat, u + f.mb + f.bias = E := ⟨(u + f.mb + f.bias).toNat, by omega⟩
  have hE1 : u + 1 + f.mb + f.bias = (E + 1 : Nat) := by push_cast; omega
  have hn := hc.fits
  have hpos := Nat.pow_pos (n := f.mb) (a := 2) (by norm_num)
  have hs : (E + 1) * 2 ^ f.mb = E * 2 ^ f.mb + 2 ^ f.mb := by ring
  rw [pow_succ] at hn
  simp only [packMag, pow_succ, Nat.shiftLeft_eq]
  rcases hc.normal with hu | hu
  · obtain rfl : E = 1 := by simp only [FFmt.minExp] at hu; omega
    split_ifs <;> simp only [hE', hE1, Int.toNat_natCast, hs] <;> omega
  · split_ifs <;> simp only [hE', hE1, Int.toNat_natCast, hs] <;> omega

/-- SR beyond the grid saturates whatever the draw is. -/
theorem round_sr_beyond (d : Nat) (h : (Val.fin neg k e).abs.lt f.nextVal = false) : round f (.sr d) (.fin neg k e) = ⟨f.signBit neg + f.maxCode, true⟩ := by
  obtain ⟨n, u, hc, hr⟩ := round_fin f neg k e
  have hlt := hc.beyond_of_nextQ_le (not_lt.1 (mt (lt_nextVal_iff f neg k e).2 (Bool.eq_false_iff.1 h)))
  rw [hr, RMode.settle_of_lt, overflow_sr]
  refine hlt.trans_le (mul_le_mul_of_nonneg_right ?_ (by positivity))
  rcases RMode.chosen_cases (.sr d) n (k * 2 ^ e / 2 ^ u - n) with e | e <;> rw [e]
  push_cast
  exact (lt_add_one _).le

/-- SR within the grid: away from zero where the draw lies below the floor of 32,768 parts of the gap. -/
theorem round_sr_within (d : Nat) (h : (Val.fin neg k e).abs.lt f.nextVal = true) :
    let x := Val.fin neg k e
    let z := round f .rz x
    let last := decide (z.code % 2 ^ (f.eb + f.mb) = f.maxCode)
    let lo := (f.value z.code).abs
    let hi := if last then f.nextVal else (f.value (z.code + 1)).abs
    let up := !((Val.ofInt 32768).mul (x.abs.sub lo)).lt ((Val.ofInt ((d : Int) + 1)).mul (hi.sub lo))
    round f (.sr d) x = ⟨if up && !last then z.code + 1 else z.code, up && last⟩ := by
  intro x z last lo hi up
  obtain ⟨n, u, hc, hr⟩ := round_fin f neg k e
  have hp : (0 : ℚ) < 2 ^ u := by positivity
  obtain ⟨hle, hend⟩ := hc.lower_le_maxQ ((lt_nextVal_iff f neg k e).1 h)
  have hz : z = ⟨f.signBit neg + packMag f n u, false⟩ := (hr .rz).trans (RMode.settle_of_le hle)
  obtain ⟨hcode, hmag, -⟩ := hc.codes (.inl rfl) hle neg
  have hmod : z.code % 2 ^ (f.eb + f.mb) = packMag f n u := by
    rw [hz]
    cases neg <;> simp [FFmt.signBit, Nat.mod_eq_of_lt hmag]
  have hlo : lo.isFin = true ∧ lo.q = n * 2 ^ u := by
    simp only [lo, hz]
    exact ⟨by rw [Val.isFin_abs]; exact hcode.fin, by rw [Val.q_abs]; exact hcode.abs_q f neg (by positivity)⟩
  have hsucc : f.signBit neg + packMag f n u + 1 = f.signBit neg + packMag f (n + 1) u := by rw [hc.packMag_succ]; rfl
  have hlast : last = true ↔ n = f.maxN ∧ u = f.maxU := by
    simp only [last, hmod, decide_eq_true_eq]
    refine ⟨fun hm => ?_, fun hm => by rw [hm.1, hm.2, f.packMag_max]⟩
    refine hend.resolve_right fun hh => ?_
    have hs := hc.codes (.inr rfl) (by push_cast; exact hh) false
    have hmx := codes_maxCode f false
    have hq := hcode.abs_q f neg (by positivity)
    have hq' := (codes_maxCode f neg).abs_q f neg (by unfold FFmt.maxQ; positivity)
    rw [hm, hq'] at hq
    nlinarith
  have hhi : hi.isFin = true ∧ hi.q = (n + 1) * 2 ^ u := by
    by_cases hl : last = true
    · obtain ⟨rfl, rfl⟩ := hlast.1 hl
      simp only [hi, hl, if_true]
      exact ⟨f.isFin_nextVal, f.q_nextVal⟩
    · have hle1 := hend.resolve_left (mt hlast.2 hl)
      obtain ⟨hs, -, -⟩ := hc.codes (.inr rfl) (by push_cast; exact hle1) neg
      simp only [hi, hl, hz, hsucc]
      exact ⟨by rw [if_neg (by simp), Val.isFin_abs]; exact hs.fin, by
        rw [if_neg (by simp), Val.q_abs, hs.abs_q f neg (by positivity)]; push_cast; rfl⟩
  have hup : up = true ↔ (d + 1 : ℚ) ≤ 32768 * (k * 2 ^ e / 2 ^ u - n) := by
    have hsl := Val.isFin_sub (a := x.abs) (b := lo) rfl hlo.1
    have hsh := Val.isFin_sub hhi.1 hlo.1
    simp only [up, Bool.not_eq_true']
    rw [Val.lt_eq_false_iff (Val.isFin_mul rfl hsl) (Val.isFin_mul rfl hsh), Val.q_mul rfl hsl, Val.q_mul rfl hsh,
      Val.q_sub (a := x.abs) rfl hlo.1, Val.q_sub hhi.1 hlo.1, hlo.2, hhi.2, Val.q_ofInt, Val.q_ofInt, Val.q_abs, abs_q_fin]
    rw [show ((n : ℚ) + 1) * 2 ^ u - n * 2 ^ u = 2 ^ u by ring, ← le_div_iff₀ hp]
    rw [show ((32768 : Int) : ℚ) * (k * 2 ^ e - n * 2 ^ u) / 2 ^ u = 32768 * (k * 2 ^ e / 2 ^ u - n) by push_cast; field_simp]
    push_cast
    rfl
  rw [hr]
  have hch : (RMode.sr d).chosen n (k * 2 ^ e / 2 ^ u - n) = if up then n + 1 else n := by
    by_cases hu : up = true
    · rw [if_pos hu]; exact if_pos (hup.1 hu)
    · rw [if_neg hu]; exact if_neg (mt hup.2 hu)
  rw [hch]
  by_cases hu : up = true
  · by_cases hl : last = true
    · obtain ⟨rfl, rfl⟩ := hlast.1 hl
      rw [if_pos hu, RMode.settle_of_lt (mul_lt_mul_of_pos_right (by push_cast; exact lt_add_one _) hp), overflow_sr]
      simp [hu, hl, hz, f.packMag_max]
    · rw [if_pos hu, RMode.settle_of_le (by push_cast; exact hend.resolve_left (mt hlast.2 hl))]
      simp [hu, hl, hz, hsucc]
  · rw [if_neg hu, RMode.settle_of_le hle]
    simp [hu, hz]

end

/-- Settles O14: a finite magnitude lies in one cell of the format's grid, in which each direction chooses one of the two ends. -/
theorem rounding : Obligations.Rounding := by
  intro f
  have nonfinite : ∀ m, round f m .nan = ⟨f.canonNaN, false⟩ ∧ (∀ neg, round f m (.inf neg) = ⟨f.signBit neg + f.infCode, decide (f = .e4m3)⟩)
      ∧ ∀ neg e, round f m (.fin neg 0 e) = ⟨f.signBit neg, false⟩ :=
    fun m => ⟨rfl, fun neg => by cases f <;> rfl, fun neg e => rfl⟩
  have rne (neg : Bool) (k : Nat) (e : Int) := And.intro (round_rne_past f neg k e) (round_rne_nearest f neg k e)
  have rz (neg : Bool) (k : Nat) (e : Int) := round_rz_floor f neg k e
  have sr (neg : Bool) (k : Nat) (e : Int) (u : Nat) := And.intro (round_sr_beyond f neg k e u) (round_sr_within f neg k e u)
  cases f <;> exact ⟨nonfinite, fun neg k e => ⟨(rne neg k e).1, (rne neg k e).2, rz neg k e, fun u _ _ => sr neg k e u⟩⟩

end Sys2Proof.Machine

/-! ## DS8 (R23, R24) -/

namespace Sys2Proof.Machine

/-- The sign and magnitude of an integer are the integer. -/
theorem ofSign_natAbs (x : Int) : (if decide (x < 0) then -(x.natAbs : Int) else x.natAbs) = x := by
  by_cases h : x < 0
  · rw [decide_eq_true h, if_pos rfl]; omega
  · rw [decide_eq_false h, if_neg (by simp)]; omega

/-- A DS8 code is its number of units of 2^−7. -/
theorem ds8Val_eq (c : Nat) : ds8Val c = .fin (decide (ds8Units c < 0)) (ds8Units c).natAbs (-7) := by
  have h : ds8Units c = (if c.testBit 7 then -((2 ^ (7 - bits c 6 4) : Nat) : Int) else (2 ^ (7 - bits c 6 4) : Nat))
      + (if c.testBit 3 then -((2 ^ (7 - bits c 2 0) : Nat) : Int) else (2 ^ (7 - bits c 2 0) : Nat)) := ofSign_natAbs _
  rw [h]
  rfl

theorem q_ds8Val (c : Nat) : (ds8Val c).q = ds8Units c * (2 : ℚ) ^ (-7 : Int) := by rw [ds8Val_eq, Val.q_ofSign]

/-- A signed power of two in units of 2^−7. -/
theorem q_ds8Term (s : Bool) {k : Nat} (hk : k < 8) :
    (Val.fin s 1 (-(k : Int))).q = ((if s then -((2 ^ (7 - k) : Nat) : Int) else (2 ^ (7 - k) : Nat) : Int) : ℚ) * (2 : ℚ) ^ (-7 : Int) := by
  have h : (2 : ℚ) ^ (-(k : Int)) = (2 ^ (7 - k) : Nat) * (2 : ℚ) ^ (-7 : Int) := by
    push_cast
    rw [← zpow_natCast, ← zpow_add₀ (by norm_num)]
    congr 1
    omega
  rw [Val.q_fin_signed, Nat.cast_one, one_mul, h]
  cases s <;> simp [signed]

/-- R23: a DS8 code is the sum of its two signed powers of two. -/
theorem ds8Val_sum (c : Nat) : let p (s : Bool) (k : Nat) := Val.fin s 1 (-(k : Int))
    (ds8Val c).eqv ((p (c.testBit 7) (c / 16 % 8)).add (p (c.testBit 3) (c % 8))) = true := by
  intro p
  have h : ds8Units c = (if c.testBit 7 then -((2 ^ (7 - bits c 6 4) : Nat) : Int) else (2 ^ (7 - bits c 6 4) : Nat))
      + (if c.testBit 3 then -((2 ^ (7 - bits c 2 0) : Nat) : Int) else (2 ^ (7 - bits c 2 0) : Nat)) := ofSign_natAbs _
  have h1 : bits c 6 4 = c / 16 % 8 := by simp [bits, Nat.shiftRight_eq_div_pow]
  have h2 : bits c 2 0 = c % 8 := by simp [bits]
  rw [h1, h2] at h
  rw [Val.eqv_iff rfl (Val.isFin_add rfl rfl), Val.q_add rfl rfl, q_ds8Term _ (Nat.mod_lt _ (by norm_num)), q_ds8Term _ (Nat.mod_lt _ (by norm_num)),
    ← add_mul, q_ds8Val, h, Int.cast_add]

/-- Of two codes the one that R24 chooses before the other: the nearer, of two the smaller, of two the lower. -/
def Ds8Before (num : Int) (den r c : Nat) : Prop :=
  ds8Dist num den r < ds8Dist num den c ∨ ds8Dist num den r = ds8Dist num den c
    ∧ ((ds8Units r).natAbs < (ds8Units c).natAbs ∨ (ds8Units r).natAbs = (ds8Units c).natAbs ∧ r ≤ c)

/-- The code that the fold over the codes below `n` finds. -/
@[irreducible] def ds8Best (num : Int) (den n : Nat) : Nat := (List.range n).foldl (ds8Better num den) 0

theorem ds8Best_zero (num : Int) (den : Nat) : ds8Best num den 0 = 0 := by simp [ds8Best]

theorem ds8Best_succ (num : Int) (den n : Nat) : ds8Best num den (n + 1) = ds8Better num den (ds8Best num den n) n := by
  simp [ds8Best, List.range_succ]

theorem ds8Best_lt (num : Int) (den n : Nat) (hn : 0 < n) : ds8Best num den n < n := by
  induction n with
  | zero => exact absurd hn (lt_irrefl 0)
  | succ n ih =>
    rw [ds8Best_succ, ds8Better]
    rcases Nat.eq_zero_or_pos n with rfl | h
    · rw [ds8Best_zero]; split_ifs <;> omega
    · have := ih h; split_ifs <;> omega

/-- The fold over the codes finds the one before all others. -/
theorem ds8Best_before (num : Int) (den n : Nat) : ∀ c, c < n → Ds8Before num den (ds8Best num den n) c := by
  induction n with
  | zero => exact fun c hc => absurd hc (Nat.not_lt_zero c)
  | succ n ih =>
    intro c hcn
    have hn : ds8Best num den n ≤ n := by
      rcases Nat.eq_zero_or_pos n with rfl | h
      · rw [ds8Best_zero]
      · exact (ds8Best_lt num den n h).le
    rw [ds8Best_succ]
    generalize ds8Best num den n = r at *
    simp only [ds8Better, Ds8Before] at *
    rcases Nat.lt_succ_iff_lt_or_eq.1 hcn with h' | rfl
    · have := ih c h'
      split_ifs <;> omega
    · split_ifs <;> omega

/-- The distances that the fold compares are those from the value, in units of 2^−7 / den. -/
theorem ds8Dist_eq (num : Int) {den : Nat} (hd : den ≠ 0) (c : Nat) :
    (ds8Dist num den c : ℚ) = |(ds8Val c).q - num / den * (2 : ℚ) ^ (-7 : Int)| * (den * 2 ^ 7) := by
  have hd' : (0 : ℚ) < den := by exact_mod_cast Nat.pos_of_ne_zero hd
  rw [q_ds8Val, ds8Dist, Nat.cast_natAbs, Int.cast_abs, ← abs_of_pos (show (0 : ℚ) < den * 2 ^ 7 by positivity), ← abs_mul]
  congr 1
  push_cast
  rw [show (2 : ℚ) ^ (-7 : Int) = (2 ^ 7)⁻¹ by norm_num]
  field_simp

/-- A value in units of 2^−7 as the quotient that DS8 compares with. -/
theorem ds8_quotient (neg : Bool) (k : Nat) (e : Int) : ∃ (num : Int) (den : Nat), den ≠ 0
    ∧ (num : ℚ) / den * (2 : ℚ) ^ (-7 : Int) = (Val.fin neg k e).q
    ∧ ((Val.ofInt 2).lt (Val.fin neg k e).abs = false → toDs8 (.fin neg k e) = ⟨ds8Best num den 256, false, false⟩) := by
  have hz : (2 : ℚ) ^ e = 2 ^ (e + 7) * (2 : ℚ) ^ (-7 : Int) := by rw [← zpow_add₀ (by norm_num), add_neg_cancel_right]
  have hq (x : Int) (den : Nat) (h : (x : ℚ) / den = k * (2 : ℚ) ^ (e + 7)) :
      ((if neg then -x else x : Int) : ℚ) / den * (2 : ℚ) ^ (-7 : Int) = (Val.fin neg k e).q := by
    rw [Val.q_fin_signed, hz, ← mul_assoc, ← h]
    cases neg <;> simp [signed, neg_div]
  refine ⟨if neg then -(if 0 ≤ e + 7 then ((k <<< (e + 7).toNat : Nat) : Int) else k) else if 0 ≤ e + 7 then ((k <<< (e + 7).toNat : Nat) : Int) else k,
    if 0 ≤ e + 7 then 1 else 1 <<< (-(e + 7)).toNat, ?_, ?_, fun h => ?_⟩
  · split <;> simp [Nat.shiftLeft_eq]
  · apply hq
    by_cases h : 0 ≤ e + 7
    · rw [if_pos h, if_pos h, units_eq_shl h, Int.cast_natCast]
    · rw [if_neg h, if_neg h, units_eq_div h, Int.cast_natCast]
  · have h' : ¬ (Val.fin false 2 0).lt (.fin false k e) = true := Bool.eq_false_iff.1 h
    simp only [toDs8, if_neg h', ds8Best]

/-- R24: DS8 takes a nearest value, of two the smaller, and of two codes of it the lower. -/
theorem toDs8_nearest (neg : Bool) (k : Nat) (e : Int) (h : (Val.ofInt 2).lt (Val.fin neg k e).abs = false) :
    let x := Val.fin neg k e
    let r := toDs8 x
    let off (a x : Val) : Val := (a.sub x).abs
    r.code < 256 ∧ r.satur = false ∧ r.unenc = false
      ∧ ∀ c, c < 256 → (off (ds8Val c) x).lt (off (ds8Val r.code) x) = false
        ∧ ((off (ds8Val c) x).eqv (off (ds8Val r.code) x) = true → (ds8Val c).abs.lt (ds8Val r.code).abs = false
          ∧ ((ds8Val c).eqv (ds8Val r.code) = true → r.code ≤ c)) := by
  intro x r off
  obtain ⟨num, den, hd, hx, hr⟩ := ds8_quotient neg k e
  have hr : r = ⟨ds8Best num den 256, false, false⟩ := hr h
  have hcode : r.code = ds8Best num den 256 := congrArg Ds8Result.code hr
  refine ⟨hcode ▸ ds8Best_lt num den 256 (by norm_num), congrArg Ds8Result.satur hr, congrArg Ds8Result.unenc hr, fun c hc => ?_⟩
  have hbest : Ds8Before num den r.code c := hcode ▸ ds8Best_before num den 256 c hc
  have hd' : (0 : ℚ) < den := by exact_mod_cast Nat.pos_of_ne_zero hd
  have hfin (a : Nat) : (off (ds8Val a) x).isFin = true := by rw [Val.isFin_abs]; exact Val.isFin_sub rfl rfl
  have hoff (a : Nat) : (ds8Dist num den a : ℚ) = (off (ds8Val a) x).q * (den * 2 ^ 7) := by
    rw [ds8Dist_eq num hd, Val.q_abs, Val.q_sub rfl rfl, hx]
  have hle (a b : Nat) : (off (ds8Val a) x).q ≤ (off (ds8Val b) x).q ↔ ds8Dist num den a ≤ ds8Dist num den b := by
    rw [← Nat.cast_le (α := ℚ), hoff, hoff, mul_le_mul_iff_left₀ (by positivity)]
  have habs (a : Nat) : (ds8Val a).abs.q = (ds8Units a).natAbs * (2 : ℚ) ^ (-7 : Int) := by
    rw [Val.q_abs, q_ds8Val, abs_mul, abs_of_pos (show (0 : ℚ) < 2 ^ (-7 : Int) by positivity), Nat.cast_natAbs, Int.cast_abs]
  rw [Val.lt_eq_false_iff (hfin _) (hfin _), Val.eqv_iff (hfin _) (hfin _), Val.lt_eq_false_iff rfl rfl, Val.eqv_iff rfl rfl, le_antisymm_iff, hle, hle,
    habs, habs, mul_le_mul_iff_left₀ (by positivity), Nat.cast_le, q_ds8Val, q_ds8Val, mul_left_inj' (by positivity), Int.cast_inj]
  unfold Ds8Before at hbest
  refine ⟨by omega, fun hh => ⟨by omega, fun hu => ?_⟩⟩
  have : (ds8Units c).natAbs = (ds8Units r.code).natAbs := by rw [hu]
  omega

end Sys2Proof.Machine

/-! ## PF16 and integers (R25, R27, R29) -/

namespace Sys2Proof.Machine

/-- RNE of a magnitude gives a nearest integer, the even one of two. -/
theorem rne_nearest_int {w : ℚ} {n : Nat} (h0 : (n : ℚ) ≤ w) (h1 : w < n + 1) (j : Int) :
    let k := RMode.rne.chosen n (w - n)
    |(k : ℚ) - w| ≤ |(j : ℚ) - w| ∧ (|(j : ℚ) - w| = |(k : ℚ) - w| → (j : ℚ) = k ∨ k % 2 = 0) := by
  intro k
  have hk : k = RMode.rne.chosen n (w - n) := rfl
  have hj : (j : ℚ) ≤ n ∨ (n : ℚ) + 1 ≤ j := by
    rcases le_or_gt j n with h | h
    · exact .inl (by exact_mod_cast h)
    · exact .inr (by exact_mod_cast h)
  rcases RMode.chosen_rne_bounds n (t := w - n) with ⟨e, hw, he⟩ | ⟨e, hw, he⟩
  · rw [hk, e, abs_sub_comm, abs_of_nonneg (by linarith)]
    rcases hj with hj | hj
    · rw [abs_of_nonpos (by linarith)]
      exact ⟨by linarith, fun h => .inl (by linarith)⟩
    · rw [abs_of_nonneg (by linarith)]
      exact ⟨by linarith, fun h => .inr (he (by linarith))⟩
  · rw [hk, e]
    push_cast
    rw [abs_of_nonneg (by linarith)]
    rcases hj with hj | hj
    · rw [abs_of_nonpos (by linarith)]
      exact ⟨by linarith, fun h => .inr (he (by linarith))⟩
    · rw [abs_of_nonneg (by linarith)]
      exact ⟨by linarith, fun h => .inl (by linarith)⟩

/-! ### PF16 -/

/-- PF16 of a quotient below 1 chooses among the 32,768ths. -/
theorem pf16_of_lt (num den : Nat) (hd : den ≠ 0) (h : (num : ℚ) / den < 1) : ∃ n : Nat, (n : ℚ) ≤ 32768 * (num / den)
    ∧ 32768 * ((num : ℚ) / den) < n + 1 ∧ pf16 num den = RMode.rne.chosen n (32768 * (num / den) - n) := by
  have hd' : (0 : ℚ) < den := by exact_mod_cast Nat.pos_of_ne_zero hd
  have hlt : ¬ ((den : Int) ≤ num) := by
    rw [div_lt_one hd'] at h
    exact_mod_cast not_le.2 h
  have hw : ((32768 * num : Nat) : ℚ) / den / 2 ^ (0 : Int) = 32768 * (num / den) := by push_cast; ring
  have hb := cut_n_bounds (32768 * num) den 0 hd
  have hc := choose_cut .rne (32768 * num) den 0 hd
  rw [hw] at hb hc
  refine ⟨_, hb.1, hb.2, ?_⟩
  by_cases h0 : num = 0
  · subst h0
    have hn : (cut (32768 * 0) den 0).n = 0 := by simp [cut]
    rw [hn]
    simp [pf16]
  · rw [← hc]
    simp only [pf16, if_neg hlt, Int.toNat_natCast]
    rw [if_neg (by omega)]

/-- PF16 of a quotient from 1 on is 1. -/
theorem pf16_of_le (num den : Nat) (hd : den ≠ 0) (h : 1 ≤ (num : ℚ) / den) : pf16 num den = 0x8000 := by
  have hd' : (0 : ℚ) < den := by exact_mod_cast Nat.pos_of_ne_zero hd
  rw [le_div_iff₀ hd', one_mul] at h
  have hle : den ≤ num := by exact_mod_cast h
  rw [pf16, if_neg (by omega), if_pos (by exact_mod_cast hle)]

/-- PF16 of a magnitude is PF16 of its quotient. -/
theorem pf16Val_quotient (k : Nat) (e : Int) : ∃ num den : Nat, den ≠ 0 ∧ (num : ℚ) / den = k * (2 : ℚ) ^ e
    ∧ pf16Val (.fin false k e) = pf16 num den := by
  by_cases h : 0 ≤ e
  · exact ⟨k <<< e.toNat, 1, by norm_num, (units_eq_shl h).symm, by simp [pf16Val, h]⟩
  · exact ⟨k, 1 <<< (-e).toNat, by simp [Nat.shiftLeft_eq], (units_eq_div h).symm, by simp [pf16Val, h]⟩

/-- R27: PF16 takes the nearest of the 32,769 codes, ties to even. -/
theorem pf16Val_nearest (k : Nat) (e : Int) :
    let off (a x : Val) : Val := (a.sub x).abs
    let x := Val.fin false k e
    let n := pf16Val x
    let at_ (j : Nat) := off (.fin false j (-15)) x
    (x.lt (.ofInt 1) = false → n = 0x8000)
    ∧ (x.lt (.ofInt 1) = true → n ≤ 0x8000 ∧ ∀ j, j ≤ 0x8000 → (at_ j).lt (at_ n) = false ∧ ((at_ j).eqv (at_ n) = true → j = n ∨ n % 2 = 0)) := by
  intro off x n at_
  obtain ⟨num, den, hd, hq, hn⟩ := pf16Val_quotient k e
  have hx : x.q = k * (2 : ℚ) ^ e := Val.q_fin_false ..
  refine ⟨fun h => ?_, fun h => ?_⟩
  · rw [Val.lt_eq_false_iff rfl rfl, Val.q_ofInt, hx, ← hq] at h
    exact hn.trans (pf16_of_le _ _ hd (by exact_mod_cast h))
  · rw [Val.lt_iff rfl rfl, Val.q_ofInt, hx, ← hq] at h
    obtain ⟨m, h0, h1, he⟩ := pf16_of_lt num den hd (by exact_mod_cast h)
    have hn : n = RMode.rne.chosen m (32768 * (num / den) - m) := hn.trans he
    refine ⟨?_, fun j _ => ?_⟩
    · have hm : (m : ℚ) < 32768 := by push_cast at h; linarith
      have hm : m < 32768 := by exact_mod_cast hm
      rcases RMode.chosen_cases .rne m (32768 * ((num : ℚ) / den) - m) with h | h <;> rw [hn, h] <;> omega
    · have hnear := rne_nearest_int h0 h1 (j : Int)
      rw [← hn, Int.cast_natCast] at hnear
      have hfin (a : Nat) : (at_ a).isFin = true := by rw [Val.isFin_abs]; exact Val.isFin_sub rfl rfl
      have hat (a : Nat) : (at_ a).q = |(a : ℚ) - 32768 * (num / den)| / 32768 := by
        rw [Val.q_abs, Val.q_sub rfl rfl, Val.q_fin_false, hx, ← hq, show (2 : ℚ) ^ (-15 : Int) = 1 / 32768 by norm_num,
          ← abs_of_pos (show (0 : ℚ) < 32768 by norm_num), ← abs_div, abs_of_pos (show (0 : ℚ) < 32768 by norm_num)]
        congr 1
        ring
      rw [Val.lt_eq_false_iff (hfin _) (hfin _), Val.eqv_iff (hfin _) (hfin _), hat, hat, div_left_inj' (by norm_num)]
      exact ⟨div_le_div_of_nonneg_right hnear.1 (by norm_num), fun h => (hnear.2 h).imp_left fun h => by exact_mod_cast h⟩

/-! ### Integers -/

/-- RNI or RZI of a magnitude chooses by its whole part. -/
theorem intMag_eq (rz : Bool) (k : Nat) (e : Int) : ∃ n : Nat, (n : ℚ) ≤ k * 2 ^ e ∧ k * 2 ^ e < (n + 1 : ℚ)
    ∧ intMag rz k e = (if rz then RMode.rz else RMode.rne).chosen n (k * 2 ^ e - n) := by
  by_cases h : 0 ≤ e
  · have hq : (k : ℚ) * 2 ^ e = (k <<< e.toNat : Nat) := by rw [units_eq_shl h, Nat.cast_one, div_one]
    refine ⟨k <<< e.toNat, hq.ge, by rw [hq]; exact lt_add_one _, ?_⟩
    rw [hq, sub_self, RMode.chosen_zero, intMag, if_pos h]
  · have hd : 1 <<< (-e).toNat ≠ 0 := by simp [Nat.shiftLeft_eq]
    have hb := cut_n_bounds k _ 0 hd
    have hc := choose_cut (if rz then RMode.rz else RMode.rne) k _ 0 hd
    rw [zpow_zero, div_one, ← units_eq_div h] at hb hc
    exact ⟨_, hb.1, hb.2, by rw [← hc, intMag, if_neg h]⟩

/-- An integer magnitude with its sign. -/
theorem cast_signed (neg : Bool) (m : Nat) : ((if neg then -(m : Int) else m : Int) : ℚ) = signed neg m := by
  cases neg <;> simp [signed]

/-- R29: RNI is the nearest integer, ties to even. -/
theorem intMag_rne_nearest (neg : Bool) (k : Nat) (e : Int) :
    let x := Val.fin neg k e
    let n : Int := if neg then -(intMag false k e : Int) else intMag false k e
    let off (a x : Val) : Val := (a.sub x).abs
    ∀ j : Int, (off (.ofInt j) x).lt (off (.ofInt n) x) = false ∧ ((off (.ofInt j) x).eqv (off (.ofInt n) x) = true → j = n ∨ n % 2 = 0) := by
  intro x n off j
  obtain ⟨m, h0, h1, he⟩ := intMag_eq false k e
  rw [if_neg Bool.false_ne_true] at he
  have hv : (0 : ℚ) ≤ k * 2 ^ e := by positivity
  have near (i : Int) := rne_nearest_int h0 h1 i
  rw [← he] at near
  have hzero := (near 0).1
  rw [Int.cast_zero, zero_sub, abs_neg, abs_of_nonneg hv] at hzero
  have hj := near |j|
  rw [Int.cast_abs] at hj
  have key := signed_nearest (neg := neg) hv (Nat.cast_nonneg _) hzero hj
  have hn : (n : ℚ) = signed neg (intMag false k e) := cast_signed ..
  have hfin (i : Int) : (off (.ofInt i) x).isFin = true := by rw [Val.isFin_abs]; exact Val.isFin_sub rfl rfl
  have hoff (i : Int) : (off (.ofInt i) x).q = |(i : ℚ) - signed neg (k * 2 ^ e)| := by
    rw [Val.q_abs, Val.q_sub rfl rfl, Val.q_ofInt, Val.q_fin_signed]
  rw [Val.lt_eq_false_iff (hfin _) (hfin _), Val.eqv_iff (hfin _) (hfin _), hoff, hoff, hn]
  refine ⟨key.1, fun h => (key.2 h).imp (fun h => ?_) fun h => ?_⟩
  · rw [← hn] at h; exact_mod_cast h
  · simp only [n]
    split <;> omega

/-- R29: RZI is the integer part, with the sign of the value. -/
theorem intMag_rz_floor (neg : Bool) (k : Nat) (e : Int) :
    let x := Val.fin neg k e
    let n : Int := if neg then -(intMag true k e : Int) else intMag true k e
    (n ≠ 0 → decide (n < 0) = neg) ∧ x.abs.lt (Val.ofInt n).abs = false
      ∧ ∀ j : Int, x.abs.lt (Val.ofInt j).abs = true ∨ (Val.ofInt n).abs.lt (Val.ofInt j).abs = false := by
  intro x n
  obtain ⟨m, h0, h1, he⟩ := intMag_eq true k e
  rw [if_pos rfl, RMode.chosen] at he
  have hx : x.abs.q = k * (2 : ℚ) ^ e := by rw [Val.q_abs]; exact abs_q_fin ..
  have hn : (Val.ofInt n).abs.q = m := by
    rw [Val.q_abs, Val.q_ofInt, cast_signed, abs_signed, he, Nat.abs_cast]
  refine ⟨?_, ?_, fun j => ?_⟩
  · simp only [n]
    cases neg
    · simp
    · simp; omega
  · rw [Val.lt_eq_false_iff rfl rfl, hx, hn]; exact h0
  · rw [Val.lt_iff rfl rfl, Val.lt_eq_false_iff rfl rfl, hx, hn, Val.q_abs, Val.q_ofInt]
    rcases le_or_gt |j| m with h | h
    · exact .inr (by exact_mod_cast h)
    · exact .inl (h1.trans_le (by exact_mod_cast h))

/-- R25: an integer saturates at the ends of its format. -/
theorem satI_eq (w : Nat) (signed_ : Bool) :
    let lo : Int := if signed_ then -(2 ^ (w - 1) : Nat) else 0
    let hi : Int := if signed_ then (2 ^ (w - 1) : Nat) - 1 else (2 ^ w : Nat) - 1
    ∀ n, satI w signed_ n = ⟨(Max.max lo (Min.min hi n) % (2 ^ w : Nat)).toNat, decide (n < lo) || decide (hi < n)⟩ := by
  intro lo hi n
  have hlo : (intRange w signed_).1 = lo := by cases signed_ <;> rfl
  have hhi : (intRange w signed_).2 = hi := by cases signed_ <;> rfl
  have hle : lo ≤ hi := by
    have h1 := Nat.pow_pos (n := w) (a := 2) (by norm_num)
    have h2 := Nat.pow_pos (n := w - 1) (a := 2) (by norm_num)
    simp only [lo, hi]
    split <;> omega
  rw [satI, hlo, hhi]
  simp only [clampI, wrapI]
  split_ifs with h1 h2
  · rw [show Max.max lo (Min.min hi n) = lo by omega]; simp [h1]
  · rw [show Max.max lo (Min.min hi n) = hi by omega]; simp [h2]
  · rw [show Max.max lo (Min.min hi n) = n by omega]; simp [h1, h2]

end Sys2Proof.Machine

/-! ## Conversions, block scales and the search (R29, R36, R57, Table 11-2): O15 -/

namespace Sys2Proof.Machine

open Encoding (fmtWidth)

/-! ### The rows of Table 11-2 -/

/-- R27: a code above 0x8000 reads as 1.0 and is reported. -/
theorem pfRead_of_lt {c : Nat} (h : c < 65536) : pfRead c = (Min.min c 0x8000, decide (0x8000 < c)) := by
  simp only [pfRead, Nat.mod_eq_of_lt h]
  split_ifs with h'
  · simp [h', Nat.min_eq_right h'.le]
  · simp [h', Nat.min_eq_left (not_lt.1 h')]

/-- The exact value that a row of the table converts, and whether reading it sets PFRNG. -/
theorem convert_eq (fs fd c : Nat) (m : RMode) (hc : c < 2 ^ fmtWidth fs) :
    let x : Val := if fs < 6 then .ofInt (intOf (fmtWidth fs) (fs % 2 == 0) c) else if fs = 12 then .fin false (Min.min c 0x8000) (-15) else elemVal fs c
    let pfrng := fs == 12 && decide (0x8000 < c)
    convert fs fd m c = if fd = 8 then ⟨(toDs8 x).code, (toDs8 x).satur, (toDs8 x).unenc, pfrng⟩
      else if fd = 12 then ⟨pf16Val x, x.isNaN, false, pfrng⟩
      else if fd < 6 then
        let r := if fs < 6 then satI (fmtWidth fd) (fd % 2 == 0) (intOf (fmtWidth fs) (fs % 2 == 0) c) else toInt (fmtWidth fd) (fd % 2 == 0) (m == .rz) x
        ⟨r.code, r.satur, false, pfrng⟩
      else ⟨(round (fmtOf fd) m x).code, (round (fmtOf fd) m x).satur, false, pfrng⟩ := by
  by_cases h : fs = 12
  · subst h
    simp only [convert, pfRead_of_lt hc]
    rfl
  · have hb : ∀ b, (fs == 12 && b) = false := by simp [h]
    simp only [convert, hb, if_neg h]
    rfl

/-! ### The shared scale of a block (R36) -/

/-- Some finite element of the block rounds beyond the largest value at scale exponent `y`. -/
def Spills (f : FFmt) (v : List Val) (y : Int) : Prop := ∃ a ∈ v, a.isFin = true ∧ (round f .rne (a.scale (-y))).satur = true

/-- In the two narrow formats RNE saturates exactly where what it chooses lies beyond. -/
theorem roundMag_satur {f : FFmt} (hf : f = .e4m3 ∨ f = .e5m2) (neg : Bool) (num den : Nat) : (roundMag f .rne neg num den).satur
    = beyond f (RMode.rne.choose (cut num den (ulpOf f num den)) num den (ulpOf f num den)) (ulpOf f num den) := by
  simp only [roundMag]
  split
  · next h => rcases hf with rfl | rfl <;> exact h.symm
  · next h => exact (Bool.eq_false_iff.2 h).symm

/-- The test of the retries is that of the rounding. -/
theorem round_fin_satur {f : FFmt} (hf : f = .e4m3 ∨ f = .e5m2) (s : Bool) (m : Nat) (e : Int) : (round f .rne (.fin s m e)).satur
    = (m != 0 && (
        let num := if 0 ≤ e then m <<< e.toNat else m
        let den := if 0 ≤ e then 1 else 1 <<< (-e).toNat
        let u := ulpOf f num den
        beyond f (RMode.rne.choose (cut num den u) num den u) u)) := by
  cases m with
  | zero => rfl
  | succ k =>
    by_cases h : 0 ≤ e <;> simp [round, h, roundMag_satur hf]

/-- One retry: the block is halved where something spills. -/
theorem bcvtScale_succ {f : FFmt} (hf : f = .e4m3 ∨ f = .e5m2) (v : List Val) (n : Nat) (x : Int) : bcvtScale f v (n + 1) x
    = if (!v.any fun a => a.isFin && (round f .rne (a.scale (-x))).satur) || x = 127 then x else bcvtScale f v n (x + 1) := by
  have h : (fun a : Val => a.isFin && (round f .rne (a.scale (-x))).satur) = fun a => match a.scale (-x) with
      | .fin _ m e => m != 0 && (
          let num := if 0 ≤ e then m <<< e.toNat else m
          let den := if 0 ≤ e then 1 else 1 <<< (-e).toNat
          let u := ulpOf f num den
          beyond f (RMode.rne.choose (cut num den u) num den u) u)
      | _ => false := by
    funext a
    cases a with
    | fin s m e => simp only [Val.scale, Val.isFin, round_fin_satur hf, Bool.true_and]
    | _ => rfl
  rw [h]
  rfl

theorem spills_iff (f : FFmt) (v : List Val) (x : Int) :
    (v.any fun a => a.isFin && (round f .rne (a.scale (-x))).satur) = true ↔ Spills f v x := by
  simp [Spills]

/-- The block's retries end at the first exponent where nothing spills, three on or at 127. -/
theorem bcvtScale_spec {f : FFmt} (hf : f = .e4m3 ∨ f = .e5m2) (v : List Val) (n : Nat) : ∀ x : Int, x ≤ 127 →
    x ≤ bcvtScale f v n x ∧ bcvtScale f v n x ≤ x + n ∧ bcvtScale f v n x ≤ 127 ∧ (∀ y, x ≤ y → y < bcvtScale f v n x → Spills f v y)
      ∧ (¬ Spills f v (bcvtScale f v n x) ∨ bcvtScale f v n x = x + n ∨ bcvtScale f v n x = 127) := by
  induction n with
  | zero => exact fun x hx => ⟨le_rfl, by simp [bcvtScale], hx, fun y h1 h2 => by simp only [bcvtScale] at h2; omega, .inr (.inl (by simp [bcvtScale]))⟩
  | succ n ih =>
    intro x hx
    rw [bcvtScale_succ hf]
    by_cases hs : Spills f v x
    · rw [(spills_iff f v x).2 hs]
      by_cases h127 : x = 127
      · subst h127
        rw [if_pos (by simp)]
        exact ⟨le_rfl, by omega, le_rfl, fun y h1 h2 => absurd h2 (not_lt.2 h1), .inr (.inr rfl)⟩
      · rw [if_neg (by simpa using h127)]
        obtain ⟨h1, h2, h3, h4, h5⟩ := ih (x + 1) (by omega)
        refine ⟨by omega, by push_cast; omega, h3, fun y hy hy' => ?_, h5.imp_right (Or.imp_left fun h => by rw [h]; push_cast; omega)⟩
        rcases eq_or_lt_of_le hy with rfl | hy
        · exact hs
        · exact h4 y (by omega) hy'
    · rw [Bool.eq_false_iff.2 (mt (spills_iff f v x).1 hs)]
      exact ⟨le_rfl, by simp; omega, hx, fun y h1 h2 => absurd h2 (not_lt.2 h1), .inl hs⟩

/-- The largest magnitude of the finite elements of a block. -/
def blockMax (v : List Val) : Val := v.foldl (fun a x => if x.isFin && a.lt x.abs then x.abs else a) Val.zero

/-- The fold finds a finite magnitude that none of the block exceeds: that of an element, or the one it begins with. -/
theorem foldl_max_spec (v : List Val) : ∀ A : Val, A.isFin = true → ∃ B : Val,
    v.foldl (fun a x => if x.isFin && a.lt x.abs then x.abs else a) A = B ∧ B.isFin = true ∧ A.q ≤ B.q ∧ (∀ a ∈ v, a.isFin = true → |a.q| ≤ B.q)
      ∧ (B = A ∨ ∃ a ∈ v, a.isFin = true ∧ B = a.abs) := by
  induction v with
  | nil => exact fun A hA => ⟨A, rfl, hA, le_rfl, by simp, .inl rfl⟩
  | cons x v ih =>
    intro A hA
    rw [List.foldl_cons]
    split
    · next h =>
      obtain ⟨hx, hlt⟩ := Bool.and_eq_true_iff.1 h
      have hxa : x.abs.isFin = true := by rwa [Val.isFin_abs]
      rw [Val.lt_iff hA hxa, Val.q_abs] at hlt
      obtain ⟨B, hB, hBf, hle, hmax, hmem⟩ := ih x.abs hxa
      rw [Val.q_abs] at hle
      refine ⟨B, hB, hBf, hlt.le.trans hle, ?_, ?_⟩
      · simp only [List.mem_cons, forall_eq_or_imp]
        exact ⟨fun _ => hle, hmax⟩
      · rcases hmem with rfl | ⟨a, ha, haf⟩
        · exact .inr ⟨x, List.mem_cons_self, hx, rfl⟩
        · exact .inr ⟨a, List.mem_cons_of_mem _ ha, haf⟩
    · next h =>
      obtain ⟨B, hB, hBf, hle, hmax, hmem⟩ := ih A hA
      refine ⟨B, hB, hBf, hle, ?_, ?_⟩
      · simp only [List.mem_cons, forall_eq_or_imp]
        refine ⟨fun hx => ?_, hmax⟩
        have hxa : x.abs.isFin = true := by rwa [Val.isFin_abs]
        have hlt : A.lt x.abs = false := by simpa [hx] using h
        rw [Val.lt_eq_false_iff hA hxa, Val.q_abs] at hlt
        exact hlt.trans hle
      · exact hmem.imp_right fun ⟨a, ha, haf⟩ => ⟨a, List.mem_cons_of_mem _ ha, haf⟩

/-- The exponent that a block's largest magnitude gives. -/
def blockExp (f : FFmt) (v : List Val) : Int := match blockMax v with
  | .fin _ (m + 1) e => max (-127) (min 127 (e + Nat.log2 (m + 1) - (if f = .e4m3 then 8 else 15)))
  | _ => 0

theorem bcvt_eq (f : FFmt) (v : List Val) : let x := bcvtScale f v 3 (blockExp f v)
    bcvt f v = (v.map fun a => (round f .rne (a.scale (-x))).code, (x + 127).toNat, v.any fun a => (round f .rne (a.scale (-x))).satur) := by
  simp only [bcvt, List.map_map, List.any_map]
  rfl

/-- A block without a finite element other than zero has exponent 0. -/
theorem blockExp_zero (f : FFmt) {v : List Val} (h : ∀ a ∈ v, a.isFin = true → a.isZero = true) : blockExp f v = 0 := by
  obtain ⟨B, hB, hBf, -, -, hmem⟩ := foldl_max_spec v Val.zero rfl
  have hz : B.isZero = true := by
    rcases hmem with rfl | ⟨a, ha, haf, rfl⟩
    · rfl
    · have := h a ha haf
      cases a <;> simp_all [Val.isZero, Val.abs]
  have hB : blockMax v = B := hB
  rw [blockExp, hB]
  cases B with
  | fin s m e =>
    have hm : m = 0 := by simpa [Val.isZero] using hz
    rw [hm]
  | _ => rfl

/-- The exponent is that of the largest magnitude's power of two, within the range of the scale codes. -/
theorem blockExp_of_max (f : FFmt) {v : List Val} {a : Val} {l : Int} (ha : a ∈ v) (haf : a.isFin = true)
    (hmax : ∀ b ∈ v, b.isFin = true → a.abs.lt b.abs = false) (hl : a.abs.lt (.fin false 1 l) = false) (hl' : a.abs.lt (.fin false 1 (l + 1)) = true) :
    blockExp f v = Max.max (-127) (Min.min 127 (l - (if f = .e4m3 then 8 else 15))) := by
  obtain ⟨B, hB, hBf, h0, hall, hmem⟩ := foldl_max_spec v Val.zero rfl
  have haa : a.abs.isFin = true := by rwa [Val.isFin_abs]
  rw [Val.lt_eq_false_iff haa rfl, Val.q_fin_false, Val.q_abs, Nat.cast_one, one_mul] at hl
  rw [Val.lt_iff haa rfl, Val.q_fin_false, Val.q_abs, Nat.cast_one, one_mul] at hl'
  have hz : Val.zero.q = 0 := by simp [Val.zero, Val.q_fin]
  have hq : B.q = |a.q| := by
    refine le_antisymm ?_ (hall a ha haf)
    rcases hmem with rfl | ⟨b, hb, hbf, rfl⟩
    · rw [hz]; exact abs_nonneg _
    · have := hmax b hb hbf
      rwa [Val.lt_eq_false_iff haa (by rwa [Val.isFin_abs]), Val.q_abs a] at this
  have hB : blockMax v = B := hB
  rw [← hq] at hl hl'
  obtain ⟨s, m, e, rfl⟩ := Val.isFin_iff.1 hBf
  have hpos : (0 : ℚ) < (Val.fin s m e).q := lt_of_lt_of_le (by positivity) hl
  have hq' : (Val.fin s m e).q = m * (2 : ℚ) ^ e := by
    rw [← abs_of_pos hpos, abs_q_fin]
  rw [hq'] at hl hl' hpos
  cases m with
  | zero => simp at hpos
  | succ m =>
    have h1 : (2 : ℚ) ^ (Nat.log2 (m + 1) : Int) ≤ (m + 1 : Nat) := by exact_mod_cast Nat.log2_self_le (Nat.succ_ne_zero m)
    have h2 : ((m + 1 : Nat) : ℚ) < 2 ^ ((Nat.log2 (m + 1) : Int) + 1) := by exact_mod_cast Nat.lt_log2_self (n := m + 1)
    have h3 : (2 : ℚ) ^ ((Nat.log2 (m + 1) : Int) + e) < 2 ^ (l + 1) := by
      rw [zpow_add₀ (by norm_num)]
      exact (mul_le_mul_of_nonneg_right h1 (by positivity)).trans_lt hl'
    have h4 : (2 : ℚ) ^ l < 2 ^ ((Nat.log2 (m + 1) : Int) + 1 + e) := by
      rw [zpow_add₀ (by norm_num) _ e]
      exact hl.trans_lt (mul_lt_mul_of_pos_right h2 (by positivity))
    have h3 := (zpow_lt_zpow_iff_right₀ (by norm_num)).1 h3
    have h4 := (zpow_lt_zpow_iff_right₀ (by norm_num)).1 h4
    have hl : l = e + Nat.log2 (m + 1) := by omega
    rw [blockExp, hB, hl]

/-! ### The search (R57) -/

/-- The distance of a group from the codeword of an index. -/
def distTo (qs : List (List Val)) (v : List Val) (c : Nat) : Val := dist v (qs.getD c [])

/-- The running best after the first `n` codewords. -/
def searched (qs : List (List Val)) (v : List Val) (n : Nat) : Nat × Nat × Val := (qs.take n).foldl (searchStep v) (0, 0, .nan)

theorem searched_succ {qs : List (List Val)} (v : List Val) {n : Nat} (h : n < qs.length) (hn : (searched qs v n).1 = n) :
    searched qs v (n + 1) = (n + 1, if !(distTo qs v n).isNaN && ((searched qs v n).2.2.isNaN || (distTo qs v n).lt (searched qs v n).2.2) then (n, distTo qs v n)
      else (searched qs v n).2) := by
  have hs : searched qs v (n + 1) = searchStep v (searched qs v n) (qs.getD n []) := by
    rw [searched, ← List.take_append_getElem h, List.foldl_append, List.getD_eq_getElem _ _ h]
    rfl
  rw [hs, searchStep, hn]
  exact (apply_ite (Prod.mk (n + 1)) _ _ _).symm

theorem searched_fst (qs : List (List Val)) (v : List Val) (n : Nat) (h : n ≤ qs.length) : (searched qs v n).1 = n := by
  induction n with
  | zero => rfl
  | succ n ih => rw [searched_succ v h (ih (by omega))]

/-- While no distance is a number, no codeword is best. -/
theorem searched_nan {qs : List (List Val)} {v : List Val} (hd : ∀ c, c < qs.length → (distTo qs v c).isNaN = true) (n : Nat) (h : n ≤ qs.length) :
    (searched qs v n).2 = (0, .nan) := by
  induction n with
  | zero => rfl
  | succ n ih =>
    rw [searched_succ v h (searched_fst qs v n (by omega)), hd n h, ih (by omega)]
    rfl

/-- Before the first codeword of least distance the best is none or a farther one; from there on it is that codeword. -/
theorem searched_least {qs : List (List Val)} {v : List Val} {c : Nat} (hd : (distTo qs v c).isNaN = false)
    (hmin : ∀ j, j < qs.length → (distTo qs v j).isNaN = false →
      (distTo qs v j).lt (distTo qs v c) = false ∧ (j < c → (distTo qs v c).lt (distTo qs v j) = true)) (n : Nat) (h : n ≤ qs.length) :
    (n ≤ c → (searched qs v n).2.2.isNaN = true ∨ (distTo qs v c).lt (searched qs v n).2.2 = true)
      ∧ (c < n → (searched qs v n).2 = (c, distTo qs v c)) := by
  induction n with
  | zero => exact ⟨fun _ => .inl rfl, fun h => absurd h (Nat.not_lt_zero c)⟩
  | succ n ih =>
    obtain ⟨before, after⟩ := ih (by omega)
    rw [searched_succ v h (searched_fst qs v n (by omega))]
    refine ⟨fun hnc => ?_, fun hcn => ?_⟩
    · split
      · next hs =>
        have hj : (distTo qs v n).isNaN = false := by simpa using (Bool.and_eq_true_iff.1 hs).1
        exact .inr ((hmin n h hj).2 hnc)
      · exact before (by omega)
    · rcases Nat.lt_succ_iff_lt_or_eq.1 hcn with hcn | rfl
      · rw [after hcn, if_neg]
        cases hj : (distTo qs v n).isNaN with
        | true => simp
        | false => simp [hd, (hmin n h hj).1]
      · rw [if_pos]
        rw [hd]
        simpa using before le_rfl

theorem search_eq {qs : List (List Val)} {v : List Val} (hv : ∀ x ∈ v, x.isFin = true) :
    search qs v = ((searched qs v qs.length).2.1, (searched qs v qs.length).2.2.isNaN) := by
  have h : (v.any fun x => !x.isFin) = false := by simpa using hv
  rw [search, h, searched, List.take_length]
  rfl

/-- A distance with one element more. -/
theorem dist_append {v q : List Val} (x y : Val) (h : v.length = q.length) :
    let e := rv32 (x.sub y)
    dist (v ++ [x]) (q ++ [y]) = rv32 ((dist v q).add (rv32 (e.mul e))) := by
  simp [dist, List.zip_append h]

/-- An element of a rounded codeword. -/
theorem rounded_getD (b : Book) {c i : Nat} (hc : c < 2 ^ b.w) (hi : i < b.d) : (b.rounded.getD c []).getD i .nan = rv32 (b.qx c i) := by
  simp [Book.rounded, Book.k, hc, hi]

/-- R36: the scale of a block. -/
theorem bcvt_scale {f : FFmt} (hf : f = .e4m3 ∨ f = .e5m2) (v : List Val) (x0 : Int)
    (hx : (∀ a ∈ v, a.isFin = true → a.isZero = true) ∧ x0 = 0
      ∨ ∃ a ∈ v, ∃ l : Int, a.isFin = true ∧ (∀ b ∈ v, b.isFin = true → a.abs.lt b.abs = false) ∧ a.abs.lt (.fin false 1 l) = false ∧ a.abs.lt (.fin false 1 (l + 1)) = true
        ∧ x0 = Max.max (-127) (Min.min 127 (l - (if f = .e4m3 then 8 else 15)))) :
    ∃ x : Int, x0 ≤ x ∧ x ≤ x0 + 3 ∧ x ≤ 127 ∧ (∀ y, x0 ≤ y → y < x → Spills f v y) ∧ (¬ Spills f v x ∨ x = x0 + 3 ∨ x = 127)
      ∧ bcvt f v = (v.map fun a => (round f .rne (a.scale (-x))).code, (x + 127).toNat, v.any fun a => (round f .rne (a.scale (-x))).satur) := by
  have h0 : blockExp f v = x0 ∧ x0 ≤ 127 := by
    rcases hx with ⟨h, rfl⟩ | ⟨a, ha, l, haf, hmax, hl, hl', rfl⟩
    · exact ⟨blockExp_zero f h, by norm_num⟩
    · exact ⟨blockExp_of_max f ha haf hmax hl hl', by omega⟩
  obtain ⟨h1, h2, h3, h4, h5⟩ := bcvtScale_spec hf v 3 x0 h0.2
  exact ⟨_, h1, h2, h3, h4, h5, h0.1 ▸ bcvt_eq f v⟩

/-- R57: the search. -/
theorem search_spec (qs : List (List Val)) (v : List Val) :
    ((∃ x ∈ v, x.isFin = false) → search qs v = (0, true))
    ∧ ((∀ x ∈ v, x.isFin = true) → (∀ c, c < qs.length → (distTo qs v c).isNaN = true) → search qs v = (0, true))
    ∧ ∀ c, (∀ x ∈ v, x.isFin = true) → c < qs.length → (distTo qs v c).isNaN = false →
      (∀ j, j < qs.length → (distTo qs v j).isNaN = false → (distTo qs v j).lt (distTo qs v c) = false ∧ (j < c → (distTo qs v c).lt (distTo qs v j) = true)) →
      search qs v = (c, false) := by
  refine ⟨fun ⟨x, hx, hf⟩ => ?_, fun hv hd => ?_, fun c hv hc hd hmin => ?_⟩
  · rw [search, if_pos (List.any_eq_true.2 ⟨x, hx, by simp [hf]⟩)]
  · rw [search_eq hv, searched_nan hd _ le_rfl]; rfl
  · rw [search_eq hv, (searched_least hd hmin _ le_rfl).2 hc, hd]

/-- R25, R29: integers saturate, RNI is the nearest and RZI the integer part. -/
theorem toInt_spec (w : Nat) (sgn : Bool) :
    let off (a x : Val) : Val := (a.sub x).abs
    let lo : Int := if sgn then -(2 ^ (w - 1) : Nat) else 0
    let hi : Int := if sgn then (2 ^ (w - 1) : Nat) - 1 else (2 ^ w : Nat) - 1
    let clamped (n : Int) : Rounded := ⟨(Max.max lo (Min.min hi n) % (2 ^ w : Nat)).toNat, decide (n < lo) || decide (hi < n)⟩
    (∀ n, satI w sgn n = clamped n)
    ∧ (∀ rz, toInt w sgn rz .nan = ⟨0, true⟩ ∧ ∀ neg, toInt w sgn rz (.inf neg) = ⟨((if neg then lo else hi) % (2 ^ w : Nat)).toNat, true⟩)
    ∧ (∀ (neg : Bool) (k : Nat) (e : Int),
      let x := Val.fin neg k e
      (∃ n : Int, toInt w sgn false x = clamped n
        ∧ ∀ j : Int, (off (.ofInt j) x).lt (off (.ofInt n) x) = false ∧ ((off (.ofInt j) x).eqv (off (.ofInt n) x) = true → j = n ∨ n % 2 = 0))
      ∧ ∃ n : Int, toInt w sgn true x = clamped n ∧ (n ≠ 0 → decide (n < 0) = neg) ∧ x.abs.lt (Val.ofInt n).abs = false
        ∧ ∀ j : Int, x.abs.lt (Val.ofInt j).abs = true ∨ (Val.ofInt n).abs.lt (Val.ofInt j).abs = false) :=
  ⟨satI_eq w sgn, fun rz => ⟨rfl, fun neg => by cases sgn <;> rfl⟩, fun neg k e =>
    ⟨⟨_, satI_eq w sgn _, intMag_rne_nearest neg k e⟩, ⟨_, satI_eq w sgn _, intMag_rz_floor neg k e⟩⟩⟩

/-- Settles O15: each clause is the lemma of its conversion. -/
theorem conversions : Obligations.Conversions := by
  refine ⟨fun c _ => ds8Val_sum c, ⟨rfl, fun neg => rfl, fun neg k e => ⟨fun h => ?_, toDs8_nearest neg k e⟩⟩,
    ⟨rfl, rfl, rfl, fun k e => rfl, pf16Val_nearest⟩, fun w sgn _ => toInt_spec w sgn, fun fs fd c m _ hc => ?_,
    fun f v x0 hf hx => bcvt_scale hf v x0 hx, search_spec, rfl, fun v q x y h => dist_append x y h, fun b c i => rounded_getD b⟩
  · exact if_pos h
  · have hconv := convert_eq fs fd c m hc
    refine ⟨fun h => ?_, fun h => ?_, fun h => ?_, fun h hs => ?_, fun h hs => ?_⟩
    · have h8 : fd ≠ 8 ∧ fd ≠ 12 ∧ ¬ fd < 6 := by
        simp only [List.mem_cons, List.not_mem_nil, or_false] at h
        omega
      rw [hconv, if_neg h8.1, if_neg h8.2.1, if_neg h8.2.2]
    · rw [hconv, if_pos h]
    · rw [hconv, if_neg (by omega), if_pos h]
    · have h12 : (fs == 12) = false := by simp; omega
      rw [hconv, if_neg (by omega), if_neg (by omega), if_pos h]
      simp only [if_pos hs, h12, Bool.false_and]
    · rw [hconv, if_neg (show ¬ fd = 8 by omega), if_neg (show ¬ fd = 12 by omega), if_pos h]
      simp only [if_neg (show ¬ fs < 6 by omega)]

end Sys2Proof.Machine

/-! ## Vector floating point, conversions and probability (R222 to R234): O27, O29 -/

namespace Sys2Proof.Machine

open Encoding (fmtWidth xa xb vsub src imm16 cvtSrc)
open Sys2Proof.Laws (puts_of_issueFlights clashes_eq_nil issueOp_completes)

/-- An operation that only puts results in flight. -/
theorem puts_of_vissue {i : Instr} {o : VF} {s : State} {fs : List Flight} (he : exec i s = vissue o fs s) : Puts i s fs :=
  puts_of_issueFlights he rfl rfl

/-- An operation that puts results in flight and changes its context besides. -/
theorem putsWith_of_issueCtx {i : Instr} {s : State} {slot : Nat} {fs : List Flight} {f : Context → Context}
    (he : exec i s = issueCtx slot true [] (clashes s.ctx fs) (fun c => f (c.fly fs)) s) : PutsWith i s fs f := fun h => by
  rw [he, issueCtx, clashes_eq_nil.2 h]
  rfl

/-- An elementwise operation without immediate takes its operands from the registers. -/
theorem velem_register {o : VF} (hi : o.i = false) (l : Nat) (f : Nat → Nat → Nat → Nat) (s : State) :
    let w := fmtWidth o.fmt.toNat
    velem o l f s = vissue o (vresults o.vd.toNat w (512 / w) (ven o s)
      (fun sec e => f (velt s o.va w sec e) (velt s o.vb w sec e) (velt s o.vc w sec e)) l) s := by
  simp only [velem, hi, Bool.false_eq_true, if_false]

/-- A compare without immediate takes its operands from the registers. -/
theorem vcompare_register {o : VF} (hi : o.i = false) (l : Nat) (cond : Nat → Nat → Bool) (s : State) :
    let w := fmtWidth o.fmt.toNat
    vcompare o l cond s = vissue o (mresults (vd3 o) (512 / w) (ven o s) (fun sec e => cond (velt s o.va w sec e) (velt s o.vb w sec e)) l) s := by
  simp only [vcompare, hi, Bool.false_eq_true, if_false]

/-- R31: the min and max of two values by their cases. -/
theorem minmaxCode_eq (mx : Bool) (cn : Nat) (a b : Val) (x y : Nat) : minmaxCode mx cn a b x y
    = if a.isNaN then (if b.isNaN then cn else y) else if b.isNaN then x
      else if mx then (if a.below b then y else x) else if b.below a then y else x := by
  cases ha : a.isNaN <;> cases hb : b.isNaN <;> simp [minmaxCode, ha, hb]

/-- A format's elements are 8, 16 or 32 bits wide. -/
theorem fmtWidth_cases (c : Nat) : fmtWidth c = 8 ∨ fmtWidth c = 16 ∨ fmtWidth c = 32 := by
  unfold fmtWidth
  split_ifs <;> simp

/-- The elements that a change of width converts are those of the wider format. -/
theorem converted_count (c d : Nat) : 512 / max (fmtWidth c) (fmtWidth d) = Min.min (512 / fmtWidth c) (512 / fmtWidth d) := by
  rcases fmtWidth_cases c with h | h | h <;> rcases fmtWidth_cases d with h' | h' | h' <;> rw [h, h'] <;> rfl

/-- The element of a source that a widening reads lies in its part. -/
theorem convertedFrom (p : Prop) [Decidable p] (b e : Nat) : (if p then b + e else e) = (if p then b else 0) + e := by
  split <;> simp

/-! ### The meanings of the floating instructions -/

section
variable (o : VF) (s : State)

theorem exec_vfadd : exec (.vfadd o) s = execVfadd o s := rfl
theorem exec_vfsub : exec (.vfsub o) s = execVfsub o s := rfl
theorem exec_vfmul : exec (.vfmul o) s = execVfmul o s := rfl
theorem exec_vfma : exec (.vfma o) s = execVfma o s := rfl
theorem exec_vfmin : exec (.vfmin o) s = execVfmin o s := rfl
theorem exec_vfmax : exec (.vfmax o) s = execVfmax o s := rfl
theorem exec_vfcmp : exec (.vfcmp o) s = execVfcmp o s := rfl
theorem exec_vcvt : exec (.vcvt o) s = execVcvt o s := rfl
theorem exec_vbcvt : exec (.vbcvt o) s = execVbcvt o s := rfl

end

/-- A floating operation computes each element exactly and rounds once. -/
theorem puts_vfp {i : Instr} {o : VF} {s : State} (hi : o.i = false) (f : Val → Val → Val → Val) (he : exec i s = vfp o f s) :
    let c := o.fmt.toNat
    let w := fmtWidth c
    Puts i s (vresults o.vd.toNat w (512 / w) (ven o s) (fun sec e =>
      (round (fmtOf c) .rne (f (elemVal c (velt s o.va w sec e)) (elemVal c (velt s o.vb w sec e)) (elemVal c (velt s o.vc w sec e)))).code) 4) := by
  rw [vfp, velem_register hi] at he
  exact puts_of_vissue he

/-- VFMIN or VFMAX by the cases of R31. -/
theorem puts_vfminmax {i : Instr} {o : VF} {s : State} (hi : o.i = false) (mx : Bool) (he : exec i s = vfminmax mx o s) :
    let c := o.fmt.toNat
    let w := fmtWidth c
    let x (r : BitVec 5) (sec e : Nat) := velt s r w sec e
    let v (r : BitVec 5) (sec e : Nat) := elemVal c (x r sec e)
    Puts i s (vresults o.vd.toNat w (512 / w) (ven o s) (fun sec e =>
      if (v o.va sec e).isNaN then (if (v o.vb sec e).isNaN then (fmtOf c).canonNaN else x o.vb sec e)
      else if (v o.vb sec e).isNaN then x o.va sec e
      else if mx then (if (v o.va sec e).below (v o.vb sec e) then x o.vb sec e else x o.va sec e)
      else if (v o.vb sec e).below (v o.va sec e) then x o.vb sec e else x o.va sec e) 4) := by
  intro c w x v
  rw [vfminmax, velem_register hi] at he
  simp only [minmaxCode_eq] at he
  exact puts_of_vissue he

/-- VFCMP writes the condition that its SUB names. -/
theorem puts_vfcmp {o : VF} {s : State} (hi : o.i = false) {f : Val → Val → Bool} (h : fpCond (vsub o) = f) :
    let c := o.fmt.toNat
    let w := fmtWidth c
    Puts (.vfcmp o) s (mresults (o.vd.toNat % 8) (512 / w) (ven o s) (fun sec e => f (elemVal c (velt s o.va w sec e)) (elemVal c (velt s o.vb w sec e))) 4) := by
  subst h
  have he := exec_vfcmp o s
  rw [execVfcmp, vcompare_register hi] at he
  exact puts_of_vissue he

/-- The 32 values of a block are the elements of the two operands in order. -/
theorem block_elements (o : VF) (s : State) (sec : Nat) :
    ((List.range 32).map fun i => val32 (if i < 16 then velt s o.va 32 sec i else velt s o.vb 32 sec (i - 16)))
      = (List.range 32).map fun i => val32 (elt (s.ctx.V (if i < 16 then o.va else o.vb).toNat sec) 32 (i % 16)) := by
  refine List.map_congr_left fun i hi => ?_
  rw [List.mem_range] at hi
  by_cases h : i < 16
  · rw [if_pos h, if_pos h, Nat.mod_eq_of_lt h]; rfl
  · rw [if_neg h, if_neg h, show i % 16 = i - 16 by omega]; rfl

/-- Settles O27: each instruction issues the results of its table row; the min and max rule and the places of a change of width are rewritten by cases. -/
theorem vectorFloatsAndConversions : Obligations.VectorFloatsAndConversions := by
  refine ⟨fun o s hi => ⟨?_, ?_, ?_⟩, fun o s => ⟨?_, ?_⟩⟩
  · intro r hr
    simp only [List.mem_cons, List.not_mem_nil, or_false] at hr
    rcases hr with rfl | rfl | rfl | rfl
    · exact puts_vfp hi _ (exec_vfadd o s)
    · exact puts_vfp hi _ (exec_vfsub o s)
    · exact puts_vfp hi _ (exec_vfmul o s)
    · exact puts_vfp hi _ (exec_vfma o s)
  · intro r hr
    simp only [List.mem_cons, List.not_mem_nil, or_false] at hr
    rcases hr with rfl | rfl
    · exact puts_vfminmax hi false (exec_vfmin o s)
    · exact puts_vfminmax hi true (exec_vfmax o s)
  · intro r hr h
    simp only [List.mem_cons, List.not_mem_nil, or_false] at hr
    rcases hr with rfl | rfl | rfl | rfl <;> exact puts_vfcmp hi (by rw [h]; rfl)
  · refine putsWith_of_issueCtx (slot := vslotOf o) ((exec_vcvt o s).trans ?_)
    simp only [execVcvt, converted_count, convertedFrom]
    rfl
  · refine putsWith_of_issueCtx (slot := vslotOf o) ((exec_vbcvt o s).trans ?_)
    simp only [execVbcvt, block_elements]
    rfl

end Sys2Proof.Machine

/-! ## The probability instructions (R228 to R234): O29 -/

namespace Sys2Proof.Machine

open Encoding (fmtWidth xa xb vsub src imm16)
open Sys2Proof.Laws (clashes_eq_nil)

section
variable (o : VF) (s : State)

theorem exec_wcmp : exec (.wcmp o) s = execWcmp o s := rfl
theorem exec_wand : exec (.wand o) s = execWand o s := rfl
theorem exec_wor : exec (.wor o) s = execWor o s := rfl
theorem exec_wnot : exec (.wnot o) s = execWnot o s := rfl
theorem exec_wblend : exec (.wblend o) s = execWblend o s := rfl
theorem exec_wcoll : exec (.wcoll o) s = execWcoll o s := rfl
theorem exec_wgradCmp : exec (.wgradCmp o) s = execWgradCmp o s := rfl
theorem exec_wgradBlend : exec (.wgradBlend o) s = execWgradBlend o s := rfl
theorem exec_wgradColl : exec (.wgradColl o) s = execWgradColl o s := rfl
theorem exec_wset : exec (.wset o) s = execWset o s := rfl
theorem exec_wget : exec (.wget o) s = execWget o s := rfl
theorem exec_wlin : exec (.wlin o) s = execWlin o s := rfl

end

/-- A flag that is not raised changes nothing. -/
@[simp] theorem Context.flag_false (c : Context) (i : Nat) : c.flag i false = c := rfl

/-- A probability operation puts its results in flight and raises PFRNG and PDEP. -/
theorem putsWith_of_wissue {i : Instr} {o : VF} {s : State} {fs : List Flight} {pf : Nat → Nat → Bool} {pd : Bool} (he : exec i s = wissue o fs pf pd s) :
    PutsWith i s fs (fun x => (x.flag 3 (anyEn 16 (ven o s) pf)).flag 2 pd) :=
  putsWith_of_issueCtx he

/-- R27: a lane as read. -/
theorem laneRead_eq (s : State) (r : Nat) : laneRead s r = fun sec l => Min.min ((s.ctx.W r sec).toNat / 2 ^ (16 * l) % 65536) 32768 := by
  funext sec l
  rw [laneRead, lane, Nat.shiftRight_eq_div_pow, pfRead_of_lt (Nat.mod_lt _ (by norm_num))]

/-- R27: reading a lane above 1.0 sets PFRNG. -/
theorem laneBad_eq (s : State) (r : Nat) : laneBad s r = fun sec l => decide (32768 < (s.ctx.W r sec).toNat / 2 ^ (16 * l) % 65536) := by
  funext sec l
  rw [laneBad, lane, Nat.shiftRight_eq_div_pow, pfRead_of_lt (Nat.mod_lt _ (by norm_num))]

theorem lineage_eq (s : State) (r sec : Nat) : lineage s r sec = (s.ctx.W r sec).toNat / 2 ^ 256 := Nat.shiftRight_eq_div_pow ..

/-- An element of 16 bits is read as a lane is. -/
theorem pfRead_velt (s : State) (r : BitVec 5) (sec l : Nat) :
    pfRead (velt s r 16 sec l) = (Min.min (elt (s.ctx.V r.toNat sec) 16 l) 32768, decide (32768 < elt (s.ctx.V r.toNat sec) 16 l)) :=
  pfRead_of_lt (Nat.mod_lt _ (by norm_num))

theorem one_shiftLeft (n : Nat) : 1 <<< n = 2 ^ n := by rw [Nat.shiftLeft_eq, one_mul]

/-- R228: κ' is +∞ where the temperature register is NaN, else its magnitude. -/
theorem kappa_eq (s : State) : kappa s = if (val32 s.ctx.tmpr.toNat).isNaN then .inf false else (val32 s.ctx.tmpr.toNat).abs := by
  unfold kappa
  cases val32 s.ctx.tmpr.toNat <;> rfl

/-- R232: the draw is the upper 15 bits of the generator's word. -/
theorem draw_eq (seed : BitVec 64) (n : BitVec 32) (core sec l : Nat) : draw seed n core sec l = (drawWord seed n core sec l).toNat / 2 ^ 49 := by
  rw [draw, BitVec.toNat_ushiftRight, Nat.shiftRight_eq_div_pow]

/-- R229: the fraction of WCMP. -/
theorem wcmpVal_spec (cc : Nat) (k a b : Val) :
    let one : Val := .fin false 1 0
    let half : Val := .fin false 1 (-1)
    let crisp : Val := if wcond cc a b then one else .fin false 0 0
    let d := rv32 (if cc < 2 then a.sub b else b.sub a)
    (a.isNaN = true ∨ b.isNaN = true → wcmpVal cc k a b = .fin false 0 0)
    ∧ (a.isNaN = false → b.isNaN = false →
      (k = .inf false → wcmpVal cc k a b = crisp)
      ∧ (k.isFin = true →
        (d = .nan → wcmpVal cc k a b = crisp)
        ∧ (d = .inf false → wcmpVal cc k a b = one) ∧ (d = .inf true → wcmpVal cc k a b = .fin false 0 0)
        ∧ (d.isFin = true → wcmpVal cc k a b = if k.isZero then half else half.add (rv32 (d.mul k))))) := by
  intro one half crisp d
  refine ⟨fun h => if_pos (by simpa using h), fun ha hb => ?_⟩
  have hno : ¬ (a.isNaN || b.isNaN) = true := by simp [ha, hb]
  refine ⟨fun hk => by subst hk; exact if_neg hno, fun hk => ?_⟩
  obtain ⟨t, m, e, rfl⟩ := Val.isFin_iff.1 hk
  have hw : wcmpVal cc (.fin t m e) a b = match d with
      | .nan => crisp
      | .inf neg => if neg then .zero else one
      | d => if m = 0 then half else half.add (rv32 (d.mul (.fin t m e))) := by
    rw [wcmpVal]; exact if_neg hno
  refine ⟨fun hd => by rw [hw, hd], fun hd => by rw [hw, hd]; rfl, fun hd => by rw [hw, hd]; rfl, fun hd => ?_⟩
  obtain ⟨t', m', e', hd⟩ := Val.isFin_iff.1 hd
  rw [hw, hd]
  simp only [Val.isZero, decide_eq_true_eq]

/-- The condition of WCMP by its code. -/
theorem wcond_eq (cc : Nat) (a b : Val) :
    wcond cc a b = if cc = 0 then b.lt a else if cc = 1 then b.lt a || a.eqv b else if cc = 2 then a.lt b else a.lt b || a.eqv b := by
  unfold wcond
  split <;> simp_all

/-- R230: WAND and WOR. -/
theorem putsWith_wlogic {i : Instr} {o : VF} {s : State} (or_ : Bool) (he : exec i s = wlogic or_ o s) :
    let a (sec l : Nat) := laneRead s (xa o) sec l
    let b (sec l : Nat) := laneRead s (xb o) sec l
    let ind (sec : Nat) : Bool := vsub o % 2 == 1 || (lineage s (xa o) sec &&& lineage s (xb o) sec) == 0
    PutsWith i s (wresults (vd3 o) (ven o s)
        (fun sec l => if ind sec then pf16 (if or_ then 32768 * (a sec l + b sec l : Nat) - (a sec l * b sec l : Nat) else (a sec l * b sec l : Nat)) (2 ^ 30)
          else if or_ then Max.max (a sec l) (b sec l) else Min.min (a sec l) (b sec l))
        (fun sec => lineage s (xa o) sec ||| lineage s (xb o) sec) 2)
      (fun x => (x.flag 3 (anyEn 16 (ven o s) fun sec l => laneBad s (xa o) sec l || laneBad s (xb o) sec l)).flag 2 (anyEn 16 (ven o s) fun sec _ => !ind sec)) :=
  putsWith_of_wissue he

/-- Settles O29: each instruction issues the results of its rule, its lanes read as R27 says. -/
theorem probability : Obligations.Probability := by
  intro o s
  refine ⟨?_, kappa_eq s, draw_eq, ?_, ?_, ?_, ?_, ?_, ?_, ?_, ?_, ?_, ?_, ?_, ?_⟩
  · intro cc k a b
    have h := wcmpVal_spec cc k a b
    rw [wcond_eq] at h
    exact h
  · have he := exec_wcmp o s
    rw [execWcmp, one_shiftLeft] at he
    exact puts_of_vissue he
  · have h := putsWith_wlogic false (exec_wand o s)
    simp only [laneRead_eq, laneBad_eq, lineage_eq, Bool.false_eq_true, if_false] at h
    exact h
  · have h := putsWith_wlogic true (exec_wor o s)
    simp only [laneRead_eq, laneBad_eq, lineage_eq, if_true] at h
    exact h
  · have h := putsWith_of_wissue (exec_wnot o s)
    simp only [laneRead_eq, laneBad_eq, lineage_eq, Context.flag_false] at h
    exact h
  · have h := putsWith_of_wissue (exec_wblend o s)
    simp only [laneRead_eq, laneBad_eq, Context.flag_false] at h
    exact h
  · refine putsWith_of_issueCtx (slot := vslotOf o) ((exec_wcoll o s).trans ?_)
    simp only [execWcoll, laneRead_eq, laneBad_eq]
    rfl
  · have h := putsWith_of_wissue (exec_wgradCmp o s)
    simp only [laneRead_eq, laneBad_eq, Context.flag_false] at h
    exact h
  · exact puts_of_vissue (exec_wgradBlend o s)
  · exact puts_of_vissue (exec_wgradColl o s)
  · have h := putsWith_of_wissue (exec_wset o s)
    simp only [pfRead_velt, Context.flag_false] at h
    exact h
  · have h := putsWith_of_wissue (exec_wget o s)
    simp only [laneRead_eq, laneBad_eq, lineage_eq, Context.flag_false] at h
    exact h
  · have h := putsWith_of_wissue (exec_wlin o s)
    simp only [laneRead_eq, laneBad_eq, one_shiftLeft, Context.flag_false] at h
    exact h

end Sys2Proof.Machine

/-! ## Compare-and-swap of PF16 keys (R27, R226): O28 -/

namespace Sys2Proof.Machine

theorem exec_vcas (o : VF) (s : State) : exec (.vcas o) s = execVcas o s := rfl

/-- A VCAS of format 12, PF16, on registers 2 and 3 into 4 and 5, with j = 1 and k = 0. R226 does not list the format, but the term exists. -/
def casPf16 : VF := { guard := ⟨false, 0⟩, v1 := false, vd := 4, va := 2, vb := 0, vc := 0, fmt := 12, i := true, low := 0x40 }

/-- A state whose register 2 holds the code 0x9000, above 1.0, in element 0 of section 0. -/
def statePastOne : State := { State.reset with ctx := { State.reset.ctx with v := [(16, 0x9000)] } }

/-- The code of element 1 that the first result in flight of a next state writes. -/
def elementWritten (r : Result) : Option Nat := match r with
  | .next t => t.ctx.flights.head?.map fun f => elt f.val 16 1
  | _ => none

/-- Refutes O28: its clause on VCAS moves every key that is not NaN as it stands, also for terms of format 12, which R226 does not list; there the model writes a PF16 key above 0x8000 as 0x8000 (R27). -/
theorem not_reductionsAndMasks : ¬ Obligations.ReductionsAndMasks := by
  intro h
  obtain ⟨-, -, -, -, -, -, hcas, -⟩ := h casPf16 statePastOne
  have claimed : elementWritten (exec (.vcas casPf16) statePastOne) = some 0x9000 :=
    (congrArg elementWritten (hcas (Laws.collision_nil _))).trans (by decide +kernel)
  have written : elementWritten (exec (.vcas casPf16) statePastOne) = some 0x8000 := by decide +kernel
  exact absurd (claimed.symm.trans written) (by decide)

end Sys2Proof.Machine

/-! ## What keeps the matrix queue, the accumulators and the tiles (13_matrix) -/

namespace Sys2Proof.Machine

/-- Two cores with the same matrix queue, accumulators and tiles. -/
structure SameMatrix (j k : Core) : Prop where
  mqueue : k.mqueue = j.mqueue
  acc : k.acc = j.acc
  tile : k.tile = j.tile

/-- Every core keeps its matrix queue, accumulators and tiles. -/
def KeepsMatrix (s t : State) : Prop := ∀ c, SameMatrix (getCore s c) (getCore t c)

theorem SameMatrix.refl (k : Core) : SameMatrix k k := ⟨rfl, rfl, rfl⟩

theorem SameMatrix.trans {i j k : Core} (h : SameMatrix i j) (g : SameMatrix j k) : SameMatrix i k :=
  ⟨g.mqueue.trans h.mqueue, g.acc.trans h.acc, g.tile.trans h.tile⟩

namespace KeepsMatrix

theorem refl (s : State) : KeepsMatrix s s := fun _ => .refl _

theorem trans {s t u : State} (h : KeepsMatrix s t) (g : KeepsMatrix t u) : KeepsMatrix s u := fun c => (h c).trans (g c)

/-- A change of fields that no core stands in. -/
theorem of_cores {s t : State} (h1 : t.coreId = s.coreId) (h2 : t.core = s.core) (h3 : t.cores = s.cores) : KeepsMatrix s t := by
  intro c
  rw [show getCore t c = getCore s c by simp only [getCore, h1, h2, h3]]
  exact .refl _

theorem of_sameBut {s t : State} (h : Laws.SameBut s t) : KeepsMatrix s t := of_cores h.coreId h.core h.cores

/-- A change of one core that keeps them. -/
theorem modCore (c : Nat) {f : Core → Core} (s : State) (h : ∀ k, SameMatrix k (f k) := by exact fun _ => ⟨rfl, rfl, rfl⟩) : KeepsMatrix s (modCore c f s) := by
  intro d
  by_cases hd : d = c
  · rw [hd, Laws.getCore_modCore_same]; exact h _
  · rw [Laws.getCore_modCore_other hd]; exact .refl _

theorem modHub (f : Hub → Hub) (s : State) : KeepsMatrix s (modHub f s) := of_cores rfl rfl rfl

theorem modCtx (c k : Nat) (f : Context → Context) (s : State) : KeepsMatrix s (modCtx c k f s) := by
  unfold Machine.modCtx
  split
  · exact of_cores rfl rfl rfl
  · exact modCore c s

/-- A fold of steps that keep them. -/
theorem foldl {α : Type} {f : State → α → State} (h : ∀ s a, KeepsMatrix s (f s a)) (l : List α) : ∀ s, KeepsMatrix s (l.foldl f s) := by
  induction l with
  | nil => exact refl
  | cons a l ih => exact fun s => (h s a).trans (ih _)

/-- A table whose entries change, read at a key. -/
theorem tget_map_same {f : Nat → Core → Core} (h : ∀ c k, SameMatrix k (f c k)) (x : Core) (c : Nat) :
    ∀ t : Tab Core, SameMatrix (tget x t c) (tget x (t.map fun p => (p.1, f p.1 p.2)) c)
  | [] => .refl _
  | (j, w) :: t => by
    simp only [tget, List.map_cons]
    split
    · exact .refl _
    · split
      · exact h _ _
      · exact tget_map_same h x c t

theorem mapCores {f : Nat → Core → Core} (s : State) (h : ∀ c k, SameMatrix k (f c k) := by exact fun _ _ => ⟨rfl, rfl, rfl⟩) : KeepsMatrix s (mapCores f s) := by
  intro c
  by_cases hc : c = s.coreId
  · simpa only [getCore, Machine.mapCores, hc, if_true] using h _ _
  · simpa only [getCore, Machine.mapCores, hc, if_false] using tget_map_same h _ c _

theorem mapCtxs (f : Nat → Nat → Context → Context) (s : State) : KeepsMatrix s (mapCtxs f s) := by
  have h := mapCores (f := fun c k => { k with parked := k.parked.map fun p => (p.1, f c p.1 p.2) }) s
  exact h.trans (of_cores rfl rfl rfl)

/-! ### Device memory, saved contexts and pages -/

theorem devWrite (s : State) (a : Nat) (bs : List Byte) : KeepsMatrix s (devWrite s a bs) := of_sameBut (Laws.sameBut_devWrite s a bs)

theorem devPieces (l : List (Nat × Nat)) : ∀ (bs : List Byte) (s : State), KeepsMatrix s (devPieces l bs s) := by
  induction l with
  | nil => exact fun _ s => refl s
  | cons p l ih =>
    intro bs s
    unfold Machine.devPieces
    split
    · exact (devWrite _ _ _).trans (ih _ _)
    · exact ih _ _

theorem devMerge (a : Nat) (bs : List Byte) (s : State) : KeepsMatrix s (devMerge a bs s) := devPieces _ _ _

theorem vpieces (f : Nat) (l : List (Nat × Nat)) : ∀ (bs : List Byte) (s : State), KeepsMatrix s (vpieces f l bs s) := by
  induction l with
  | nil => exact fun _ s => refl s
  | cons p l ih =>
    intro bs s
    unfold Machine.vpieces
    split
    · exact (devMerge _ _ _).trans (ih _ _)
    · exact ih _ _

theorem refreshSave (x : Context) (s : State) : KeepsMatrix s (refreshSave x s) :=
  ((vpieces _ _ _ _).trans (vpieces _ _ _ _)).trans (vpieces _ _ _ _)

theorem modSaved (test : Saved → Bool) (f : Context → Context) (s : State) : KeepsMatrix s (modSaved test f s) := by
  refine (modHub _ s).trans (foldl (fun s p => ?_) _ _)
  split
  · exact refl s
  · exact refreshSave _ s

theorem modOwnerAt (c n task : Nat) (f : Context → Context) (s : State) : KeepsMatrix s (modOwnerAt c n task f s) := by
  unfold Machine.modOwnerAt
  split
  · exact modCtx _ _ _ _
  · exact modSaved _ _ _

theorem dropHandles (test : BitVec 64 → Bool) (s : State) : KeepsMatrix s (dropHandles test s) :=
  ((mapCtxs _ _).trans (mapCores _)).trans (modSaved _ _ _)

theorem unmapPage (f va : Nat) (s : State) : KeepsMatrix s (unmapPage f va s) := by
  unfold Machine.unmapPage
  split
  · exact refl s
  · exact (devWrite _ _ _).trans (dropHandles _ _)

theorem freePage (pfn : Nat) (s : State) : KeepsMatrix s (freePage pfn s) := by
  have free : KeepsMatrix s (quarantine pfn s) := by
    unfold quarantine
    split <;> exact of_cores rfl rfl rfl
  unfold Machine.freePage
  dsimp only
  split
  · exact of_cores rfl rfl rfl
  · exact free

theorem forgetReserve (f va : Nat) (s : State) : KeepsMatrix s (forgetReserve f va s) := by
  unfold Machine.forgetReserve
  split
  · dsimp only
    split
    · refine .trans ?_ (devWrite _ _ _)
      exact of_cores rfl rfl rfl
    · exact of_cores rfl rfl rfl
  · exact refl s

theorem releaseVa (f va : Nat) (s : State) : KeepsMatrix s (releaseVa f va s) := by
  unfold Machine.releaseVa
  split
  · exact (unmapPage _ _ _).trans (freePage _ _)
  · exact forgetReserve _ _ _

/-! ### References of bindings -/

theorem setSlot (f id j x : Nat) (s : State) : KeepsMatrix s (setSlot f id j x s) := by
  unfold Machine.setSlot
  split
  · exact devMerge _ _ _
  · exact refl s

theorem retireVersion (f id j : Nat) (s : State) : KeepsMatrix s (retireVersion f id j s) := by
  unfold Machine.retireVersion
  split
  · exact refl s
  · next a _ =>
    dsimp only
    have h := (setSlot f id j (mkSlot 2 false 0 (svVer (slotWord s f id j)) 0) s).trans (releaseVa f (svHdr (slotWord s f id j)) _)
    split
    · exact h.trans (of_cores rfl rfl rfl)
    · exact h.trans (setSlot _ _ _ _ _)

theorem dropRef (f id ver : Nat) (s : State) : KeepsMatrix s (dropRef f id ver s) := by
  unfold Machine.dropRef
  split
  · exact refl s
  · dsimp only
    split
    · exact (setSlot _ _ _ _ _).trans (retireVersion _ _ _ _)
    · exact setSlot _ _ _ _ _

theorem settleRefs (c : Nat) (s : State) : KeepsMatrix s (settleRefs c s) := by
  unfold Machine.settleRefs
  dsimp only
  split
  · exact refl s
  · exact (modCore c s).trans (foldl (fun s r => dropRef _ _ _ s) _ _)

/-! ### Rings and commands -/

theorem leave (c : Nat) (m : Cmd) (s : State) : KeepsMatrix s (leave c m s) := by
  have drop : KeepsMatrix s (releaseBound c m.ctx m.task (dropCmd c m.id s)) := by
    have h : KeepsMatrix s (dropCmd c m.id s) := modCore c s
    unfold releaseBound
    dsimp only
    split
    · exact h
    · exact h.trans (modHub _ _)
  unfold Machine.leave
  dsimp only
  split
  · exact (drop.trans (dropRef _ _ _ _)).trans (dropRef _ _ _ _)
  · exact drop

theorem settleList (c q : Nat) (l : List Cmd) : ∀ (busy : List Nat) (s : State), KeepsMatrix s (settleList c q busy l s) := by
  induction l with
  | nil => exact fun _ s => refl s
  | cons m l ih =>
    intro busy s
    unfold Machine.settleList
    split
    · exact refl s
    · split
      · exact ih _ _
      · exact ((modOwnerAt _ _ _ _ _).trans (leave _ _ _)).trans (ih _ _)
    · exact ih _ _

theorem advanceMatrix (c : Nat) (e : MEntry) (q : Nat) (s : State) : KeepsMatrix s (advanceMatrix c e q s) := by
  unfold Machine.advanceMatrix
  split
  · exact refl s
  · exact (modCore c s).trans (settleList _ _ _ _ _)

theorem localStore (c : Nat) (win : Bool) (l : List (Nat × Byte)) (s : State) : KeepsMatrix s (localStore c win l s) := by
  unfold Machine.localStore winSet
  split
  · exact foldl (fun s p => modCore _ s) _ _
  · exact modCore _ s

theorem markPoison (c : Nat) (win : Bool) (l : List (Nat × Byte)) (s : State) : KeepsMatrix s (markPoison c win l s) := by
  refine foldl (fun s w => ?_) _ _
  split <;> exact modCore _ s

/-- A step behind a condition. -/
theorem ite (p : Prop) [Decidable p] {s t : State} (h : KeepsMatrix s t) : KeepsMatrix s (if p then t else s) := by
  split
  · exact h
  · exact refl s

end KeepsMatrix

/-! ## The head of the queue lands (R277) -/

/-- The registers of the core after an operation lands, where the queue and the engine's time change. -/
theorem Core.landMatrix_queue (k : Core) (e : MEntry) (r : MRes) (l : List MEntry) (n : Nat) :
    SameMatrix { k.landMatrix e r with mqueue := l } (({ k with mqueue := l, matrixFree := n } : Core).landMatrix e r) := by
  unfold Core.landMatrix
  cases e.op <;> cases r.poisoned <;> exact ⟨rfl, rfl, rfl⟩

/-- After the registers of its core, a landing changes no queue, accumulator or tile. -/
theorem keepsMatrix_landMatrix (c : Nat) (e : MEntry) (r : MRes) (s : State) :
    KeepsMatrix (modCore c (fun k => ({ k with mqueue := k.mqueue.drop 1, matrixFree := s.cycle + 1 } : Core).landMatrix e r) s)
      (landMatrix c e r s) := by
  unfold Machine.landMatrix
  extract_lets s0 s1 s2 s3 s4 s5 s6
  have h1 : KeepsMatrix s0 s1 := .ite _ (.mapCtxs _ _)
  have h3 : KeepsMatrix s1 s3 := (KeepsMatrix.localStore _ _ _ _).trans (.localStore _ _ _ _)
  have h4 : KeepsMatrix s3 s4 := .ite _ (.modOwnerAt _ _ _ _ _)
  have h5 : KeepsMatrix s4 s5 := .ite _ ((KeepsMatrix.markPoison _ _ _ _).trans (.markPoison _ _ _ _))
  have h6 : KeepsMatrix s5 s6 := by
    simp only [s6]
    split
    · exact .advanceMatrix _ _ _ _
    · exact .refl _
  exact (((h1.trans h3).trans h4).trans h5).trans (h6.trans (.settleRefs _ _))

/-- Landing writes the accumulators and tiles that the core's registers have after it, and the operation leaves the queue. -/
theorem sameMatrix_landMatrix (c : Nat) (e : MEntry) (r : MRes) (s : State) :
    SameMatrix { (getCore s c).landMatrix e r with mqueue := (getCore s c).mqueue.drop 1 } (getCore (landMatrix c e r s) c) := by
  refine .trans ?_ (keepsMatrix_landMatrix c e r s c)
  rw [Laws.getCore_modCore_same]
  exact (getCore s c).landMatrix_queue e r _ _

/-! ## The head of the queue starts or lands (R277) -/

theorem exec_matrixOpStart (c : Nat) (s : State) : exec (.matrixOpStart c) s = execMatrixOpStart c s := rfl

theorem exec_matrixOpLand (c : Nat) (s : State) : exec (.matrixOpLand c) s = execMatrixOpLand c s := rfl

section
variable {c : Nat} {s : State} {e : MEntry} {l : List MEntry} (hc : isCore c = true) (hq : (getCore s c).mqueue = e :: l)
include hq

/-- When the head of the queue may start. -/
theorem matrixReady_iff : matrixReady s c = true ↔ e.res = none ∧ e.cycle < s.cycle ∧ (getCore s c).matrixFree ≤ s.cycle
    ∧ (∀ i ∈ e.holds, nearDone (getCore s c) i = true) ∧ (∀ i ∈ e.remoteHolds, farDone (getCore s c) i = true)
    ∧ ∀ q, e.qout = some q → startedOn (getCore s c) e.ctx q + 1 ≤ producerFree (getCore s c) (ownerAt s c e.ctx e.task) q := by
  simp only [matrixReady, hq]
  cases e.qout <;> simp [and_assoc]

/-- When the head of the queue has been busy its time and has its bytes. -/
theorem matrixDone_of {r : MRes} (hr : e.res = some r) (ht : e.start + e.busy ≤ s.cycle + 1) (hd : e.op = .ldt → e.data.isSome = true) :
    matrixDone s c = true := by
  simp only [matrixDone, hq, hr, ht, Option.isSome_some, decide_true, Bool.true_and, Bool.or_eq_true, bne_iff_ne]
  exact (Decidable.em (e.op = .ldt)).symm.imp_right hd

include hc

theorem matrixOpStart_of_not_ready (h : matrixReady s c = false) : exec (.matrixOpStart c) s = .next s := by
  simp only [exec_matrixOpStart, execMatrixOpStart, Laws.atCore_of hc, hq, when, h]
  rfl

/-- A start marks the head of the queue as started with what it computes. -/
theorem matrixOpStart_of_ready (h : matrixReady s c = true) :
    ∃ t, exec (.matrixOpStart c) s = .next t ∧ ∃ e', (getCore t c).mqueue = e' :: l ∧ e'.res = some (matrixResult s c e)
      ∧ e'.start = s.cycle ∧ e'.id = e.id := by
  simp only [exec_matrixOpStart, execMatrixOpStart, Laws.atCore_of hc, hq, when, h, if_true]
  refine ⟨_, rfl, { e with res := some (matrixResult s c e), start := s.cycle, data := if e.op = .mopt then some [] else e.data }, ?_, rfl, rfl, rfl⟩
  split
  · rw [(KeepsMatrix.of_sameBut (Laws.sameBut_report ..) c).mqueue, Laws.getCore_modCore_same]
  · rw [Laws.getCore_modCore_same]

theorem matrixOpLand_of_done {r : MRes} (hr : e.res = some r) (h : matrixDone s c = true) :
    exec (.matrixOpLand c) s = .next (landMatrix c e r s) := by
  simp only [exec_matrixOpLand, execMatrixOpLand, Laws.atCore_of hc, hq, when, h, if_true, hr, Option.getD_some]

/-- The clauses of R277 on the head of the queue. -/
theorem matrix_head :
    (e.res = none → e.cycle < s.cycle → (getCore s c).matrixFree ≤ s.cycle →
      (∀ i ∈ e.holds, nearDone (getCore s c) i = true) → (∀ i ∈ e.remoteHolds, farDone (getCore s c) i = true) →
      let room (q : Nat) : Prop := startedOn (getCore s c) e.ctx q + 1 ≤ producerFree (getCore s c) (ownerAt s c e.ctx e.task) q
      ((∀ q, e.qout = some q → room q) →
        ∃ t, exec (.matrixOpStart c) s = .next t ∧ ∃ e', (getCore t c).mqueue = e' :: l ∧ e'.res = some (matrixResult s c e) ∧ e'.start = s.cycle ∧ e'.id = e.id)
      ∧ ∀ q, e.qout = some q → ¬ room q → exec (.matrixOpStart c) s = .next s)
    ∧ (e.res = none → (e.cycle = s.cycle ∨ s.cycle < (getCore s c).matrixFree ∨ (∃ i ∈ e.holds, nearDone (getCore s c) i = false)
        ∨ ∃ i ∈ e.remoteHolds, farDone (getCore s c) i = false) → exec (.matrixOpStart c) s = .next s)
    ∧ (∀ r, e.res = some r → e.start + e.busy ≤ s.cycle + 1 → (e.op = .ldt → e.data.isSome = true) →
      exec (.matrixOpLand c) s = .next (landMatrix c e r s) ∧ (getCore (landMatrix c e r s) c).mqueue = l
      ∧ (getCore (landMatrix c e r s) c).acc = ((getCore s c).landMatrix e r).acc ∧ (getCore (landMatrix c e r s) c).tile = ((getCore s c).landMatrix e r).tile) := by
  refine ⟨fun hr ht hf hn hm => ⟨fun room => ?_, fun q hq' room => ?_⟩, fun _ hwait => ?_, fun r hr ht hd => ⟨?_, ?_⟩⟩
  · exact matrixOpStart_of_ready hc hq ((matrixReady_iff hq).2 ⟨hr, ht, hf, hn, hm, room⟩)
  · refine matrixOpStart_of_not_ready hc hq (Bool.eq_false_iff.2 fun h => ?_)
    obtain ⟨-, -, -, -, -, free⟩ := (matrixReady_iff hq).1 h
    exact room (free q hq')
  · refine matrixOpStart_of_not_ready hc hq (Bool.eq_false_iff.2 fun h => ?_)
    obtain ⟨-, ht, hf, hn, hm, -⟩ := (matrixReady_iff hq).1 h
    obtain h | h | ⟨i, hi, h⟩ | ⟨i, hi, h⟩ := hwait
    · omega
    · omega
    · exact absurd (hn i hi) (by simp [h])
    · exact absurd (hm i hi) (by simp [h])
  · exact matrixOpLand_of_done hc hq hr (matrixDone_of hq hr ht hd)
  · obtain ⟨hmq, hacc, htile⟩ := sameMatrix_landMatrix c e r s
    exact ⟨hmq.trans (by simp [hq]), hacc, htile⟩

end

end Sys2Proof.Machine

/-! ## The segment adder and AdamW (R33, R292, R293) -/

namespace Sys2Proof.Machine

/-! ### The segment adder -/

section
variable {acc w : Nat} {ps : List Val}

/-- The infinities among the products of a segment. -/
def infsOf (ps : List Val) : List Val := ps.filter fun p => !p.isNaN && !p.isFin

theorem mem_infsOf {p : Val} : p ∈ infsOf ps ↔ ∃ b, p = .inf b ∧ .inf b ∈ ps := by
  rw [infsOf, List.mem_filter]
  cases p <;> simp [Val.isNaN, Val.isFin]

/-- The sum of the products cut below 2^g, added to the accumulator. -/
def segmentAt (acc : Nat) (ps : List Val) (g : Int) : Nat :=
  let s := (ps.map (truncTo g)).sum
  if s = 0 then acc else rne32 ((val32 acc).add (.fin (decide (s < 0)) s.natAbs g))

/-- A NaN among the operands, or infinities of both signs. -/
def SegmentNaN (acc : Nat) (ps : List Val) : Prop := (val32 acc).isNaN = true ∨ .nan ∈ ps ∨ (.inf false ∈ ps ∧ .inf true ∈ ps)

theorem segmentNaN_iff : SegmentNaN acc ps ↔ ((val32 acc).isNaN ∨ ps.any Val.isNaN ∨ ((infsOf ps).any Val.isNeg ∧ (infsOf ps).any fun p => !p.isNeg)) := by
  have nan : ps.any Val.isNaN = true ↔ Val.nan ∈ ps := by
    rw [List.any_eq_true]
    exact ⟨fun ⟨p, hp, h⟩ => by cases p <;> simp_all [Val.isNaN], fun h => ⟨_, h, rfl⟩⟩
  have inf (b : Bool) : ((infsOf ps).any fun p => p.isNeg == b) = true ↔ .inf b ∈ ps := by
    simp only [List.any_eq_true, mem_infsOf]
    exact ⟨fun ⟨p, ⟨s, hp, hs⟩, h⟩ => by subst hp; exact (eq_of_beq h : s = b) ▸ hs, fun h => ⟨_, ⟨b, rfl, h⟩, by simp [Val.isNeg]⟩⟩
  have pos := inf false
  have neg := inf true
  simp only [beq_true, beq_false] at pos neg
  rw [SegmentNaN, nan, neg, pos, and_comm (a := Val.inf false ∈ ps)]

theorem segment_of_nan (h : SegmentNaN acc ps) : segment acc ps w = 0x7FC00000 := by
  rw [segmentNaN_iff] at h
  simp only [segment, ← infsOf.eq_1]
  rw [if_pos h]
  rfl

theorem segment_of_inf {b : Bool} (h : ¬ SegmentNaN acc ps) (hb : .inf b ∈ ps) : segment acc ps w = rne32 ((val32 acc).add (.inf b)) := by
  have other : .inf (!b) ∉ ps := fun hb' => h (.inr (.inr (by cases b <;> exact ⟨by assumption, by assumption⟩)))
  rw [segmentNaN_iff] at h
  simp only [segment, ← infsOf.eq_1]
  rw [if_neg h]
  match hi : infsOf ps with
  | [] => exact absurd (mem_infsOf.2 ⟨b, rfl, hb⟩) (by simp [hi])
  | p :: t =>
    obtain ⟨s, rfl, hs⟩ := mem_infsOf.1 (hi ▸ List.mem_cons_self : p ∈ infsOf ps)
    have : s = b := by
      by_contra hne
      exact other (by rwa [Bool.not_eq.2 (Ne.symm hne)])
    subst this
    rfl

theorem segment_of_fin (hacc : (val32 acc).isNaN = false) (hps : ∀ p ∈ ps, p.isFin = true) :
    segment acc ps w = match ps.filterMap productExp with
      | [] => acc
      | e :: t => segmentAt acc ps (t.foldl max e - w + 1) := by
  have hi : infsOf ps = [] := List.eq_nil_iff_forall_not_mem.2 fun p hp => by
    obtain ⟨b, -, hb⟩ := mem_infsOf.1 hp
    exact absurd (hps _ hb) (by simp [Val.isFin])
  have h : ¬ SegmentNaN acc ps := by
    rintro (h | h | ⟨h, -⟩)
    · simp [hacc] at h
    · exact absurd (hps _ h) (by simp [Val.isFin])
    · exact absurd (hps _ h) (by simp [Val.isFin])
  rw [segmentNaN_iff] at h
  simp only [segment, ← infsOf.eq_1]
  rw [if_neg h, hi]
  rfl

/-- The greatest of a list that is bounded and met. -/
theorem foldl_max_eq {e E : Int} {t : List Int} (hle : ∀ x ∈ e :: t, x ≤ E) (hE : E ∈ e :: t) : t.foldl max e = E := by
  have h := List.max?_cons' (x := e) (xs := t)
  have h2 : (e :: t).max? = some E := List.max?_eq_some_iff.2 ⟨hE, hle⟩
  exact Option.some.inj (h.symm.trans h2)

theorem productExp_eq_some {p : Val} {E : Int} : productExp p = some E ↔ ∃ b m x, p = .fin b m x ∧ m ≠ 0 ∧ (Nat.log2 m : Int) + x = E := by
  cases p with
  | fin b m x => by_cases h : m = 0 <;> simp [productExp, h]
  | _ => simp [productExp]

/-- A product as the signed number of units 2^g that it holds, cut toward zero. -/
theorem truncTo_fin (g : Int) (b : Bool) (m : Nat) (x : Int) : truncTo g (.fin b m x)
    = (if b then -1 else 1) * (if g ≤ x then m * 2 ^ (x - g).toNat else m / 2 ^ (g - x).toNat : Nat) := by
  by_cases h : g ≤ x <;> cases b <;> simp [truncTo, h, Nat.shiftLeft_eq, Nat.shiftRight_eq_div_pow]

theorem segment_of_zeros (hacc : (val32 acc).isNaN = false) (h : ∀ p ∈ ps, ∃ b x, p = .fin b 0 x) : segment acc ps w = acc := by
  have none : ps.filterMap productExp = [] := by
    refine List.filterMap_eq_nil_iff.2 fun p hp => ?_
    obtain ⟨b, x, rfl⟩ := h p hp
    simp [productExp]
  rw [segment_of_fin hacc fun p hp => by obtain ⟨b, x, rfl⟩ := h p hp; rfl, none]

/-- The window stands on the greatest exponent of a product. -/
theorem segment_of_max {E : Int} (hacc : (val32 acc).isNaN = false)
    (hle : ∀ p ∈ ps, ∃ b m x, p = .fin b m x ∧ (m ≠ 0 → (Nat.log2 m : Int) + x ≤ E))
    (hE : ∃ b m x, .fin b m x ∈ ps ∧ m ≠ 0 ∧ (Nat.log2 m : Int) + x = E) : segment acc ps w = segmentAt acc ps (E - w + 1) := by
  rw [segment_of_fin hacc fun p hp => by obtain ⟨b, m, x, rfl, -⟩ := hle p hp; rfl]
  have le : ∀ y ∈ ps.filterMap productExp, y ≤ E := by
    intro y hy
    obtain ⟨p, hp, hpy⟩ := List.mem_filterMap.1 hy
    obtain ⟨b, m, x, rfl, hm, rfl⟩ := productExp_eq_some.1 hpy
    obtain ⟨b', m', x', he, hle⟩ := hle _ hp
    cases he
    exact hle hm
  have mem : E ∈ ps.filterMap productExp := by
    obtain ⟨b, m, x, hp, hm, hx⟩ := hE
    exact List.mem_filterMap.2 ⟨_, hp, productExp_eq_some.2 ⟨b, m, x, rfl, hm, hx⟩⟩
  split
  · next h => simp [h] at mem
  · next h =>
    rw [h] at le mem
    rw [foldl_max_eq le mem]

end

/-- The clauses of R33 on one segment. -/
theorem segment_spec (acc w : Nat) (ps : List Val) :
    ((val32 acc).isNaN = true ∨ Val.nan ∈ ps ∨ (.inf false ∈ ps ∧ .inf true ∈ ps) → segment acc ps w = 0x7FC00000)
    ∧ (∀ b, (val32 acc).isNaN = false → Val.nan ∉ ps → .inf b ∈ ps → .inf (!b) ∉ ps → segment acc ps w = rne32 ((val32 acc).add (.inf b)))
    ∧ ((val32 acc).isNaN = false → (∀ p ∈ ps, ∃ b x, p = .fin b 0 x) → segment acc ps w = acc)
    ∧ (∀ E : Int, (val32 acc).isNaN = false → (∀ p ∈ ps, ∃ b m x, p = .fin b m x ∧ (m ≠ 0 → (Nat.log2 m : Int) + x ≤ E)) →
      (∃ b m x, .fin b m x ∈ ps ∧ m ≠ 0 ∧ (Nat.log2 m : Int) + x = E) →
      let g : Int := E - w + 1
      let kept : Val → Int
        | .fin b m x => (if b then -1 else 1) * (if g ≤ x then m * 2 ^ (x - g).toNat else m / 2 ^ (g - x).toNat : Nat)
        | _ => 0
      let S := (ps.map kept).sum
      segment acc ps w = if S = 0 then acc else rne32 ((val32 acc).add (.fin (decide (S < 0)) S.natAbs g))) := by
  refine ⟨segment_of_nan, fun b hacc hnan hb hb' => segment_of_inf ?_ hb, segment_of_zeros, fun E hacc hle hE => ?_⟩
  · rintro (h | h | ⟨h0, h1⟩)
    · simp [hacc] at h
    · exact hnan h
    · cases b
      · exact hb' h1
      · exact hb' h0
  · intro g kept S
    have kept_eq : truncTo g = kept := funext fun p => match p with
      | .fin b m x => truncTo_fin g b m x
      | .nan => rfl
      | .inf _ => rfl
    rw [segment_of_max hacc hle hE, segmentAt, kept_eq]

/-! ### AdamW -/

theorem bits_eq_div_mod (x hi lo : Nat) : bits x hi lo = x / 2 ^ lo % 2 ^ (hi + 1 - lo) := by rw [bits, Nat.shiftRight_eq_div_pow]

theorem bits_one_iff (x i : Nat) : bits x i i = 1 ↔ x.testBit i = true := by
  rw [bits_eq_div_mod, Nat.testBit_eq_decide_div_mod_eq, Nat.add_sub_cancel_left]
  simp

theorem place_of_lt {v : Nat} (lo : Nat) {w : Nat} (h : v < 2 ^ w) : place v lo w = v * 2 ^ lo := by
  rw [place, Nat.mod_eq_of_lt h, Nat.shiftLeft_eq]

/-- The fields of a record packed of four fields and its high byte. -/
theorem packed_fields {w m v t b : Nat} (hw : w < 2 ^ 32) (hm : m < 2 ^ 32) (hv : v < 2 ^ 32) (ht : t < 2 ^ 24) :
    let p := w + place m 32 32 + place v 64 32 + place t 96 24 + b <<< 120
    p % 2 ^ 32 = w ∧ p / 2 ^ 32 % 2 ^ 32 = m ∧ p / 2 ^ 64 % 2 ^ 32 = v ∧ p / 2 ^ 96 % 2 ^ 24 = t ∧ p / 2 ^ 120 = b := by
  simp only [place_of_lt 32 hm, place_of_lt 64 hv, place_of_lt 96 ht, Nat.shiftLeft_eq]
  omega

/-- The clauses of R292 and R293 on one record. -/
theorem adamw_spec (h : Nat → Val) (r g : Nat) :
    let p := adamw h r g
    let old := val32 (r % 2 ^ 32)
    let t := min (r / 2 ^ 96 % 2 ^ 24 + 1) 0xFFFFFF
    let m := rne32 (((h 1).mul (val32 (r / 2 ^ 32 % 2 ^ 32))).add ((h 2).mul (val32 g)))
    let v := rne32 (((h 3).mul (val32 (r / 2 ^ 64 % 2 ^ 32))).add (((h 4).mul (val32 g)).mul (val32 g)))
    let off (b : Val) : Val := rv32 ((Val.fin false 1 0).sub (b.pow t))
    let u := val32 (div32 (val32 (div32 (val32 m) (off (h 1)))) (rv32 ((rv32 (sqrtVal (val32 (div32 (val32 v) (off (h 3)))))).add (h 5))))
    let w := rne32 (old.sub ((h 0).mul (if r.testBit 121 then u else rv32 (u.add ((h 6).mul old)))))
    (r.testBit 120 = true → p = (r, r % 2 ^ 32))
    ∧ (r.testBit 120 = false → p.2 = w ∧ p.1 % 2 ^ 32 = w ∧ p.1 / 2 ^ 32 % 2 ^ 32 = m ∧ p.1 / 2 ^ 64 % 2 ^ 32 = v ∧ p.1 / 2 ^ 96 % 2 ^ 24 = t
      ∧ p.1 / 2 ^ 120 = r / 2 ^ 120) := by
  intro p old t m v off u w
  have low : bits r 31 0 = r % 2 ^ 32 := by rw [bits_eq_div_mod, pow_zero, Nat.div_one]
  refine ⟨fun hf => ?_, fun hf => ?_⟩
  · simp only [p, adamw, low]
    rw [if_pos ((bits_one_iff r 120).2 hf)]
  · have hp : p = (w + place m 32 32 + place v 64 32 + place t 96 24 + (r >>> 120) <<< 120, w) := by
      have h1 : bits r 63 32 = r / 2 ^ 32 % 2 ^ 32 := bits_eq_div_mod ..
      have h2 : bits r 95 64 = r / 2 ^ 64 % 2 ^ 32 := bits_eq_div_mod ..
      have h3 : bits r 119 96 = r / 2 ^ 96 % 2 ^ 24 := bits_eq_div_mod ..
      simp only [p, adamw, bits_one_iff, hf, low, h1, h2, h3, Bool.false_eq_true, if_false]
      simp only [w, u, off, v, m, t, old]
    have ht : t < 2 ^ 24 := lt_of_le_of_lt (min_le_right _ _) (by decide)
    rw [hp, ← Nat.shiftRight_eq_div_pow r 120]
    exact ⟨rfl, packed_fields (rne32_lt _) (rne32_lt _) (rne32_lt _) ht⟩

end Sys2Proof.Machine

/-! ## Lists of writes to a table, and cells of codes -/

namespace Sys2Proof.Machine

section
variable {α : Type} [DecidableEq α] {d : α}

/-- Writes to other keys leave a key. -/
theorem tget_tsetMany_of_ne {k : Nat} : ∀ {l : List (Nat × α)} {t : Tab α}, twf d t = true → (∀ p ∈ l, p.1 ≠ k) →
    tget d (tsetMany d t l) k = tget d t k
  | [], _, _, _ => rfl
  | p :: l, t, ht, h => by
    obtain ⟨hp, hl⟩ := List.forall_mem_cons.1 h
    exact (tget_tsetMany_of_ne (Laws.twf_tset _ _ ht) hl).trans (Laws.tget_tset_other hp.symm ht)

/-- A key that is written with one value holds it. -/
theorem tget_tsetMany_of_mem {k : Nat} {v : α} : ∀ {l : List (Nat × α)} {t : Tab α}, twf d t = true → (k, v) ∈ l →
    (∀ p ∈ l, p.1 = k → p.2 = v) → tget d (tsetMany d t l) k = v
  | p :: l, t, ht, hm, hu => by
    obtain ⟨hp, hl⟩ := List.forall_mem_cons.1 hu
    by_cases hk : ∃ q ∈ l, q.1 = k
    · obtain ⟨q, hq, rfl⟩ := hk
      have hkv : (q.1, v) ∈ l := hl q hq rfl ▸ hq
      exact tget_tsetMany_of_mem (t := tset d t p.1 p.2) (Laws.twf_tset _ _ ht) hkv hl
    · have hv : p = (k, v) := (List.mem_cons.1 hm).elim Eq.symm fun h => absurd ⟨_, h, rfl⟩ hk
      subst hv
      exact (tget_tsetMany_of_ne (Laws.twf_tset _ _ ht) fun q hq hqk => hk ⟨q, hq, hqk⟩).trans (Laws.tget_tset_same ht)

end

/-! ### Lists of blocks of one length -/

section
variable {α β : Type} {f : α → List β} {n : Nat} (hf : ∀ x, (f x).length = n)
include hf

theorem length_flatMap_blocks (l : List α) : (l.flatMap f).length = l.length * n := by
  rw [List.length_flatMap, List.map_congr_left (g := fun _ => n) fun x _ => hf x, List.map_const', List.sum_replicate, smul_eq_mul]

/-- Place `n * p + i` of a list of blocks of length `n` is place `i` of block `p`. -/
theorem getElem?_flatMap_blocks {i : Nat} (hi : i < n) : ∀ (l : List α) (p : Nat), (l.flatMap f)[n * p + i]? = l[p]?.bind fun x => (f x)[i]?
  | [], _ => by simp
  | x :: l, 0 => by
    rw [List.flatMap_cons, List.getElem?_append_left (by rw [hf]; omega)]
    simp
  | x :: l, p + 1 => by
    rw [List.flatMap_cons, List.getElem?_append_right (by rw [hf, Nat.mul_add]; omega), hf, Nat.mul_add,
      show n * p + n * 1 + i - n = n * p + i by omega, getElem?_flatMap_blocks hi l p, List.getElem?_cons_succ]

end

/-- Place `c * i + j` of a matrix of `c` columns, row by row. -/
theorem getElem?_rows {β : Type} (g : Nat → Nat → β) {r c i j : Nat} (hi : i < r) (hj : j < c) :
    ((List.range r).flatMap fun i => (List.range c).map (g i))[c * i + j]? = some (g i j) := by
  rw [getElem?_flatMap_blocks (fun _ => by simp) hj]
  simp [hi, hj]

/-! ### Bytes of numbers -/

theorem leBytes_eq_map (v n : Nat) : leBytes v n = (List.range n).map fun i => BitVec.ofNat 8 (v / 256 ^ i) := by
  induction n generalizing v with
  | zero => rfl
  | succ n ih =>
    rw [leBytes, ih, List.range_succ_eq_map, List.map_cons, List.map_map, pow_zero, Nat.div_one]
    refine congrArg _ (List.map_congr_left fun i _ => ?_)
    rw [Function.comp_apply, Nat.pow_succ', Nat.div_div_eq_div_mul]

@[simp] theorem length_leBytes (v n : Nat) : (leBytes v n).length = n := by simp [leBytes_eq_map]

theorem ofLeBytes_leBytes (v n : Nat) : ofLeBytes (leBytes v n) = v % 256 ^ n := by
  induction n generalizing v with
  | zero => simp [leBytes, ofLeBytes, Nat.mod_one]
  | succ n ih => rw [leBytes, ofLeBytes, ih, BitVec.toNat_ofNat, pow_succ' 256 n]; exact Nat.mod_mul.symm

/-! ### Cells -/

section
variable {a : Nat} {bs : List Byte}

theorem mem_cellsOf {p : Nat × Byte} : p ∈ Memory.cellsOf a bs ↔ ∃ i, a + i = p.1 ∧ bs[i]? = some p.2 := by
  rw [Memory.cellsOf, List.mem_iff_getElem?]
  refine exists_congr fun i => ?_
  rw [List.getElem?_zipWith]
  by_cases h : i < bs.length
  · simp [h, Prod.ext_iff]
  · simp [h]

variable {t : Tab Byte} (ht : twf 0 t = true)
include ht

/-- A stored byte reads back. -/
theorem tget_store_inside {i : Nat} (hi : i < bs.length) : tget 0 (tsetMany 0 t (Memory.cellsOf a bs)) (a + i) = bs[i] := by
  refine tget_tsetMany_of_mem ht (mem_cellsOf.2 ⟨i, rfl, List.getElem?_eq_getElem hi⟩) fun p hp hk => ?_
  obtain ⟨j, hj, hb⟩ := mem_cellsOf.1 hp
  obtain rfl : j = i := by omega
  exact Option.some.inj (hb.symm.trans (List.getElem?_eq_getElem hi))

/-- The other bytes stay. -/
theorem tget_store_outside {x : Nat} (hx : x < a ∨ a + bs.length ≤ x) : tget 0 (tsetMany 0 t (Memory.cellsOf a bs)) x = tget 0 t x := by
  refine tget_tsetMany_of_ne ht fun p hp hk => ?_
  obtain ⟨j, hj, hb⟩ := mem_cellsOf.1 hp
  have := (List.getElem?_eq_some_iff.1 hb).1
  omega

end

/-! ### Codes of four bytes -/

theorem length_codes (l : List Nat) : (l.flatMap fun x => leBytes x 4).length = 4 * l.length := by
  rw [length_flatMap_blocks (fun _ => length_leBytes _ _), mul_comm]

theorem getElem?_codes (l : List Nat) {i : Nat} (hi : i < 4) (p : Nat) :
    (l.flatMap fun x => leBytes x 4)[4 * p + i]? = l[p]?.map fun x => BitVec.ofNat 8 (x / 256 ^ i) := by
  rw [getElem?_flatMap_blocks (fun _ => length_leBytes _ _) hi]
  simp [leBytes_eq_map, hi, Option.map_eq_bind]

/-- A number in a tile, of bytes that are those of a code. -/
theorem tileNat_of_bytes {k : Core} {t x v n : Nat} (h : ∀ i, i < n → tileByte k t (x + i) = BitVec.ofNat 8 (v / 256 ^ i)) :
    tileNat k t x n = v % 256 ^ n := by
  rw [tileNat, List.map_congr_left fun i hi => h i (List.mem_range.1 hi), ← leBytes_eq_map, ofLeBytes_leBytes]

/-- A code stored in a tile reads back. -/
theorem tileNat_codeCells {k : Core} {T : Tab Byte} {t p x : Nat} {l : List Nat} (hT : twf 0 T = true)
    (hk : k.tile = tsetMany 0 T (codeCells (t * 65536) l)) (hp : l[p]? = some x) : tileNat k t (4 * p) 4 = x % 2 ^ 32 := by
  refine tileNat_of_bytes fun i hi => ?_
  have hlen : 4 * p + i < (l.flatMap fun x => leBytes x 4).length := by
    have := (List.getElem?_eq_some_iff.1 hp).1
    rw [length_codes]; omega
  rw [tileByte, hk, codeCells, tget_store_inside hT hlen, ← Option.some_inj, ← List.getElem?_eq_getElem, getElem?_codes l hi, hp]
  rfl

end Sys2Proof.Machine

/-! ## What an operation of the matrix engine leaves (R277, R282 to R293) -/

namespace Sys2Proof.Machine

/-! ### Keys of a result -/

section
variable {a rows cols m n : Nat} (hm : m < rows) (hn : n < cols)
include hm hn

/-- A result element stands in an accumulator of the result, at its row and column modulo 256. -/
theorem resultKey_eq : resultKey a rows cols m n = accKey (if 256 < rows ∨ 256 < cols then a + 2 * (m / 256) + n / 256 else a) (m % 256) (n % 256) := by
  unfold resultKey
  split
  · rfl
  · rw [Nat.mod_eq_of_lt (by omega), Nat.mod_eq_of_lt (by omega)]

variable (hr : rows ≤ 512) (hc : cols ≤ 512)
include hr hc

theorem resultKey_acc_mem_quad : resultKey a rows cols m n / 65536 ∈ quad a rows cols := by
  rw [resultKey_eq hm hn, quad, accKey]
  split <;> simp <;> omega

/-- Two result elements have two keys. -/
theorem resultKey_inj {m' n' : Nat} (hm' : m' < rows) (hn' : n' < cols) (h : resultKey a rows cols m n = resultKey a rows cols m' n') :
    m = m' ∧ n = n' := by
  rw [resultKey_eq hm hn, resultKey_eq hm' hn', accKey, accKey] at h
  split at h <;> omega

end

/-- A key's accumulator. -/
theorem accKey_div {a r c : Nat} (hr : r < 256) (hc : c < 256) : accKey a r c / 65536 = a := by
  unfold accKey; omega

theorem accKey_inj {a a' r r' c c' : Nat} (hr : r < 256) (hc : c < 256) (hr' : r' < 256) (hc' : c' < 256) (h : accKey a r c = accKey a' r' c') :
    a = a' ∧ r = r' ∧ c = c' := by
  unfold accKey at h; omega

/-! ### Values for each result element -/

section
variable {e : MEntry} {f : Nat → Nat → Nat → Nat}

theorem mem_eachResult {p : Nat × BitVec 32} : p ∈ eachResult e f ↔ ∃ m < e.m, ∃ n < e.n,
    p = (resultKey e.acc e.m e.n m n, BitVec.ofNat 32 (f m n (resultKey e.acc e.m e.n m n))) := by
  simp [eachResult, List.mem_flatMap, eq_comm]

variable {T : Tab (BitVec 32)} (hT : twf 0 T = true) (hr : e.m ≤ 512) (hc : e.n ≤ 512)
include hT hr hc

theorem tget_eachResult {m n : Nat} (hm : m < e.m) (hn : n < e.n) : (tget 0 (tsetMany 0 T (eachResult e f)) (resultKey e.acc e.m e.n m n)).toNat
    = f m n (resultKey e.acc e.m e.n m n) % 2 ^ 32 := by
  rw [tget_tsetMany_of_mem hT (mem_eachResult.2 ⟨m, hm, n, hn, rfl⟩) fun p hp hk => ?_, BitVec.toNat_ofNat]
  obtain ⟨m', hm', n', hn', rfl⟩ := mem_eachResult.1 hp
  obtain ⟨rfl, rfl⟩ := resultKey_inj hm' hn' hr hc hm hn hk
  rfl

theorem tget_eachResult_outside {key : Nat} (hk : key / 65536 ∉ quad e.acc e.m e.n) : tget 0 (tsetMany 0 T (eachResult e f)) key = tget 0 T key := by
  refine tget_tsetMany_of_ne hT fun p hp hpk => hk ?_
  obtain ⟨m, hm, n, hn, rfl⟩ := mem_eachResult.1 hp
  exact hpk ▸ resultKey_acc_mem_quad hm hn hr hc

end

/-! ### The registers after a landing -/

section
variable (k : Core) (e : MEntry) (r : MRes)

/-- The accumulators before the elements of the result. -/
def MEntry.accBase (e : MEntry) (k : Core) : Tab (BitVec 32) :=
  if e.op = .mzero then tclear k.acc (e.acc * 65536) (e.acc * 65536 + 65536) else k.acc

/-- The tiles before the bytes of the result. -/
def MEntry.tileBase (e : MEntry) (k : Core) : Tab Byte :=
  if e.op = .ldt then tsetMany 0 k.tile (Memory.cellsOf (e.ta * 65536) (e.data.getD [])) else k.tile

theorem landMatrix_acc : (k.landMatrix e r).acc = tsetMany 0 (e.accBase k) r.acc := by
  unfold Core.landMatrix MEntry.accBase
  cases e.op <;> cases r.poisoned <;> rfl

theorem landMatrix_tile : (k.landMatrix e r).tile = tsetMany 0 (e.tileBase k) r.tile := by
  unfold Core.landMatrix MEntry.tileBase
  cases e.op <;> cases r.poisoned <;> rfl

theorem landMatrix_peak (h : e.op = .mzero) : (tget {} (k.landMatrix e r).peaks e.acc).now = 0 := by
  have hp : (k.landMatrix e r).peaks = tput k.peaks e.acc ⟨0, [], (tget ({} : Peak) k.peaks e.acc).pend⟩ := by
    unfold Core.landMatrix
    rw [h]
    cases r.poisoned <;> rfl
  rw [hp, Laws.tget_tput_same]

theorem accBase_of_ne (h : e.op ≠ .mzero) : e.accBase k = k.acc := if_neg h

theorem tileBase_of_ne (h : e.op ≠ .ldt) : e.tileBase k = k.tile := if_neg h

variable {k}

theorem twf_accBase (h : twf 0 k.acc = true) : twf 0 (e.accBase k) = true := by
  unfold MEntry.accBase
  split
  · exact Laws.twf_tclear _ _ h
  · exact h

theorem twf_tileBase (h : twf 0 k.tile = true) : twf 0 (e.tileBase k) = true := by
  unfold MEntry.tileBase
  split
  · exact Laws.twf_tsetMany _ h
  · exact h

end

/-! ### What an operation computes, by its kind -/

section
variable {s : State} {c : Nat} {e : MEntry}

/-- The accumulator elements that an operation computes. -/
def accResult (s : State) (c : Nat) (e : MEntry) : List (Nat × BitVec 32) := match e.op with
  | .mop => mopResult (getCore s c) e
  | .mlut => mlutResult (getCore s c) e
  | .mlut2 => mlut2Result s c e
  | .mwr => mwrResult e
  | _ => []

theorem matrixResult_acc : (matrixResult s c e).acc = accResult s c e := by
  unfold matrixResult accResult
  cases e.op with
  | mopt => dsimp only; split <;> rfl
  | _ => rfl

/-- The record and master that MOPT writes for record `j`. -/
def optOut (s : State) (c : Nat) (e : MEntry) (q : BitVec 128) (off j : Nat) : Nat × Nat :=
  adamw (hyper (getCore s c) e.tb) (ofLeBytes (localRead s c (qWin q) (off + 16 * j) 16))
    (accAt (getCore s c) (accKey e.acc (16 * e.k + j / 256) (j % 256)))

/-- The tile bytes that an operation computes. -/
def tileResult (s : State) (c : Nat) (e : MEntry) : List (Nat × Byte) := match e.op, e.qin, e.qout with
  | .mpart, _, _ => mpartResult s c e
  | .mopt, some (q, _, _, off), some _ => codeCells (e.ta * 65536) ((List.range (qSize q / 16)).map fun j => (optOut s c e q off j).2)
  | _, _, _ => []

/-- The outputs of MOPT, record by record. -/
theorem optOut_eq_map (q : BitVec 128) (off : Nat) :
    ((List.range (qSize q / 16)).map fun j => adamw (hyper (getCore s c) e.tb) (ofLeBytes (localRead s c (qWin q) (off + 16 * j) 16))
      ((gradients (getCore s c) e (qSize q / 16)).getD j 0)) = (List.range (qSize q / 16)).map (optOut s c e q off) := by
  refine List.map_congr_left fun j hj => ?_
  rw [optOut, gradients, List.getD_eq_getElem?_getD, List.getElem?_map, List.getElem?_range (List.mem_range.1 hj)]
  rfl

theorem matrixResult_tile : (matrixResult s c e).tile = tileResult s c e := by
  unfold matrixResult tileResult
  cases e.op with
  | mopt =>
    match e.qin, e.qout with
    | some (q, i, n, off), some qo =>
      dsimp only
      rw [optOut_eq_map, List.map_map]
      rfl
    | none, _ => rfl
    | some _, none => rfl
  | _ => rfl

theorem matrixResult_ring {q : BitVec 128} {i n off qo : Nat} (h : e.op = .mopt) (hi : e.qin = some (q, i, n, off)) (ho : e.qout = some qo) :
    (matrixResult s c e).ring = Memory.cellsOf (qSlot e.qh (moptSlot s c e qo))
      ((List.range (qSize q / 16)).flatMap fun j => leBytes (optOut s c e q off j).1 16) := by
  unfold matrixResult
  simp only [h, hi, ho]
  rw [optOut_eq_map, List.flatMap_map]

theorem matrixResult_mxfer (h : e.op = .mxfer) : (matrixResult s c e).win = mxferResult (getCore s c) e
    ∧ (matrixResult s c e).peak = .ofNat 32 (maxMag (accCodes (getCore s c) e.acc)) := by
  simp only [matrixResult, h, and_self]

end

end Sys2Proof.Machine

/-! ## Accumulators after a landing (R282 to R289) -/

namespace Sys2Proof.Machine

/-- The registers of core `c` once an operation that starts now has landed. -/
def landed (s : State) (c : Nat) (e : MEntry) : Core := (getCore s c).landMatrix e (matrixResult s c e)

theorem landed_acc (s : State) (c : Nat) (e : MEntry) : (landed s c e).acc = tsetMany 0 (e.accBase (getCore s c)) (accResult s c e) := by
  rw [landed, landMatrix_acc, matrixResult_acc]

theorem landed_tile (s : State) (c : Nat) (e : MEntry) : (landed s c e).tile = tsetMany 0 (e.tileBase (getCore s c)) (tileResult s c e) := by
  rw [landed, landMatrix_tile, matrixResult_tile]

section
variable {s : State} {c : Nat} {e : MEntry} (hacc : twf 0 (getCore s c).acc = true)

/-- MZERO zeroes its accumulator (R282). -/
theorem landed_mzero (hacc : twf 0 (getCore s c).acc = true) (h : e.op = .mzero) {m n : Nat} (hm : m < 256) (hn : n < 256) :
    accAt (landed s c e) (accKey e.acc m n) = 0 := by
  have hr : accResult s c e = [] := by simp [accResult, h]
  rw [accAt, landed_acc, hr, MEntry.accBase, if_pos h]
  exact congrArg BitVec.toNat (Laws.tget_tclear_inside (by unfold accKey; omega) hacc)

theorem elt_lt (x : BitVec 512) (w i : Nat) : elt x w i < 2 ^ w := Nat.mod_lt _ (by positivity)

include hacc

/-- MWR writes its half row (R289). -/
theorem landed_mwr (h : e.op = .mwr) {j : Nat} (hj : j < 128) :
    accAt (landed s c e) (accKey e.acc (e.k % 256) (128 * (e.k / 256) + j)) = elt (e.val.getD (j / 16) 0) 32 (j % 16) := by
  have hr : accResult s c e = mwrResult e := by simp [accResult, h]
  rw [accAt, landed_acc, hr, accBase_of_ne _ _ (by simp [h]), mwrResult]
  rw [tget_tsetMany_of_mem hacc (List.mem_map.2 ⟨j, List.mem_range.2 hj, rfl⟩) fun p hp hk => ?_, BitVec.toNat_ofNat, Nat.mod_eq_of_lt (elt_lt ..)]
  obtain ⟨i, -, rfl⟩ := List.mem_map.1 hp
  obtain rfl : i = j := by simpa only [accKey, Nat.add_left_cancel_iff] using hk
  rfl

/-- An operation with a value for each result element leaves these values there. -/
theorem landed_result {f : Nat → Nat → Nat → Nat} {l : List (Nat × BitVec 32)} (hop : e.op ≠ .mzero) (hr : accResult s c e = l ++ eachResult e f)
    (h512 : e.m ≤ 512 ∧ e.n ≤ 512) {m n : Nat} (hm : m < e.m) (hn : n < e.n) :
    accAt (landed s c e) (resultKey e.acc e.m e.n m n) = f m n (resultKey e.acc e.m e.n m n) % 2 ^ 32 := by
  rw [accAt, landed_acc, hr, accBase_of_ne _ _ hop, tsetMany, List.foldl_append]
  exact tget_eachResult (Laws.twf_tsetMany _ hacc) h512.1 h512.2 hm hn

/-- MOP adds one segment (R283). -/
theorem landed_mop (h : e.op = .mop) (h512 : e.m ≤ 512 ∧ e.n ≤ 512) {m n : Nat} (hm : m < e.m) (hn : n < e.n) :
    let k := getCore s c
    let key := resultKey e.acc e.m e.n m n
    accAt (landed s c e) key = segment (accAt k key)
      ((((List.range 16).map (16 * e.k + ·)).filter (· < shCols e.sa)).map fun j => (tileVal k e.ta e.sa e.la m j).mul (tileVal k e.tb e.sb e.lb j n))
      (if shZ e.sa = 1 ∧ shZ e.sb = 1 then 25 else 48) % 2 ^ 32 := by
  have hr : accResult s c e = [] ++ mopResult (getCore s c) e := by simp [accResult, h]
  rw [mopResult] at hr
  exact landed_result hacc (by simp [h]) hr h512 hm hn

/-- MLUT adds table entries in order (R60). -/
theorem landed_mlut (h : e.op = .mlut) (h512 : e.m ≤ 512 ∧ e.n ≤ 512) {m n : Nat} (hm : m < e.m) (hn : n < e.n) :
    let k := getCore s c
    let key := resultKey e.acc e.m e.n m n
    accAt (landed s c e) key = addAll (accAt k key) ((List.range (shRows e.sa / bK e.b1)).map fun i =>
      tileNat k e.ta (4 * ((i * bK e.b1 + tileIndex k e.tb e.sb (bW e.b1) m i) * shCols e.sa + n)) 4) % 2 ^ 32 := by
  have hr : accResult s c e = [] ++ mlutResult (getCore s c) e := by simp [accResult, h]
  rw [mlutResult] at hr
  exact landed_result hacc (by simp [h]) hr h512 hm hn

section
variable (h : e.op = .mlut2)
include h

/-- The pair table of MLUT2, as it is written. -/
def pairCells (s : State) (c : Nat) (e : MEntry) : List (Nat × BitVec 32) :=
  (List.range (bookAt s c e.b1).k).flatMap fun a => (List.range (bookAt s c e.b2).k).map fun b =>
    (accKey e.aux a b, BitVec.ofNat 32 (pairEntry (bookAt s c e.b1) (bookAt s c e.b2) a b))

omit hacc h in
theorem mem_pairCells {p : Nat × BitVec 32} : p ∈ pairCells s c e ↔ ∃ a < (bookAt s c e.b1).k, ∃ b < (bookAt s c e.b2).k,
    p = (accKey e.aux a b, BitVec.ofNat 32 (pairEntry (bookAt s c e.b1) (bookAt s c e.b2) a b)) := by
  simp [pairCells, List.mem_flatMap, eq_comm]

omit hacc h in
/-- A codebook has at most 256 codewords. -/
theorem bookAt_k_le (b : BitVec 64) : (bookAt s c b).k ≤ 256 := by
  have hb : bits b.toNat 33 32 < 4 := Nat.mod_lt _ (by decide)
  have hw : (bookAt s c b).w ≤ 8 := by simp only [bookAt, bW]; omega
  exact (Nat.pow_le_pow_right (by decide) hw : _ ≤ 2 ^ 8)

/-- MLUT2 gathers from the pair table in order (R61). -/
theorem landed_mlut2_result (h512 : e.m ≤ 512 ∧ e.n ≤ 512) {m n : Nat} (hm : m < e.m) (hn : n < e.n) :
    let k := getCore s c
    let x := bookAt s c e.b1
    let y := bookAt s c e.b2
    let key := resultKey e.acc e.m e.n m n
    accAt (landed s c e) key = addAll (accAt k key) ((List.range e.k).map fun i =>
      pairEntry x y (tileIndex k e.ta e.sa x.w m i) (tileIndex k e.tb e.sb y.w n i)) % 2 ^ 32 := by
  have hr : accResult s c e = mlut2Result s c e := by simp [accResult, h]
  exact landed_result hacc (by simp [h]) hr h512 hm hn

variable (h512 : e.m ≤ 512 ∧ e.n ≤ 512) (haux : e.aux ∉ quad e.acc e.m e.n) {a b : Nat} (ha : a < 256) (hb : b < 256)
include h512 haux ha hb

/-- The table accumulator of MLUT2 lies outside its result: it holds the pair table. -/
theorem landed_mlut2_aux : accAt (landed s c e) (accKey e.aux a b) = (tget 0 (tsetMany 0 (getCore s c).acc (pairCells s c e)) (accKey e.aux a b)).toNat := by
  have hr : accResult s c e = mlut2Result s c e := by simp [accResult, h]
  rw [accAt, landed_acc, hr, accBase_of_ne _ _ (by simp [h]), mlut2Result, tsetMany, List.foldl_append]
  exact congrArg BitVec.toNat (tget_eachResult_outside (Laws.twf_tsetMany _ hacc) h512.1 h512.2 (by rwa [accKey_div ha hb]))

theorem landed_mlut2_pair (hx : a < (bookAt s c e.b1).k) (hy : b < (bookAt s c e.b2).k) :
    accAt (landed s c e) (accKey e.aux a b) = pairEntry (bookAt s c e.b1) (bookAt s c e.b2) a b % 2 ^ 32 := by
  rw [landed_mlut2_aux hacc h h512 haux ha hb, tget_tsetMany_of_mem hacc (mem_pairCells.2 ⟨a, hx, b, hy, rfl⟩) fun p hp hk => ?_, BitVec.toNat_ofNat]
  obtain ⟨a', ha', b', hb', rfl⟩ := mem_pairCells.1 hp
  obtain ⟨-, rfl, rfl⟩ := accKey_inj (ha'.trans_le (bookAt_k_le _)) (hb'.trans_le (bookAt_k_le _)) ha hb hk
  rfl

theorem landed_mlut2_rest (hxy : ¬(a < (bookAt s c e.b1).k ∧ b < (bookAt s c e.b2).k)) :
    accAt (landed s c e) (accKey e.aux a b) = accAt (getCore s c) (accKey e.aux a b) := by
  rw [landed_mlut2_aux hacc h h512 haux ha hb, tget_tsetMany_of_ne hacc fun p hp hk => hxy ?_, accAt]
  obtain ⟨a', ha', b', hb', rfl⟩ := mem_pairCells.1 hp
  obtain ⟨-, rfl, rfl⟩ := accKey_inj (ha'.trans_le (bookAt_k_le _)) (hb'.trans_le (bookAt_k_le _)) ha hb hk
  exact ⟨ha', hb'⟩

end

omit hacc in
/-- Every element that an operation computes stands in an accumulator that it writes. -/
theorem accResult_acc_mem (h512 : e.m ≤ 512 ∧ e.n ≤ 512) (hk : e.k < 512) {p : Nat × BitVec 32} (hp : p ∈ accResult s c e) : p.1 / 65536 ∈ e.accsW := by
  have each {f} (hp : p ∈ eachResult e f) : p.1 / 65536 ∈ quad e.acc e.m e.n := by
    obtain ⟨m, hm, n, hn, rfl⟩ := mem_eachResult.1 hp
    exact resultKey_acc_mem_quad hm hn h512.1 h512.2
  cases ho : e.op with
  | mzero | mpart | ldt | mxfer | mopt => simp [accResult, ho] at hp
  | mop =>
    simp only [accResult, ho, mopResult, MEntry.accsW] at hp ⊢
    exact each hp
  | mlut =>
    simp only [accResult, ho, mlutResult, MEntry.accsW] at hp ⊢
    exact each hp
  | mlut2 =>
    simp only [accResult, ho, mlut2Result, MEntry.accsW, List.mem_append] at hp ⊢
    obtain hp | hp := hp
    · obtain ⟨a, ha, b, hb, rfl⟩ := mem_pairCells.1 hp
      exact List.mem_cons.2 (.inl (accKey_div (ha.trans_le (bookAt_k_le _)) (hb.trans_le (bookAt_k_le _))))
    · exact List.mem_cons_of_mem _ (each hp)
  | mwr =>
    simp only [accResult, ho, mwrResult, MEntry.accsW] at hp ⊢
    obtain ⟨j, hj, rfl⟩ := List.mem_map.1 hp
    have := List.mem_range.1 hj
    exact List.mem_singleton.2 (accKey_div (by omega) (by omega))

/-- Accumulators that an operation does not write keep their values. -/
theorem landed_acc_other (h512 : e.m ≤ 512 ∧ e.n ≤ 512) (hk : e.k < 512) {a m n : Nat} (hm : m < 256) (hn : n < 256) (ha : a ∉ e.accsW) :
    accAt (landed s c e) (accKey a m n) = accAt (getCore s c) (accKey a m n) := by
  rw [accAt, landed_acc, tget_tsetMany_of_ne (twf_accBase e hacc) fun p hp hpk => ha ?_, accAt, MEntry.accBase]
  · split
    · next ho =>
      have : a ≠ e.acc := fun h => ha (by simp [MEntry.accsW, ho, h])
      exact congrArg BitVec.toNat (Laws.tget_tclear_outside (by unfold accKey; omega) hacc)
    · rfl
  · have := accResult_acc_mem h512 hk hp
    rwa [hpk, accKey_div hm hn] at this

end

end Sys2Proof.Machine

/-! ## Tiles, the window and the ring after a landing (R250, R286, R290 to R292) -/

namespace Sys2Proof.Machine

/-! ### The largest magnitude (R290) -/

theorem maxMag_concat (l : List Nat) (c : Nat) :
    maxMag (l ++ [c]) = if maxMag l < c % 2 ^ 31 ∧ c % 2 ^ 31 ≤ 0x7F800000 then c % 2 ^ 31 else maxMag l := by
  simp [maxMag]

/-- It is the largest of the magnitudes that are no NaN, or 0. -/
theorem maxMag_spec (l : List Nat) : maxMag l ≤ 0x7F800000 ∧ (∀ c ∈ l, c % 2 ^ 31 ≤ 0x7F800000 → c % 2 ^ 31 ≤ maxMag l)
    ∧ (maxMag l = 0 ∨ ∃ c ∈ l, c % 2 ^ 31 = maxMag l) := by
  induction l using List.reverseRecOn with
  | nil => simp [maxMag]
  | append_singleton l c ih =>
    obtain ⟨hle, hmax, hat⟩ := ih
    rw [maxMag_concat]
    split
    · next h =>
      refine ⟨h.2, fun d hd hd' => ?_, .inr ⟨c, by simp, rfl⟩⟩
      obtain hd | rfl := (List.mem_append.1 hd).imp_right List.mem_singleton.1
      · exact (hmax d hd hd').trans h.1.le
      · exact le_rfl
    · next h =>
      refine ⟨hle, fun d hd hd' => ?_, hat.imp_right fun ⟨d, hd, he⟩ => ⟨d, List.mem_append_left _ hd, he⟩⟩
      obtain hd | rfl := (List.mem_append.1 hd).imp_right List.mem_singleton.1
      · exact hmax d hd hd'
      · exact not_lt.1 fun hlt => h ⟨hlt, hd'⟩

/-- The codes of an accumulator are those of its elements. -/
theorem mem_accCodes {k : Core} {a x : Nat} : x ∈ accCodes k a ↔ ∃ m < 256, ∃ n < 256, x = accAt k (accKey a m n) := by
  rw [accCodes, List.mem_map]
  constructor
  · rintro ⟨i, hi, rfl⟩
    have := List.mem_range.1 hi
    exact ⟨i / 256, by omega, i % 256, by omega, congrArg (accAt k) (by unfold accKey; omega)⟩
  · rintro ⟨m, hm, n, hn, rfl⟩
    exact ⟨m * 256 + n, List.mem_range.2 (by omega), congrArg (accAt k) (by unfold accKey; omega)⟩

/-! ### Cells of codes -/

theorem getElem?_cellsOf (a : Nat) (bs : List Byte) (i : Nat) : (Memory.cellsOf a bs)[i]? = bs[i]?.map fun b => (a + i, b) := by
  rw [Memory.cellsOf, List.getElem?_zipWith]
  by_cases h : i < bs.length <;> simp [h]

/-- Codes in a row, as cells. -/
theorem codeCells_map_range (base n : Nat) (f : Nat → Nat) : codeCells base ((List.range n).map f)
    = (List.range n).flatMap fun j => (List.range 4).map fun i => (base + (4 * j + i), BitVec.ofNat 8 (f j / 256 ^ i)) := by
  refine List.ext_getElem? fun x => ?_
  have hx : x % 4 < 4 := Nat.mod_lt _ (by decide)
  have hp : 4 * (x / 4) + x % 4 = x := Nat.div_add_mod x 4
  rw [codeCells, getElem?_cellsOf, ← hp, getElem?_codes _ hx, getElem?_flatMap_blocks (fun _ => by simp) hx]
  by_cases h : x / 4 < n <;> simp [h, hx]

section
variable {s : State} {c : Nat} {e : MEntry}

/-- The window cells of MXFER (R291). -/
theorem matrixResult_win (h : e.op = .mxfer) : (matrixResult s c e).win = (List.range 256).flatMap fun m => (List.range 256).flatMap fun n => (List.range 4).map fun i =>
    (e.aux + 4 * ((256 * (e.k / 2) + m) * 512 + 256 * (e.k % 2) + n) + i, BitVec.ofNat 8 (accAt (getCore s c) (accKey e.acc m n) / 256 ^ i)) := by
  rw [(matrixResult_mxfer h).1, mxferResult]
  refine List.flatMap_congr fun m _ => ?_
  rw [codeCells_map_range]
  refine List.flatMap_congr fun n _ => List.map_congr_left fun i _ => ?_
  exact congrArg (·, _) (by omega)

/-- What MXFER contributes to the peak register (R290). -/
theorem matrixResult_peak (h : e.op = .mxfer) : (matrixResult s c e).peak.toNat = maxMag (accCodes (getCore s c) e.acc) := by
  rw [(matrixResult_mxfer h).2, BitVec.toNat_ofNat, Nat.mod_eq_of_lt]
  exact lt_of_le_of_lt (maxMag_spec _).1 (by decide)

variable (htile : twf 0 (getCore s c).tile = true)
include htile

/-- MPART writes the table of exact sums (R59, R286). -/
theorem landed_mpart (h : e.op = .mpart) {i n : Nat} (hi : i < shRows e.sa) (hn : n < shCols e.sa) :
    let x := bookAt s c e.b1
    tileNat (landed s c e) e.ta (4 * (i * shCols e.sa + n)) 4 = sumRound ((List.range x.d).map fun j =>
      (x.qx (i % x.k) j).mul (tileVal (getCore s c) e.tb e.sb e.lb (i / x.k * x.d + j) n)) % 2 ^ 32 := by
  have hr : tileResult s c e = mpartResult s c e := by simp [tileResult, h]
  rw [mpartResult] at hr
  refine tileNat_codeCells htile (by rw [landed_tile, tileBase_of_ne _ _ (by simp [h]), hr]) ?_
  rw [mul_comm i, getElem?_rows _ hi hn]

/-- LDT writes its bytes (R250). -/
theorem landed_ldt {d : List Byte} (h : e.op = .ldt) (hd : e.data = some d) {i : Nat} (hi : i < d.length) :
    tileByte (landed s c e) e.ta i = d.getD i 0 := by
  have hr : tileResult s c e = [] := by simp [tileResult, h]
  rw [tileByte, landed_tile, hr, MEntry.tileBase, if_pos h, hd, Option.getD_some]
  exact (tget_store_inside htile hi).trans (List.getElem_eq_getD 0)

/-- MOPT writes the masters of its records (R292). -/
theorem landed_mopt {q : BitVec 128} {i n off qo j : Nat} (h : e.op = .mopt) (hi : e.qin = some (q, i, n, off)) (ho : e.qout = some qo) (hj : j < qSize q / 16) :
    tileNat (landed s c e) e.ta (4 * j) 4 = (optOut s c e q off j).2 % 2 ^ 32 := by
  have hr : tileResult s c e = codeCells (e.ta * 65536) ((List.range (qSize q / 16)).map fun j => (optOut s c e q off j).2) := by
    simp [tileResult, h, hi, ho]
  refine tileNat_codeCells htile (by rw [landed_tile, tileBase_of_ne _ _ (by simp [h]), hr]) ?_
  simp [hj]

omit htile in
/-- Cells of codes that fit into a tile lie in it. -/
theorem codeCells_tile {t : Nat} {l : List Nat} (hl : 4 * l.length ≤ 65536) {p : Nat × Byte} (hp : p ∈ codeCells (t * 65536) l) : p.1 / 65536 = t := by
  obtain ⟨i, hi, hb⟩ := mem_cellsOf.1 hp
  have := (List.getElem?_eq_some_iff.1 hb).1
  rw [length_codes] at this
  omega

omit htile in
/-- Every byte that an operation computes stands in a tile that it writes. -/
theorem tileResult_tile_mem (hpart : 4 * (shRows e.sa * shCols e.sa) ≤ 65536) (hopt : ∀ q, e.qin = some q → qSize q.1 ≤ 65536)
    {p : Nat × Byte} (hp : p ∈ tileResult s c e) : p.1 / 65536 ∈ e.tilesW := by
  unfold tileResult at hp
  split at hp
  · next ho =>
    simp only [MEntry.tilesW, ho, List.mem_singleton]
    refine codeCells_tile ?_ hp
    rw [length_flatMap_blocks (fun _ => by rw [List.length_map, List.length_range]), List.length_range]
    exact hpart
  · next q _ _ off _ ho hi _ =>
    simp only [MEntry.tilesW, ho, List.mem_singleton]
    refine codeCells_tile ?_ hp
    have := hopt _ hi
    rw [List.length_map, List.length_range]
    dsimp only at this
    omega
  · cases hp

/-- Tiles that an operation does not write keep their bytes. -/
theorem landed_tile_other (hpart : 4 * (shRows e.sa * shCols e.sa) ≤ 65536) (hldt : (e.data.getD []).length ≤ 65536)
    (hopt : ∀ q, e.qin = some q → qSize q.1 ≤ 65536) {t i : Nat} (hi : i < 65536) (ht : t ∉ e.tilesW) :
    tileByte (landed s c e) t i = tileByte (getCore s c) t i := by
  have key : (t * 65536 + i) / 65536 = t := by omega
  rw [tileByte, landed_tile, tget_tsetMany_of_ne (twf_tileBase e htile) fun p hp hpk => ht ?_, tileByte, MEntry.tileBase]
  · split
    · next ho =>
      have : t ≠ e.ta := fun h => ht (by simp [MEntry.tilesW, ho, h])
      exact tget_store_outside htile (by omega)
    · rfl
  · exact key ▸ hpk ▸ tileResult_tile_mem hpart hopt hp

end

end Sys2Proof.Machine

/-! ## The matrix engine (R277, R282 to R293): O34 -/

namespace Sys2Proof.Machine

theorem sumRound_eq : (fun l : List Val => match l with
    | [] => 0
    | p :: t => rne32 (t.foldl Val.add p)) = sumRound := by
  funext l
  cases l <;> rfl

theorem addAll_map {α : Type} (z : Nat) (l : List α) (g : α → Nat) :
    addAll z (l.map g) = l.foldl (fun z i => rne32 ((val32 z).add (val32 (g i)))) z := List.foldl_map

theorem tileIndex_eq (k : Core) (t : Nat) (w : BitVec 64) (iw m i : Nat) :
    tileIndex k t w iw m i = tileNat k t (m * shCols w + 8 * (i / (64 / iw))) 8 / 2 ^ (i % (64 / iw) * iw) % 2 ^ iw := by
  rw [tileIndex, Nat.shiftRight_eq_div_pow]

/-- The largest magnitude of a whole accumulator, element by element. -/
theorem maxMag_accCodes (k : Core) (a : Nat) :
    let p := maxMag (accCodes k a)
    p ≤ 0x7F800000
    ∧ (∀ m n, m < 256 → n < 256 → accAt k (accKey a m n) % 2 ^ 31 ≤ 0x7F800000 → accAt k (accKey a m n) % 2 ^ 31 ≤ p)
    ∧ (p = 0 ∨ ∃ m n, m < 256 ∧ n < 256 ∧ accAt k (accKey a m n) % 2 ^ 31 = p) := by
  obtain ⟨hle, hmax, hat⟩ := maxMag_spec (accCodes k a)
  refine ⟨hle, fun m n hm hn => hmax _ (mem_accCodes.2 ⟨m, hm, n, hn, rfl⟩), hat.imp_right ?_⟩
  rintro ⟨x, hx, he⟩
  obtain ⟨m, hm, n, hn, rfl⟩ := mem_accCodes.1 hx
  exact ⟨m, n, hm, hn, he⟩

/-- Settles O34: the head of the queue by its start and landing rules, the registers after a landing operation by operation, the segment adder and AdamW. -/
theorem matrixEngine : Obligations.MatrixEngine := by
  refine ⟨fun c s e l hc hq => matrix_head hc hq, fun c s e hacc htile => ?_, segment_spec, fun h r g _ => adamw_spec h r g⟩
  intro k r k' at_ elem add sum index x y pair sized
  have hsum : sum = sumRound := sumRound_eq
  have helem (z : Core) {m n : Nat} (hm : m < e.m) (hn : n < e.n) : elem z m n = accAt z (resultKey e.acc e.m e.n m n) :=
    congrArg (accAt z) (resultKey_eq hm hn).symm
  have hpair (a b : Nat) : pair a b = pairEntry x y a b := congrFun hsum _
  refine ⟨fun h => ⟨fun m n hm hn => ?_, ?_⟩, fun h j hj => ?_, fun h h512 m n hm hn => ?_, fun h _ i n hi hn => ?_, fun h h512 m n hm hn => ?_,
    fun h h512 haux => ⟨fun a b ha hb => ?_, fun a b ha hb hab => ?_, fun m n hm hn => ?_⟩, fun d h hd _ i hi => ?_, fun h => ⟨?_, ?_⟩,
    fun q i n off qo h hi ho hs => ⟨fun j hj => ?_, ?_⟩, fun h512 hk a m n hm hn ha => ?_, fun hpart hldt hopt t i hi ht => ?_⟩
  · exact landed_mzero hacc h hm hn
  · exact landMatrix_peak k e r h
  · exact landed_mwr hacc h hj
  · rw [helem k' hm hn, helem k hm hn]
    exact landed_mop hacc h h512 hm hn
  · rw [hsum]
    exact landed_mpart htile h hi hn
  · rw [helem k' hm hn, helem k hm hn]
    have := landed_mlut hacc h h512 hm hn
    simp only [addAll_map, tileIndex_eq] at this
    exact this
  · rw [hpair]
    exact landed_mlut2_pair hacc h h512 haux (ha.trans_le (bookAt_k_le _)) (hb.trans_le (bookAt_k_le _)) ha hb
  · exact landed_mlut2_rest hacc h h512 haux ha hb hab
  · rw [helem k' hm hn, helem k hm hn]
    have := landed_mlut2_result hacc h h512 hm hn
    simp only [addAll_map, tileIndex_eq] at this
    simp only [hpair]
    exact this
  · exact landed_ldt htile h hd hi
  · exact matrixResult_win h
  · rw [← BitVec.toNat_inj, show r.peak.toNat = _ from matrixResult_peak h]
    exact maxMag_accCodes k e.acc
  · exact landed_mopt htile h hi ho hj
  · exact matrixResult_ring h hi ho
  · exact landed_acc_other hacc h512 hk hm hn ha
  · exact landed_tile_other htile hpart hldt hopt hi ht

end Sys2Proof.Machine

/-! ## Special functions, statistics and the search of VNEAR (R57, R236 to R238, Table 11-4): O30 -/

namespace Sys2Proof.Machine

open Encoding (fmtWidth xa)
open Sys2Proof.Laws (clashes_eq_nil issueOp_completes)

/-! ### The cases of Table 11-4 -/

section
variable {f : FFmt} {a : Nat}

/-- A NaN gives the canonical NaN. -/
theorem special_nan (fn : SFun) (h : f.value a = .nan) : special f fn a = f.canonNaN := by
  cases fn <;> simp only [special, h]

/-- The row of +∞. -/
theorem special_posInf (h : f.value a = .inf false) :
    special f .exp2 a = f.infCode ∧ special f .log2 a = f.infCode ∧ special f .rcp a = f.signBit false ∧ special f .rsq a = 0
      ∧ special f .tanh a = f.signBit false + (round f .rne (.fin false 1 0)).code := by
  simp [special, h]

/-- The row of −∞. -/
theorem special_negInf (h : f.value a = .inf true) :
    special f .exp2 a = 0 ∧ special f .log2 a = f.canonNaN ∧ special f .rcp a = f.signBit true ∧ special f .rsq a = f.canonNaN
      ∧ special f .tanh a = f.signBit true + (round f .rne (.fin false 1 0)).code := by
  simp [special, h]

/-- The rows of the two zeros. -/
theorem special_zero {neg : Bool} {e : Int} (h : f.value a = .fin neg 0 e) :
    special f .exp2 a = (round f .rne (.fin false 1 0)).code ∧ special f .log2 a = f.signBit true + f.infCode ∧ special f .rcp a = f.signBit neg + f.infCode
      ∧ special f .rsq a = f.signBit neg + f.infCode ∧ special f .tanh a = f.signBit neg := by
  simp [special, h]

/-- The row of the negative numbers. -/
theorem special_negative {k : Nat} {e : Int} (h : f.value a = .fin true (k + 1) e) : special f .log2 a = f.canonNaN ∧ special f .rsq a = f.canonNaN := by
  simp [special, h]

end

/-! ### VSTAT and VNEAR -/

/-- A special function writes its value of each element. -/
theorem puts_vspecial {i : Instr} {o : VF} {s : State} (fn : SFun) (he : exec i s = vspecial fn o s) :
    let c := o.fmt.toNat
    let w := fmtWidth c
    Puts i s (vresults o.vd.toNat w (512 / w) (ven o s) (fun sec e => special (fmtOf c) fn (velt s o.va w sec e)) 8) :=
  puts_of_vissue he

/-- An array none of whose words is poisoned gives no cause (R373). -/
theorem arrayCause_eq_nil {s : State} {b : BitVec 64}
    (h : ∀ x, bBase b ≤ x → x < bBase b + bBytes b → s.core.scratchPoison.contains (x / 16) = false) : arrayCause s b = [] := by
  have hnone : ((List.range (bBytes b)).map (bBase b + ·)).find? (localPoisoned s s.coreId false) = none := by
    refine List.find?_eq_none.2 fun x hx => ?_
    obtain ⟨i, hi, rfl⟩ := List.mem_map.1 hx
    rw [List.mem_range] at hi
    have := h (bBase b + i) (by omega) (by omega)
    simpa [localPoisoned, getCore] using this
  unfold arrayCause poisonCause
  rw [hnone]
  exact ite_self _

/-- Some element of the 32 of some section is enabled exactly where one is found. -/
theorem anyEn_true_iff {n : Nat} {en : Nat → Nat → Bool} : (anyEn n en fun _ _ => true) = true ↔ ∃ sec e, sec < 8 ∧ e < n ∧ en sec e = true := by
  have hsec (sec : Nat) : sec ∈ sections ↔ sec < 8 := by
    rw [show sections = List.range 8 from rfl, List.mem_range]
  simp only [anyEn, List.any_eq_true, List.mem_range, Bool.and_true, hsec]
  exact ⟨fun ⟨sec, hs, e, he⟩ => ⟨sec, e, hs, he⟩, fun ⟨sec, e, hs, he⟩ => ⟨sec, hs, e, he⟩⟩

/-- VNEAR through a valid binding whose array is sound searches its book (R57, R238). -/
theorem putsWith_vnear {o : VF} {s : State} (hv : bValid (s.ctx.B (xa o)) = true) (ha : arrayCause s (s.ctx.B (xa o)) = []) :
    let b := s.ctx.B (xa o)
    let w := fmtWidth o.fmt.toNat
    let g := 512 / w / bD b
    let near (sec i : Nat) := search (bookAt s s.coreId b).rounded ((List.range (bD b)).map fun j => elemVal o.fmt.toNat (velt s o.va w sec (i * bD b + j)))
    PutsWith (.vnear o) s
      ((vresults o.vd.toNat 16 32 (ven o s) (fun sec e => if e < g then (near sec e).1 else 0) (8 + (bK b * bD b + 15) / 16)).map fun f => { f with via := b })
      (fun x => x.flag fUNENC (anyEn g (ven o s) fun sec i => (near sec i).2)) := by
  intro b w g near hc
  have he : exec (.vnear o) s = execVnear o s := rfl
  rw [he, execVnear]
  refine issueOp_completes rfl rfl ?_
  rw [ha, if_pos hv, clashes_eq_nil.2 hc]
  exact ite_self _

/-- VNEAR through a binding that is not valid faults where an element is enabled (R341; log entry 59). -/
theorem exec_vnear_invalid {o : VF} {s : State} (hv : bValid (s.ctx.B (xa o)) = false) (hen : ∃ sec e, sec < 8 ∧ e < 32 ∧ ven o s sec e = true) :
    exec (.vnear o) s = .next (takeFault
      { cls := 1, code := 0xD, slots := 1 <<< vslotOf o, addr := encode (.vnear o), info := .ofNat 32 (xa o) } s) := by
  have he : exec (.vnear o) s = execVnear o s := rfl
  rw [he, execVnear]
  simp only [anyEn_true_iff.2 hen, hv]
  rfl

/-- Settles O30: Table 11-4 row by row, the updates that VSTAT notes, and VNEAR by the validity of its binding. -/
theorem specialFunctions : Obligations.SpecialFunctions := by
  refine fun o s => ⟨?_, ?_, rfl, rfl, fun hv hp => putsWith_vnear hv (arrayCause_eq_nil hp), exec_vnear_invalid⟩
  · intro r hr
    simp only [List.mem_cons, List.not_mem_nil, or_false] at hr
    rcases hr with rfl | rfl | rfl | rfl | rfl <;> exact puts_vspecial _ rfl
  · intro g hg
    simp only [List.mem_cons, List.not_mem_nil, or_false] at hg
    rcases hg with rfl | rfl | rfl <;>
      exact ⟨fun fn a => special_nan fn, fun a => special_posInf, fun a => special_negInf, fun a neg e => special_zero, fun a k e => special_negative, by decide⟩

end Sys2Proof.Machine

/-! ## Codebook, stitch and page commands enter their queues (R50, R53, R54, R62, R97 to R101, R262 to R267): O44 -/

namespace Sys2Proof.Machine

open Sys2Proof.Laws (chk_eq_nil chk_true await_eq_nil queues_of_issueOp issueOp_completes)

/-! ### Checks that raise nothing -/

section
variable {s : State} {i : Nat}

/-- A queue with room is no wait (R255). -/
theorem engineWait_eq_nil {e : Nat} (h : queuedCmds s.core e < 16) : engineWait s e = [] := await_eq_nil (decide_eq_true h)

/-- A local ring can be a completion ring. -/
theorem completionRing_eq_nil {q : Nat} (h : qLocal (s.ctx.Q q) = true) : completionRing s q = [] := chk_eq_nil.2 h

/-- A word within its limits. -/
theorem wordLimit_eq_nil {j : Instr} {ok : Bool} {w : BitVec 64} (h : ok = true) : wordLimit j ok w = [] := chk_eq_nil.2 h

/-- A condition of CLASS 0x06 that holds. -/
theorem cause6_eq_nil {ok : Bool} {code : Nat} (h : ok = true) : cause6 s ok code = [] := chk_eq_nil.2 h

theorem aligned_eq_nil {v n : Nat} (h : v % n = 0) : aligned v n = [] := chk_eq_nil.2 (beq_iff_eq.2 h)

/-- One run within a limit has no offset outside. -/
theorem firstOutside_single {limit a n : Nat} (h : a + n ≤ limit) : firstOutside limit [(a, n)] = none := by
  simp [firstOutside, h]

theorem inPage_eq_nil {h : BitVec 64} {a n : Nat} (ha : a + n ≤ hBytes h) : inPage h [(a, n)] = [] := by
  simp [inPage, firstOutside_single ha]

theorem privRecord_eq_nil {off n al : Nat} (ha : off % al = 0) (hn : off + n ≤ 0x400000) : privRecord off n al = [] := by
  simp [privRecord, aligned_eq_nil ha, inSpace, firstOutside_single hn]

/-- A handle that the function may use raises nothing for a read; for a write it needs W and a TIER other than 1. -/
theorem handleCause_eq_nil {write : Bool} (hv : hValid (s.ctx.H i) = true) (ht : hTier (s.ctx.H i) = 3 → 2 ≤ fSclim s s.ctx.func.toNat)
    (hw : write = true → hW (s.ctx.H i) = true ∧ hTier (s.ctx.H i) ≠ 1) : handleCause s i write = [] := by
  have h5 : (!write || (hW (s.ctx.H i) && hTier (s.ctx.H i) != 1)) = true := by
    cases write with
    | false => rfl
    | true => simpa using hw rfl
  have h8 : (hTier (s.ctx.H i) != 3 || decide (2 ≤ fSclim s s.ctx.func.toNat)) = true := by
    by_cases h : hTier (s.ctx.H i) = 3
    · simp [ht h]
    · simp [h]
  simp [handleCause, hv, h5, h8]

end

/-! ### Codebook commands -/

section
variable {o : EF} {s : State} (hg : sguard o.guard s.ctx = true)

/-- The handle of a descriptor, its place and its bytes are good (R266; log entry 60). -/
structure DescriptorOk (o : EF) (s : State) : Prop where
  valid : hValid (s.ctx.H o.h.toNat) = true
  tier3 : hTier (s.ctx.H o.h.toNat) = 3 → 2 ≤ fSclim s s.ctx.func.toNat
  writes : hW (s.ctx.H o.h.toNat) = true
  tier1 : hTier (s.ctx.H o.h.toNat) ≠ 1
  place : (gA o s).toNat % 64 = 0
  room : (gA o s).toNat + 320 ≤ hBytes (s.ctx.H o.h.toNat)

theorem descriptor_eq_nil (h : DescriptorOk o s) : descriptor o s = [] := by
  simp only [descriptor, handleCause_eq_nil h.valid h.tier3 fun _ => ⟨h.writes, h.tier1⟩, aligned_eq_nil h.place, inPage_eq_nil h.room, List.append_nil]

include hg

/-- ENC (R62, R265). -/
theorem queues_enc :
    let es := stagingRun o 3 s
    let bs := s.ctx.B (o.ga.toNat % 8)
    let bd := s.ctx.B (o.gb.toNat % 8)
    let h := s.ctx.H o.h.toNat
    let h2 := s.ctx.H (bits (word es 1).toNat 63 60)
    let f := s.ctx.func.toNat
    let g := bits (word es 2).toNat 23 0
    let rows := bits (word es 2).toNat 47 24
    let ns := codedTensor (bW bs) rows g
    let nd := codedTensor (bW bd) rows g
    let x := hBase h + devOff (word es 0)
    let y := hBase h2 + devOff (word es 1)
    qLocal (s.ctx.Q o.qc.toNat) = true → queuedCmds s.core 1 < 16 → bits (word es 0).toNat 63 40 = 0 → bits (word es 1).toNat 59 40 = 0 → bits (word es 2).toNat 63 48 = 0 →
      devOff (word es 0) % 8 = 0 → devOff (word es 1) % 8 = 0 → g ≠ 0 → rows ≠ 0 →
      hValid h = true → hTier h = 0 → hValid h2 = true → hTier h2 = 0 → hW h2 = true → bValid bs = true → bValid bd = true → bD bs = bD bd →
      devOff (word es 0) + ns ≤ hBytes h → devOff (word es 1) + nd ≤ hBytes h2 → (x = y ∧ bW bs = bW bd ∨ x + ns ≤ y ∨ y + nd ≤ x) →
      Queues (.enc o) s (addRef f (bId bd) (bVer bd) (addRef f (bId bs) (bVer bs) s)) .enc 1 (some o.qc.toNat)
        fun m => m.h = h ∧ m.h2 = h2 ∧ m.es = es ∧ m.b1 = bs ∧ m.b2 = bd := by
  intro es bs bd h h2 f g rows ns nd x y hq he hf0 hf1 hf2 ha0 ha1 hg0 hr0 hv ht hv2 ht2 hw2 hbs hbd hd hn hn2 hover
  have hc0 : handleCause s o.h.toNat false = [] := handleCause_eq_nil hv (by simp [show hTier (s.ctx.H o.h.toNat) = 0 from ht]) nofun
  have hc2 : handleCause s (bits (word es 1).toNat 63 60) true = [] :=
    handleCause_eq_nil hv2 (by simp [show hTier (s.ctx.H _) = 0 from ht2]) fun _ => ⟨hw2, by simp [show hTier (s.ctx.H _) = 0 from ht2]⟩
  have hov : (!(hValid h && hValid h2) || (x == y && bW bs == bW bd) || !(decide (x < y + nd) && decide (y < x + ns))) = true := by
    rcases hover with ⟨hxy, hw⟩ | hlt | hlt
    · simp [hxy, hw]
    · simp [show ¬ y < x + ns by omega]
    · simp [show ¬ x < y + nd by omega]
  refine ⟨{ newCmd s .enc 1 (some o.qc.toNat) with at_ := atTick o s, h := h, h2 := h2, es := es, b1 := bs, b2 := bd }, ?_,
    rfl, rfl, rfl, rfl, rfl, rfl, rfl, rfl, rfl, rfl, rfl, rfl, rfl⟩
  have hx : exec (.enc o) s = execEnc o s := rfl
  rw [hx, execEnc]
  refine issueOp_completes hg (engineWait_eq_nil he) ?_
  have hb : (bValid bs && bValid bd) = true := by simp [hbs, hbd]
  rw [if_pos hb]
  simp only [List.append_eq_nil_iff, and_assoc]
  exact ⟨completionRing_eq_nil hq, wordLimit_eq_nil (beq_iff_eq.2 hf0), wordLimit_eq_nil (beq_iff_eq.2 hf1), aligned_eq_nil ha0, aligned_eq_nil ha1,
    wordLimit_eq_nil (by simpa using And.intro (And.intro hf2 hg0) hr0), hc0, hc2, cause6_eq_nil hb, cause6_eq_nil (beq_iff_eq.2 hd), inPage_eq_nil hn, inPage_eq_nil hn2,
    cause6_eq_nil (by simpa using And.intro (Or.inr ht) (Or.inr ht2)), cause6_eq_nil hov⟩

/-- CBIND of either kind (R50, R262). -/
theorem queues_cbind {float : Bool} {j : Nat} :
    let ga := gA o s
    let f := s.ctx.func.toNat
    let b := o.h.toNat % 8
    let x := slotWord s f (bId ga) j
    let hd := header s f (svHdr x)
    let new := mkBinding (bId ga) (svVer x) hd float (bits ga.toNat 63 50)
    qLocal (s.ctx.Q o.qc.toNat) = true → queuedCmds s.core 0 < 16 → bValid (s.ctx.B b) = false → bits ga.toNat 49 32 = 0 → (float = true → bits ga.toNat 31 16 = 0) →
      cbindSlot s float ga = some j → entryCause s f (bId ga) = none → readCause s f (svHdr x) 64 = none → bBase ga + bits hd 159 144 ≤ 0x400000 →
      Queues (if float then .cbindFloat o else .cbindPin o) s (addRef f (bId ga) (bVer new) { s with ctx := s.ctx.setB b new }) .cbind 0 (some o.qc.toNat)
        fun m => m.aux = b ∧ m.b1 = new ∧ m.ga = .ofNat 64 (svHdr x) := by
  intro ga f b x hd new hq he hb h49 h31 hj hent hrd hroom
  refine ⟨{ newCmd s .cbind 0 (some o.qc.toNat) with aux := b, b1 := new, ga := .ofNat 64 (svHdr x) }, ?_, rfl, rfl, rfl, rfl, rfl, rfl, rfl, rfl, rfl, rfl, rfl⟩
  have hx : exec (if float then .cbindFloat o else .cbindPin o) s = cbind o float s := by cases float <;> rfl
  rw [hx, cbind, hj]
  refine issueOp_completes hg (engineWait_eq_nil he) ?_
  have hform : (bits ga.toNat 49 32 == 0 && (!float || bits ga.toNat 31 16 == 0)
      && ((some j).isNone || decide (bBase ga + bits hd 159 144 ≤ 0x400000))) = true := by
    cases float with
    | false => simp [h49, hroom]
    | true => simp [h49, h31 rfl, hroom]
  simp only [List.append_eq_nil_iff, and_assoc]
  exact ⟨completionRing_eq_nil hq, cause6_eq_nil (by simpa using hb), cause6_eq_nil rfl, cause6_eq_nil hform, by simpa using hent, by simpa using hrd⟩

/-- A command that names no further effect enters its queue where nothing waits and no check raises a cause. -/
theorem queues_of_issueCmd {i : Instr} {op : Op} {eng : Nat} {p : Cmd → Prop} {causes : List Cause} {m : Cmd}
    (hx : exec i s = issueCmd o (engineWait s eng) causes m s) (he : queuedCmds s.core eng < 16) (hc : causes = [])
    (hm : m.op = op ∧ m.eng = eng ∧ m.ring = some o.qc.toNat ∧ m.ctx = s.ctxId ∧ m.task = s.ctx.task ∧ m.func = s.ctx.func.toNat ∧ m.pc = s.ctx.pc
      ∧ m.phase = .queued ∧ p m) : Queues i s s op eng (some o.qc.toNat) p :=
  queues_of_issueOp hx hg (engineWait_eq_nil he) hc rfl hm

/-- CBREV (R263). -/
theorem queues_cbrev :
    let ga := gA o s
    qLocal (s.ctx.Q o.qc.toNat) = true → queuedCmds s.core 1 < 16 → (gB o s).toNat % 8 = 0 ∧ (gB o s).toNat + 8 ≤ 0x400000 →
      bVer ga = 0 → bFloat ga = false → bValid ga = false → bFmt ga ∈ [6, 8, 9, 10] → bBase ga + bBytes ga ≤ 0x400000 →
      Queues (.cbrev o) s s .cbrev 1 (some o.qc.toNat) fun m => m.ga = ga ∧ m.gb = gB o s := by
  intro ga hq he hr hver hfl hv hfmt hroom
  refine queues_of_issueCmd hg rfl he ?_ ⟨rfl, rfl, rfl, rfl, rfl, rfl, rfl, rfl, rfl, rfl⟩
  simp only [List.append_eq_nil_iff, and_assoc]
  refine ⟨completionRing_eq_nil hq, privRecord_eq_nil hr.1 hr.2, cause6_eq_nil ?_⟩
  have hc : [6, 8, 9, 10].contains (bFmt ga) = true := List.contains_iff_mem.2 hfmt
  simp [ga] at hver hfl hv hc hroom
  simp [hver, hfl, hv, hc, hroom]

/-! ### Stitch and page commands -/

omit hg in
/-- The checks that a SPLICE and a PIN share. -/
theorem stitch_checks (hq : qLocal (s.ctx.Q o.qc.toNat) = true) (hd : DescriptorOk o s) (hr : (gB o s).toNat % 32 = 0 ∧ (gB o s).toNat + 32 ≤ 0x400000) :
    completionRing s (ringC o) ++ descriptor o s ++ privRecord (gB o s).toNat 32 32 = [] := by
  simp only [List.append_eq_nil_iff, and_assoc]
  exact ⟨completionRing_eq_nil hq, descriptor_eq_nil hd, privRecord_eq_nil hr.1 hr.2⟩

/-- SPLICE of either kind waits for every outstanding write of its context (R98; log entry 37). -/
theorem queues_splice {i : Instr} {trap : Bool} (hx : exec i s = spliceCmd o trap s) (he : queuedCmds s.core 2 < 16)
    (hq : qLocal (s.ctx.Q o.qc.toNat) = true) (hd : DescriptorOk o s) (hr : (gB o s).toNat % 32 = 0 ∧ (gB o s).toNat + 32 ≤ 0x400000) :
    Queues i s s .splice 2 (some o.qc.toNat) fun m => m.sub = (if trap then 1 else 0) ∧ m.ga = headPa o s ∧ m.gb = gB o s
      ∧ ∀ w ∈ outstandingWrites s.core s.ctxId, w ∈ m.holds :=
  queues_of_issueCmd hg hx he (stitch_checks hq hd hr) ⟨rfl, rfl, rfl, rfl, rfl, rfl, rfl, rfl, rfl, rfl, rfl, fun _ hw => List.mem_append_right _ hw⟩

/-- PIN (R99). -/
theorem queues_pin (he : queuedCmds s.core 2 < 16) (hq : qLocal (s.ctx.Q o.qc.toNat) = true) (hd : DescriptorOk o s)
    (hr : (gB o s).toNat % 32 = 0 ∧ (gB o s).toNat + 32 ≤ 0x400000) (hp : pinCount s < 16) :
    Queues (.pin o) s s .pin 2 (some o.qc.toNat) fun m => m.ga = headPa o s ∧ m.gb = gB o s := by
  refine queues_of_issueCmd hg rfl he ?_ ⟨rfl, rfl, rfl, rfl, rfl, rfl, rfl, rfl, rfl, rfl⟩
  rw [stitch_checks hq hd hr, cause6_eq_nil (decide_eq_true hp)]
  rfl

/-- SHARE (R101, R266). -/
theorem queues_share (he : queuedCmds s.core 2 < 16) (hq : qLocal (s.ctx.Q o.qc.toNat) = true) (hv : hValid (s.ctx.H o.h.toNat) = true)
    (ht : hTier (s.ctx.H o.h.toNat) = 3 → 2 ≤ fSclim s s.ctx.func.toNat) (hp : hPsz (s.ctx.H o.h.toNat) = 0)
    (hr : (gB o s).toNat % 8 = 0 ∧ (gB o s).toNat + 8 ≤ 0x400000) :
    Queues (.share o) s s .share 2 (some o.qc.toNat) fun m => m.h = s.ctx.H o.h.toNat ∧ m.gb = gB o s := by
  refine queues_of_issueCmd hg rfl he ?_ ⟨rfl, rfl, rfl, rfl, rfl, rfl, rfl, rfl, rfl, rfl⟩
  simp only [List.append_eq_nil_iff, and_assoc]
  exact ⟨completionRing_eq_nil hq, handleCause_eq_nil hv ht nofun, by simp [hv, hp], privRecord_eq_nil hr.1 hr.2⟩

/-- PGALLOC at supervisor level (R267, R353). -/
theorem queues_pgalloc (he : queuedCmds s.core 3 < 16) (hq : qLocal (s.ctx.Q o.qc.toNat) = true) (hs : s.ctx.supv = true)
    (hf : bits (gA o s).toNat 4 0 ≤ 16) (hr : (gB o s).toNat % 8 = 0 ∧ (gB o s).toNat + 8 ≤ 0x400000) :
    Queues (.pgalloc o) s s .pgalloc 3 (some o.qc.toNat) fun m => m.ga = .ofNat 64 (bits (gA o s).toNat 4 0) ∧ m.gb = gB o s := by
  refine queues_of_issueCmd hg rfl he ?_ ⟨rfl, rfl, rfl, rfl, rfl, rfl, rfl, rfl, rfl, rfl⟩
  simp only [List.append_eq_nil_iff, and_assoc]
  exact ⟨chk_eq_nil.2 hs, completionRing_eq_nil hq, wordLimit_eq_nil (decide_eq_true hf), privRecord_eq_nil hr.1 hr.2⟩

/-- PGFREE at supervisor level (R267, R353). -/
theorem queues_pgfree (he : queuedCmds s.core 3 < 16) (hq : qLocal (s.ctx.Q o.qc.toNat) = true) (hs : s.ctx.supv = true) :
    Queues (.pgfree o) s s .pgfree 3 (some o.qc.toNat) fun m => m.ga = .ofNat 64 (bits (gA o s).toNat 51 16) := by
  refine queues_of_issueCmd hg rfl he ?_ ⟨rfl, rfl, rfl, rfl, rfl, rfl, rfl, rfl, rfl⟩
  exact List.append_eq_nil_iff.2 ⟨chk_eq_nil.2 hs, completionRing_eq_nil hq⟩

/-- PGFREE below supervisor level is a privilege fault, whatever its completion ring (R339, R353). -/
theorem exec_pgfree_user (he : queuedCmds s.core 3 < 16) (hs : s.ctx.supv = false) :
    exec (.pgfree o) s = .next (takeFault { cls := 3, code := 1, slots := 128, addr := encode (.pgfree o) } s) := by
  have hx : exec (.pgfree o) s = execPgfree o s := rfl
  rw [hx, execPgfree, issueCmd, hg, engineWait_eq_nil he, hs]
  unfold completionRing
  cases qLocal (s.ctx.Q (ringC o)) <;> rfl

/-- CBRET of a valid binding clears VALID and leaves its reference to drop (R53, R264). -/
theorem exec_cbret_valid (hb : bValid (s.ctx.B (o.h.toNat % 8)) = true) :
    exec (.cbret o) s = .next { s with
      ctx := s.ctx.setB (o.h.toNat % 8) (s.ctx.B (o.h.toNat % 8) &&& ~~~((1 : BitVec 64) <<< 49))
      core := { s.core with refDrops := s.core.refDrops ++ [refDropOf s.ctx s.core s.ctxId (s.ctx.B (o.h.toNat % 8))] } } := by
  have hx : exec (.cbret o) s = execCbret o s := rfl
  rw [hx, execCbret, hg, Laws.issueLocal_runs]
  simp only [if_pos hb]

/-- CBRET of a binding that is not valid changes nothing. -/
theorem exec_cbret_invalid (hb : bValid (s.ctx.B (o.h.toNat % 8)) = false) : exec (.cbret o) s = .next s := by
  have hx : exec (.cbret o) s = execCbret o s := rfl
  rw [hx, execCbret, hg, Laws.issueLocal_runs]
  simp only [hb, Bool.false_eq_true, if_false]

/-! ### UNPIN -/

omit hg in
/-- A pin is free for an UNPIN where it is of the head and version, stays, and its PIN has completed (R99). -/
theorem Pin.free_iff {co : Core} {head ver : Nat} {p : Pin} :
    p.free co head ver = true ↔ p.head = head ∧ p.ver = ver ∧ p.leaving = false ∧ ∀ m ∈ co.cmds, m.id ≠ p.cmd := by
  simp [Pin.free, and_assoc]

omit hg in
/-- The first pin that a test selects is the one that changes. -/
theorem modPin_split {test : Pin → Bool} {g : Pin → Pin} {p : Pin} {b : List Pin} (hp : test p = true) :
    ∀ a : List Pin, (∀ x ∈ a, test x = false) → modPin test g (a ++ p :: b) = a ++ g p :: b
  | [], _ => by simp [modPin, hp]
  | x :: a, h => by
    have ih := modPin_split (g := g) (b := b) hp a fun y hy => h y (List.mem_cons_of_mem _ hy)
    simp [modPin, h x (List.mem_cons_self ..), ih]

omit hg in
/-- The copies of a context that have not completed. -/
theorem mem_copiesOf {co : Core} {k : Nat} {m : Cmd} (hm : m ∈ co.cmds) (hc : m.ctx = k) (he : m.eng = 0) : m.id ∈ copiesOf co k :=
  List.mem_filterMap.2 ⟨m, hm, if_pos ⟨hc, he⟩⟩

/-- UNPIN takes the first free pin that it names and waits for the earlier copies (R99). -/
theorem queues_unpin (he : queuedCmds s.core 2 < 16) (hd : DescriptorOk o s) {a b : List Pin} {p : Pin} (hs : s.ctx.pins = a ++ p :: b)
    (hp : p.free s.core (headPa o s).toNat (bits (gB o s).toNat 15 0) = true)
    (ha : ∀ x ∈ a, x.free s.core (headPa o s).toNat (bits (gB o s).toNat 15 0) = false) :
    Queues (.unpin o) s { s with ctx := { s.ctx with pins := a ++ { p with leaving := true } :: b } } .unpin 2 none
      fun m => m.ga = headPa o s ∧ m.gb = gB o s ∧ ∀ c ∈ s.core.cmds, c.ctx = s.ctxId → c.eng = 0 → c.id ∈ m.ends := by
  refine ⟨{ stitchCmd o .unpin none s with ends := copiesOf s.core s.ctxId }, ?_, rfl, rfl, rfl, rfl, rfl, rfl, rfl, rfl, rfl, rfl, fun c => mem_copiesOf⟩
  have hx : exec (.unpin o) s = execUnpin o s := rfl
  have hany : s.ctx.pins.any (Pin.free s.core (headPa o s).toNat (bits (gB o s).toNat 15 0)) = true :=
    List.any_eq_true.2 ⟨p, hs ▸ List.mem_append_right _ (List.mem_cons_self ..), hp⟩
  rw [hx, execUnpin, issueOp_completes hg (engineWait_eq_nil he) (by rw [descriptor_eq_nil hd, cause6_eq_nil hany]; rfl), hs, modPin_split hp a ha]

/-- UNPIN faults where the context holds no free pin that it names (R99). -/
theorem exec_unpin_none (he : queuedCmds s.core 2 < 16) (hd : DescriptorOk o s)
    (hp : ∀ p ∈ s.ctx.pins, p.free s.core (headPa o s).toNat (bits (gB o s).toNat 15 0) = false) :
    ∃ e, exec (.unpin o) s = .next (takeFault e s) ∧ e.cls = 6 ∧ e.code = 8 := by
  have hx : exec (.unpin o) s = execUnpin o s := rfl
  have hany : s.ctx.pins.any (Pin.free s.core (headPa o s).toNat (bits (gB o s).toNat 15 0)) = false := by simpa using hp
  refine ⟨{ cls := 6, code := 8, addr := Config.openAddr s.fresh, info := .ofNat 32 0, slots := 1 <<< 7 }, ?_, rfl, rfl⟩
  rw [hx, execUnpin, hg, engineWait_eq_nil he, descriptor_eq_nil hd, hany]
  rfl

end

/-- Settles O44: each command by its checks, and UNPIN by the first free pin that it names. -/
theorem bookAndTensorCommandsQueue : Obligations.BookAndTensorCommandsQueue := by
  intro o s hg r f b h ga gb usable tensor record head es bs bd g rows h2 ns nd x y
  have desc : tensor → DescriptorOk o s := fun ⟨⟨hv, h3⟩, hw, h1, hp, hr⟩ => ⟨hv, h3, hw, h1, hp, hr⟩
  refine ⟨fun hq => ⟨queues_enc hg hq, fun float j he hb h49 h31 hj hent hrd => queues_cbind hg hq he hb h49 h31 hj hent hrd, queues_cbrev hg hq,
    fun he ht hr => ⟨queues_splice (trap := false) hg rfl he hq (desc ht) hr, queues_splice (trap := true) hg rfl he hq (desc ht) hr, queues_pin hg he hq (desc ht) hr⟩,
    fun he hu hp hr => queues_share hg he hq hu.1 hu.2 hp hr, fun he hs => ⟨queues_pgalloc hg he hq hs, queues_pgfree hg he hq hs⟩⟩,
    exec_cbret_valid hg, exec_cbret_invalid hg, fun he ht => ⟨fun a p b hs hp ha => ?_, fun hp => ?_⟩, exec_pgfree_user hg⟩
  · exact queues_unpin hg he (desc ht) hs (Pin.free_iff.2 hp) fun x hx => Bool.eq_false_iff.2 fun hf => ha x hx (Pin.free_iff.1 hf)
  · exact exec_unpin_none hg he (desc ht) fun p hm => Bool.eq_false_iff.2 fun hf => hp p hm (Pin.free_iff.1 hf)

end Sys2Proof.Machine

/-! ## What leaves every context as it is -/

namespace Sys2Proof.Machine

/-- Every context, running, parked or saved, stays as it is. -/
structure SameContexts (s t : State) : Prop where
  ctx : ∀ c k, getCtx t c k = getCtx s c k
  saved : t.hub.saved = s.hub.saved

namespace SameContexts

theorem refl (s : State) : SameContexts s s := ⟨fun _ _ => rfl, rfl⟩

theorem trans {s t u : State} (h : SameContexts s t) (g : SameContexts t u) : SameContexts s u :=
  ⟨fun c k => (g.ctx c k).trans (h.ctx c k), g.saved.trans h.saved⟩

/-- A change of fields that no context stands in. -/
theorem of_cores {s t : State} (h1 : t.coreId = s.coreId) (h2 : t.ctxId = s.ctxId) (h3 : t.ctx = s.ctx) (h4 : t.core = s.core) (h5 : t.cores = s.cores)
    (h6 : t.hub.saved = s.hub.saved) : SameContexts s t :=
  ⟨fun c k => by simp only [getCtx, getCore, h1, h2, h3, h4, h5], h6⟩

/-- A change of a core that keeps its parked contexts. -/
theorem modCore (c : Nat) {f : Core → Core} (s : State) (h : ∀ k, (f k).parked = k.parked := by exact fun _ => rfl) : SameContexts s (modCore c f s) := by
  have hf : (Machine.modCore c f s).coreId = s.coreId ∧ (Machine.modCore c f s).ctxId = s.ctxId ∧ (Machine.modCore c f s).ctx = s.ctx
      ∧ (Machine.modCore c f s).hub = s.hub := by
    unfold Machine.modCore
    split <;> exact ⟨rfl, rfl, rfl, rfl⟩
  obtain ⟨hcore, hctxId, hctx, hhub⟩ := hf
  refine ⟨fun d k => ?_, by rw [hhub]⟩
  have hp : (getCore (Machine.modCore c f s) d).parked = (getCore s d).parked := by
    by_cases hd : d = c
    · rw [hd, Laws.getCore_modCore_same, h]
    · rw [Laws.getCore_modCore_other hd]
  simp only [getCtx, hcore, hctxId, hctx, hp]

/-- A change of the hub that keeps the saved contexts. -/
theorem modHub {f : Hub → Hub} (s : State) (h : ∀ x, (f x).saved = x.saved := by exact fun _ => rfl) : SameContexts s (modHub f s) :=
  of_cores rfl rfl rfl rfl rfl (h _)

/-- A fold of steps that keep them. -/
theorem foldl {α : Type} {f : State → α → State} (h : ∀ s a, SameContexts s (f s a)) (l : List α) : ∀ s, SameContexts s (l.foldl f s) := by
  induction l with
  | nil => exact refl
  | cons a l ih => exact fun s => (h s a).trans (ih _)

theorem localStore (c : Nat) (win : Bool) (l : List (Nat × Byte)) (s : State) : SameContexts s (localStore c win l s) := by
  unfold Machine.localStore winSet
  split
  · exact foldl (fun s p => modCore _ s) _ _
  · exact modCore _ s

theorem swapStore (cl f : Nat) (s : State) : SameContexts s (swapStore cl f s) := by
  unfold Machine.swapStore
  split
  · exact refl s
  · exact (foldl (fun s i => modCore _ s) [0, 1, 2, 3] s).trans (modHub _)

theorem onStore (c f : Nat) {g : State → State} (h : ∀ s, SameContexts s (g s)) (s : State) : SameContexts s (onStore c f g s) := by
  unfold Machine.onStore
  split
  · exact ((swapStore _ _ _).trans (h _)).trans (swapStore _ _ _)
  · exact h s

/-- The reload of a codeword array changes scratchpads alone. -/
theorem reloadOne (p : Seat) (i : Nat) (s : State) : SameContexts s (reloadOne p i s) := by
  unfold Machine.reloadOne
  dsimp only
  split
  · exact refl s
  · split
    · exact refl s
    · exact onStore _ _ (fun s => (localStore _ _ _ s).trans (modCore _ _)) s

theorem isSaved {s t : State} (h : SameContexts s t) (c k task : Nat) : isSaved t c k task = isSaved s c k task := by
  simp only [Machine.isSaved, h.saved]

end SameContexts

/-! ## A task's contexts that are not saved -/

section
variable {s : State} {c k n : Nat} (hs : isSaved s c k n = false)

/-- The task of a number has that number. -/
theorem taskOf_id {t : TaskSt} (h : taskOf s n = some t) : t.id = n := by
  simpa using List.find?_some h

theorem modCtx_mem (c k : Nat) (f : Context → Context) (s : State) : (modCtx c k f s).mem = s.mem ∧ (modCtx c k f s).hub = s.hub := by
  unfold modCtx modCore
  split_ifs <;> exact ⟨rfl, rfl⟩

include hs

theorem taskCtx_unsaved : taskCtx s c k n = getCtx s c k := by
  rw [taskCtx, List.find?_eq_none.2 fun v hv => by simpa using List.any_eq_false.1 hs v hv]

theorem modTaskCtx_unsaved (f : Context → Context) : modTaskCtx c k n f s = modCtx c k (fun x => if x.task = n then f x else x) s := by
  rw [modTaskCtx, hs]
  rfl

/-- A change of a context of a task that is not saved is read back from it. -/
theorem getCtx_modTaskCtx_unsaved (hn : (getCtx s c k).task = n) (f : Context → Context) : getCtx (modTaskCtx c k n f s) c k = f (getCtx s c k) := by
  rw [modTaskCtx_unsaved hs, Laws.getCtx_modCtx_same, if_pos hn]

end

end Sys2Proof.Machine

/-! ## Barriers, steps and SYNC (R52, R112 to R115, R141): O57 -/

namespace Sys2Proof.Machine

section
variable {c k l : Nat} {t : TaskSt} {s : State}

/-! ### What the steps are -/

section
variable (hc : isCore c = true) (hk : k < 4)
include hc hk

theorem exec_barRelease (hb : (getCtx s c k).block = some (.bar l)) : exec (.barRelease c k) s = .next (releaseAt c k l false (.bar l) s) := by
  have hx : exec (.barRelease c k) s = execBarRelease c k s := rfl
  rw [hx, execBarRelease, Laws.atCtx_of hc hk, hb]

theorem exec_stepRelease (hb : (getCtx s c k).block = some (.step l)) : exec (.stepRelease c k) s
    = .next (if takesPartAt (getCtx s c k) c l then releaseAt c k l true (.step l) s else stepAlone (seatAt s c k) s) := by
  have hx : exec (.stepRelease c k) s = execStepRelease c k s := rfl
  rw [hx, execStepRelease, Laws.atCtx_of hc hk, hb]

theorem exec_bindingReloadLands (hb : (getCtx s c k).block = some (.step l)) (ht : taskOf s (getCtx s c k).task = some t) (hteam : t.team = false) :
    exec (.bindingReloadLands c k) s = .next (reloads (seatAt s c k) .here s) := by
  have hx : exec (.bindingReloadLands c k) s = execBindingReloadLands c k s := rfl
  rw [hx, execBindingReloadLands, Laws.atCtx_of hc hk, hb]
  simp only [ht, released, hteam, Bool.false_eq_true, if_false, ite_self]

theorem exec_syncRelease (hb : (getCtx s c k).block = some .sync) (ht : taskOf s (getCtx s c k).task = some t) :
    (∀ a, syncTime s t (dieOf c) = some a → exec (.syncRelease c k) s = .next (releaseSync t (dieOf c) a s))
    ∧ (syncTime s t (dieOf c) = none → exec (.syncRelease c k) s = .next s) := by
  have hx : exec (.syncRelease c k) s = execSyncRelease c k s := rfl
  rw [hx, execSyncRelease, Laws.atCtx_of hc hk, hb, ht]
  exact ⟨fun a ha => by simp only [ha], fun ha => by simp only [ha]⟩

end

/-! ### The release of a barrier or a STEP -/

/-- A participant has arrived, so it waits at the barrier and none of its window accesses is left (R112, R141). -/
theorem waits_of_allArrived {p : Nat × Nat} {b : Block} (h : allArrived s t p l b = true) {u : TaskSt × (Nat × Nat)} (hu : u ∈ participants s t p l) :
    (memberCtx s u.1 u.2).block = some b ∧ ∀ a ∈ (getCore s u.2.1).window, a.ctx ≠ ctxKey s u.2.1 u.2.2 u.1.id := by
  have hall : ∀ v ∈ participants s t p l, (arrived s b v && readsMade s v) = true := List.all_eq_true.1 (Bool.and_eq_true_iff.1 h).2
  obtain ⟨harr, hread⟩ := Bool.and_eq_true_iff.1 (hall u hu)
  simp only [arrived, Bool.and_eq_true, beq_iff_eq] at harr
  simp only [readsMade, Bool.and_eq_true, List.all_eq_true, bne_iff_ne] at hread
  exact ⟨harr.1.1.1, hread.1⟩

section
variable (ht : taskOf s (getCtx s c k).task = some t) (hteam : t.team = false) (hs : isSaved s c k t.id = false)

section
include hteam hs

/-- A decided release reaches its member. -/
theorem arriveRelease_decided {step : Option Nat} {rs : List Nat} (h : (getCtx s c k).release = .decided rs) :
    arriveRelease t (c, k) step l s = reach t step rs (c, k) s := by
  have hm : (memberCtx s t (c, k)).release = .decided rs := by rw [memberCtx, taskCtx_unsaved hs, h]
  simp only [arriveRelease, hteam, hm, Bool.false_eq_true, if_false]

/-- A release that is not decided does not arrive. -/
theorem arriveRelease_no {step : Option Nat} (h : (getCtx s c k).release = .no) : arriveRelease t (c, k) step l s = s := by
  have hm : (memberCtx s t (c, k)).release = .no := by rw [memberCtx, taskCtx_unsaved hs, h]
  simp only [arriveRelease, hteam, hm, Bool.false_eq_true, if_false]

end

include ht

/-- The release is decided once all have arrived, at a STEP where every participant's bindings can move. -/
theorem releaseAt_arrived {step : Bool} {b : Block} (hr : (getCtx s c k).release = .no) (ha : allArrived s t (c, k) l b = true)
    (hu : step = true → ∀ u ∈ participants s t (c, k) l, resolveCause (seatOf u.1 u.2) s = none) :
    releaseAt c k l step b s = arriveRelease t (c, k) (if step then some l else none) l (decideRelease t (c, k) l step s) := by
  have hnone : (if step then (participants s t (c, k) l).find? fun u => (resolveCause (seatOf u.1 u.2) s).isSome else none) = none := by
    cases step with
    | false => rfl
    | true => exact List.find?_eq_none.2 fun u hm => by simp [hu rfl u hm]
  simp only [releaseAt, ht, hr, ha, and_self, if_true, hnone]

/-- A participant of a STEP whose bindings cannot move faults, unless it is saved (log entry 57). -/
theorem releaseAt_unresolved {b : Block} {u : TaskSt × (Nat × Nat)} {e : Cause} (hr : (getCtx s c k).release = .no) (ha : allArrived s t (c, k) l b = true)
    (hu : (participants s t (c, k) l).find? (fun u => (resolveCause (seatOf u.1 u.2) s).isSome) = some u) (he : resolveCause (seatOf u.1 u.2) s = some e) :
    releaseAt c k l true b s = if isSaved s u.2.1 u.2.2 u.1.id then s else faultAt u.2.1 u.2.2 e (e.met s) := by
  simp only [releaseAt, ht, hr, ha, and_self, if_true, hu, unresolved, he]

include hteam hs

/-- Until the last has arrived nothing changes. -/
theorem releaseAt_waiting {step : Bool} {b : Block} (hr : (getCtx s c k).release = .no) (ha : allArrived s t (c, k) l b = false) :
    releaseAt c k l step b s = s := by
  simp only [releaseAt, ht, ha, Bool.false_eq_true, and_false, if_false]
  exact arriveRelease_no hteam hs hr

theorem releaseAt_decided {step : Bool} {b : Block} {rs : List Nat} (hr : (getCtx s c k).release = .decided rs) :
    releaseAt c k l step b s = reach t (if step then some l else none) rs (c, k) s := by
  have hno : ¬ ((getCtx s c k).release = .no ∧ allArrived s t (c, k) l b = true) := fun h => by simp [hr] at h
  simp only [releaseAt, ht, if_neg hno]
  exact arriveRelease_decided hteam hs hr

/-- The release that nothing holds reaches its member, which at a STEP reads the counter anew (R110, R115). -/
theorem reach_here (step : Option Nat) :
    let x := getCtx s c k
    let u := reach t step [] (c, k) s
    u.mem = s.mem ∧ u.hub = s.hub
      ∧ getCtx u c k = { x with release := .here, stepno := if step = some (bits x.domain.toNat 8 6) then (step.map (stepCount s t (c, k))).getD 0 else x.stepno } := by
  intro x u
  have hrel : released t = .here := by simp [released, hteam]
  refine ⟨?_, ?_, ?_⟩
  · exact (congrArg State.mem (modTaskCtx_unsaved hs _)).trans (modCtx_mem ..).1
  · exact (congrArg State.hub (modTaskCtx_unsaved hs _)).trans (modCtx_mem ..).2
  · refine (getCtx_modTaskCtx_unsaved hs (taskOf_id ht).symm _).trans ?_
    simp only [hrel, List.isEmpty_nil, if_true]
    rfl

end

/-! ### The reload of a STEP -/

section
variable (hs : isSaved s c k (getCtx s c k).task = false)
include hs

omit hs in
/-- The arrays of the bindings reload in order, and the release goes on. -/
theorem landReload_reloading {p : Seat} {rs : List Nat} {next : Release} (hr : (p.ctx s).release = .reloading rs) :
    landReload p next s = p.mod (fun x => { x with release := next }) (rs.foldl (fun s i => reloadOne p i s) s) := by
  rw [landReload, hr]

omit hs in
theorem seatAt_mod (g : Context → Context) (u : State) : (seatAt s c k).mod g u = modTaskCtx c k (getCtx s c k).task g u := rfl

theorem seatAt_ctx : (seatAt s c k).ctx s = getCtx s c k := taskCtx_unsaved hs

/-- A reload lands once no queued operation reads the old array, or faults its context (R52, R88; log entry 57). -/
theorem reloads_reloading {rs : List Nat} (next : Release) (hr : (getCtx s c k).release = .reloading rs) :
    (arrayRead s c k = true → reloads (seatAt s c k) next s = s)
    ∧ (arrayRead s c k = false → (∀ e, reloadCause (seatAt s c k) rs s = some e → reloads (seatAt s c k) next s = faultAt c k e (e.met s))
      ∧ (reloadCause (seatAt s c k) rs s = none → reloads (seatAt s c k) next s = landReload (seatAt s c k) next s)) := by
  have hread : arrayRead s (seatAt s c k).c (seatAt s c k).k = arrayRead s c k := rfl
  simp only [reloads, seatAt_ctx hs, hr, hread]
  refine ⟨fun ha => if_pos ha, fun ha => ⟨fun e he => ?_, fun he => ?_⟩⟩
  · simp only [ha, he, Bool.false_eq_true, if_false]
    rfl
  · simp only [ha, he, Bool.false_eq_true, if_false]

/-- A context that waits for no reload. -/
theorem reloads_other (next : Release) (hr : ∀ rs, (getCtx s c k).release ≠ .reloading rs) : reloads (seatAt s c k) next s = s := by
  unfold reloads
  rw [seatAt_ctx hs]
  split
  · next rs h => exact absurd h (hr rs)
  · rfl

/-- The release of a context whose reload has landed. -/
theorem landReload_release {rs : List Nat} (next : Release) (hr : (getCtx s c k).release = .reloading rs) :
    (getCtx (landReload (seatAt s c k) next s) c k).release = next := by
  have hsame : SameContexts s (rs.foldl (fun u i => reloadOne (seatAt s c k) i u) s) := .foldl (fun u i => .reloadOne _ i u) rs s
  rw [landReload_reloading ((congrArg Context.release (seatAt_ctx hs)).trans hr), seatAt_mod, getCtx_modTaskCtx_unsaved ((hsame.isSaved ..).trans hs) (by rw [hsame.ctx])]

end

end

/-- Settles O57: the release by the arrivals of its participants, the reload by the queue that reads the old array, SYNC by its last arrival. -/
theorem barrierReleases : Obligations.BarrierReleases := by
  intro c k l t s hc hk x seat ht hteam hs
  have hs' : isSaved s c k (getCtx s c k).task = false := taskOf_id ht ▸ hs
  refine ⟨fun hb => ?_, fun hb hp => ?_, fun hb hp => ?_, fun b _ ha u hu => waits_of_allArrived ha hu, fun hb => ⟨fun rs hr => ?_, fun hr => ?_⟩,
    fun hb => exec_syncRelease hc hk hb ht⟩
  · rw [exec_barRelease hc hk hb]
    refine ⟨fun hr => ⟨fun ha => ?_, fun ha => ?_⟩, fun rs hr => ?_, fun hr => ⟨_, rfl, ?_⟩⟩
    · rw [releaseAt_arrived (step := false) ht hr ha nofun]
      rfl
    · rw [releaseAt_waiting ht hteam hs hr ha]
    · rw [releaseAt_decided ht hteam hs hr]
      rfl
    · rw [releaseAt_decided ht hteam hs hr]
      obtain ⟨hmem, hhub, hctx⟩ := reach_here ht hteam hs none
      exact ⟨hctx, hmem, hhub⟩
  · rw [exec_stepRelease hc hk hb, if_pos hp]
    refine ⟨fun hr => ⟨fun ha => ⟨fun hu => ?_, fun u e hu he => ?_⟩, fun ha => ?_⟩, fun rs hr => ?_, fun hr => ⟨_, rfl, ?_⟩⟩
    · rw [releaseAt_arrived (step := true) ht hr ha fun _ => hu]
      rfl
    · rw [releaseAt_unresolved ht hr ha hu he]
    · rw [releaseAt_waiting ht hteam hs hr ha]
    · rw [releaseAt_decided ht hteam hs hr]
      rfl
    · rw [releaseAt_decided ht hteam hs hr]
      obtain ⟨hmem, hhub, hctx⟩ := reach_here ht hteam hs (some l)
      refine ⟨hmem, hhub, hctx.trans ?_⟩
      simp only [Option.some.injEq, eq_comm (a := l)]
      rfl
  · rw [exec_stepRelease hc hk hb, hp]
    rfl
  · rw [exec_bindingReloadLands hc hk hb ht hteam]
    obtain ⟨hread, hland⟩ := reloads_reloading hs' .here hr
    refine ⟨fun ha => by rw [hread ha], fun ha => ⟨fun e he => ?_, fun he => ⟨?_, _, rfl, ?_⟩⟩⟩
    · rw [(hland ha).1 e he]
    · rw [(hland ha).2 he]
      rfl
    · rw [(hland ha).2 he]
      exact landReload_release hs' .here hr
  · rw [exec_bindingReloadLands hc hk hb ht hteam, reloads_other hs' .here hr]

end Sys2Proof.Machine

/-! ## Reads and writes of device memory, line by line (R116, R257, R371, R373) -/

namespace Sys2Proof.Machine

/-! ### The pieces of a run -/

/-- Pieces that are not empty cover a run of bytes in order. -/
inductive Tiles : List (Nat × Nat) → Nat → Nat → Prop
  | nil (a : Nat) : Tiles [] a 0
  | cons {a k n : Nat} {l : List (Nat × Nat)} (hk : 0 < k) (h : Tiles l (a + k) n) : Tiles ((a, k) :: l) a (k + n)

/-- The next multiple of `u` above an address. -/
theorem add_sub_mod_self {a u : Nat} (hu : 0 < u) : (a + (u - a % u)) % u = 0 := by
  have h := Nat.div_add_mod a u
  have hlt := Nat.mod_lt a hu
  rw [show a + (u - a % u) = u * (a / u + 1) by rw [Nat.mul_add]; omega]
  exact Nat.mul_mod_right ..

theorem tiles_chunks {u : Nat} (hu : 0 < u) : ∀ {fuel a n : Nat}, n = 0 ∨ n + a % u ≤ fuel * u → Tiles (chunks u fuel a n) a n
  | 0, a, n, h => by
    obtain rfl : n = 0 := by omega
    exact .nil a
  | fuel + 1, a, n, h => by
    have ha := Nat.mod_lt a hu
    rw [Nat.succ_mul] at h
    unfold chunks
    split
    · next hn => rw [hn]; exact .nil a
    · next hn =>
      have hrest : n - min n (u - a % u) = 0 ∨ n - min n (u - a % u) + (a + min n (u - a % u)) % u ≤ fuel * u := by
        rcases le_total n (u - a % u) with hle | hle
        · exact .inl (by omega)
        · rw [min_eq_right hle, add_sub_mod_self hu]
          omega
      have := Tiles.cons (k := min n (u - a % u)) (by omega) (tiles_chunks hu hrest)
      rwa [Nat.add_sub_cancel' (min_le_left _ _)] at this

theorem tiles_lineChunks {u : Nat} (hu : 0 < u) (a n : Nat) : Tiles (lineChunks u a n) a n := by
  refine tiles_chunks hu (.inr ?_)
  have h := Nat.div_add_mod n u
  have hn := Nat.mod_lt n hu
  have ha := Nat.mod_lt a hu
  rw [Nat.add_mul, mul_comm (n / u)]
  omega

/-! ### What a store to device memory leaves -/

/-- A hub without the marks of its lines. -/
def unmarked (h : Hub) : Hub := { h with scrubLines := [], badLines := [], poison := [] }

/-- A store changes device memory and the marks of its lines alone, and brings no error. -/
structure DevKept (s t : State) : Prop where
  same : Laws.SameBut s t
  hub : unmarked t.hub = unmarked s.hub
  sound : ∀ tier x, lineCode s tier x = none → lineCode t tier x = none
  wf : s.mem.wf = true → t.mem.wf = true

theorem lineCode_eq_none_iff {s : State} {tier x : Nat} : lineCode s tier x = none ↔
    ¬(tier = 2 ∧ s.hub.cxlDown = true) ∧ (x / 64 ∈ s.hub.scrubLines ∨ x / 64 ∉ s.hub.badLines ∧ x / 64 ∉ s.hub.poison) := by
  unfold lineCode
  split_ifs <;> simp_all

namespace DevKept

theorem refl (s : State) : DevKept s s := ⟨.refl s, rfl, fun _ _ => id, id⟩

theorem trans {s t u : State} (h : DevKept s t) (k : DevKept t u) : DevKept s u where
  same := h.same.trans k.same
  hub := k.hub.trans h.hub
  sound tier x hx := k.sound tier x (h.sound tier x hx)
  wf hw := k.wf (h.wf hw)

variable {s t : State} (h : DevKept s t)
include h

theorem copies : t.hub.copies = s.hub.copies := (congrArg Hub.copies h.hub :)
theorem ranges : t.hub.ranges = s.hub.ranges := (congrArg Hub.ranges h.hub :)
theorem cxlDown : t.hub.cxlDown = s.hub.cxlDown := (congrArg Hub.cxlDown h.hub :)
theorem getCore (c : Nat) : getCore t c = getCore s c := by
  simp only [Machine.getCore, h.same.coreId, h.same.core, h.same.cores]
theorem contexts : SameContexts s t :=
  .of_cores h.same.coreId h.same.ctxId h.same.ctx h.same.core h.same.cores (congrArg Hub.saved h.hub :)

theorem lineTier (x : Nat) : lineTier t x = lineTier s x := by simp only [Machine.lineTier, rangeOf, h.ranges]
theorem keepsByte (x : Nat) : keepsByte t x = keepsByte s x := by simp only [Machine.keepsByte, h.lineTier, h.cxlDown]
theorem lineBad {x : Nat} (hx : lineBad s x = none) : lineBad t x = none := by
  rw [Machine.lineBad, h.lineTier]
  exact h.sound _ _ hx

end DevKept

theorem devKept_scrubFirst (line : Nat) (s : State) : DevKept s (scrubFirst line s) := by
  unfold scrubFirst
  split
  · next hl =>
    refine ⟨⟨rfl, rfl, rfl, rfl, rfl, rfl, rfl, rfl, rfl, rfl⟩, rfl, fun tier x hx => ?_, fun hw => Laws.wf_zero _ _ hw⟩
    obtain ⟨hup, hline⟩ := lineCode_eq_none_iff.1 hx
    refine lineCode_eq_none_iff.2 ⟨hup, ?_⟩
    by_cases hxl : x / 64 = line
    · exact .inr (by simp [hxl])
    · simpa [hxl] using hline
  · exact .refl s

theorem devKept_setByte (a : Nat) (b : Byte) (s : State) : DevKept s { s with mem := Memory.setByte s.mem a b } :=
  ⟨⟨rfl, rfl, rfl, rfl, rfl, rfl, rfl, rfl, rfl, rfl⟩, rfl, fun _ _ => id, fun hw => Laws.wf_setByte a b hw⟩

theorem devKept_devByteWrite (s : State) (a : Nat) (b : Byte) : DevKept s (devByteWrite s a b) := by
  unfold devByteWrite
  split
  · exact .refl s
  · exact (devKept_scrubFirst (a / 64) s).trans (devKept_setByte a _ _)

theorem devKept_clearWhole (a n : Nat) (s : State) : DevKept s (clearWhole a n s) := by
  unfold clearWhole
  split
  · refine ⟨⟨rfl, rfl, rfl, rfl, rfl, rfl, rfl, rfl, rfl, rfl⟩, rfl, fun tier x hx => ?_, id⟩
    obtain ⟨hup, hline⟩ := lineCode_eq_none_iff.1 hx
    exact lineCode_eq_none_iff.2 ⟨hup, hline.imp_right fun ⟨hbad, hpoison⟩ => by simp [hbad, hpoison]⟩
  · exact .refl s

theorem devKept_devStore (l : List (Nat × Byte)) : ∀ s : State, DevKept s (devStore s l) := by
  induction l with
  | nil => exact .refl
  | cons p l ih => exact fun s => (devKept_devByteWrite s p.1 p.2).trans (ih _)

theorem devKept_devWrite (s : State) (a : Nat) (bs : List Byte) : DevKept s (devWrite s a bs) :=
  (devKept_clearWhole a bs.length s).trans (devKept_devStore _ _)

/-! ### What a store writes -/

/-- A store writes these bytes from a physical address and no other byte. -/
structure Stored (s t : State) (a : Nat) (bs : List Byte) : Prop extends DevKept s t where
  inside : ∀ i, (hi : i < bs.length) → devByte t (a + i) = bs[i]
  outside : ∀ y, y < a ∨ a + bs.length ≤ y → devByte t y = devByte s y

theorem Stored.nil (s : State) (a : Nat) : Stored s s a [] := ⟨.refl s, fun _ hi => absurd hi (Nat.not_lt_zero _), fun _ _ => rfl⟩

/-- A store of the first bytes and one of the rest. -/
theorem Stored.append {s t u : State} {a k : Nat} {bs : List Byte} (hk : k ≤ bs.length) (h : Stored s t a (bs.take k))
    (g : Stored t u (a + k) (bs.drop k)) : Stored s u a bs where
  toDevKept := h.toDevKept.trans g.toDevKept
  inside i hi := by
    by_cases hik : i < k
    · rw [g.outside _ (.inl (by omega)), h.inside i (by rw [List.length_take]; omega), List.getElem_take]
    · have := g.inside (i - k) (by rw [List.length_drop]; omega)
      rw [List.getElem_drop] at this
      simpa only [show a + k + (i - k) = a + i by omega, show k + (i - k) = i by omega] using this
  outside y hy := by
    rw [g.outside y (by rw [List.length_drop]; omega), h.outside y (by rw [List.length_take]; omega)]

theorem devByte_clearWhole (a n x : Nat) (s : State) : devByte (clearWhole a n s) x = devByte s x := by
  simp only [devByte, Laws.clearWhole_mem]

theorem cellsOf_cons (a : Nat) (b : Byte) (bs : List Byte) : Memory.cellsOf a (b :: bs) = (a, b) :: Memory.cellsOf (a + 1) bs := by
  simp only [Memory.cellsOf, List.length_cons, List.range_succ_eq_map, List.zipWith_cons_cons, List.zipWith_map_left, Nat.add_zero]
  congr 2
  funext i b
  rw [Nat.succ_eq_add_one, Nat.add_right_comm, Nat.add_assoc]

theorem stored_devStore : ∀ {bs : List Byte} {a : Nat} {s : State}, s.mem.wf = true → (∀ i, i < bs.length → keepsByte s (a + i) = true) →
    Stored s (devStore s (Memory.cellsOf a bs)) a bs
  | [], a, s, _, _ => .nil s a
  | b :: bs, a, s, hw, hk => by
    have hd := devKept_devByteWrite s a b
    have h1 : Stored s (devByteWrite s a b) a [b] := ⟨hd, fun i hi => by
      obtain rfl : i = 0 := by simpa using hi
      exact Laws.devByte_devByteWrite_same a b hw (hk 0 (Nat.succ_pos _)), fun y hy => Laws.devByte_devByteWrite_other b hw (by simp at hy; omega)⟩
    have h2 : Stored (devByteWrite s a b) (devStore (devByteWrite s a b) (Memory.cellsOf (a + 1) bs)) (a + 1) bs :=
      stored_devStore (hd.wf hw) fun i hi => by
        rw [hd.keepsByte, Nat.add_assoc, Nat.add_comm 1]
        exact hk (i + 1) (Nat.succ_lt_succ hi)
    rw [cellsOf_cons]
    exact Stored.append (k := 1) (Nat.succ_pos _) h1 h2

theorem stored_devWrite {s : State} {a : Nat} {bs : List Byte} (hw : s.mem.wf = true) (hk : ∀ i, i < bs.length → keepsByte s (a + i) = true) :
    Stored s (devWrite s a bs) a bs := by
  have hc := devKept_clearWhole a bs.length s
  have h : Stored (clearWhole a bs.length s) (devWrite s a bs) a bs := stored_devStore (hc.wf hw) fun i hi => by rw [hc.keepsByte]; exact hk i hi
  exact ⟨hc.trans h.toDevKept, h.inside, fun y hy => (h.outside y hy).trans (devByte_clearWhole ..)⟩

/-! ### Reads and writes that meet no error -/

/-- Bytes from a physical address that an access through a tier reads without an error, in no page of a step window (R116, R373). -/
def Sound (s : State) (tier x n : Nat) : Prop := ∀ i, i < n → tget 0 s.hub.copies ((x + i) / 65536) = 0 ∧ lineCode s tier (x + i) = none

/-- Bytes from a physical address that the device keeps when they are written. -/
def Keeps (s : State) (x n : Nat) : Prop := ∀ i, i < n → keepsByte s (x + i) = true

theorem Sound.kept {s t : State} {tier x n : Nat} (h : Sound s tier x n) (k : DevKept s t) : Sound t tier x n := fun i hi =>
  ⟨by rw [k.copies]; exact (h i hi).1, k.sound _ _ (h i hi).2⟩

theorem Keeps.kept {s t : State} {x n : Nat} (h : Keeps s x n) (k : DevKept s t) : Keeps t x n := fun i hi => by rw [k.keepsByte]; exact h i hi

theorem Sound.sub {s : State} {tier x n i k : Nat} (h : Sound s tier x n) (hik : i + k ≤ n) : Sound s tier (x + i) k := fun j hj => by
  rw [Nat.add_assoc]; exact h (i + j) (by omega)

theorem Keeps.sub {s : State} {x n i k : Nat} (h : Keeps s x n) (hik : i + k ≤ n) : Keeps s (x + i) k := fun j hj => by
  rw [Nat.add_assoc]; exact h (i + j) (by omega)

/-- A page without a second copy is in no step window. -/
theorem inWindow_of_copies {s : State} {p : Nat} (f : Nat) (h : tget 0 s.hub.copies p = 0) : inWindow s f p = false := by simp [inWindow, h]

theorem devRead_add (s : State) (a k n : Nat) : devRead s a (k + n) = devRead s a k ++ devRead s (a + k) n := by
  simp [devRead, List.range_add, Nat.add_assoc, Function.comp_def]

@[simp] theorem length_devRead (s : State) (a n : Nat) : (devRead s a n).length = n := by simp [devRead]

theorem readChunks_of_sound {w : Who} {s : State} : ∀ {l : List (Nat × Nat)} {a n : Nat}, Tiles l a n → Sound s w.tier a n →
    ∀ acc, readChunks w l s acc = .ok s (acc ++ devRead s a n) := by
  intro l a n hl
  induction hl with
  | nil a => intro _ acc; simp [readChunks, devRead]
  | cons hk hl ih =>
    intro hs acc
    obtain ⟨hcopies, hline⟩ := hs 0 (by omega)
    rw [Nat.add_zero] at hcopies hline
    have hrest := ih (hs.sub (by omega))
    simp only [readChunks, inWindow_of_copies w.f hcopies, Bool.false_eq_true, if_false, lineError, hline, Option.map_none, hrest, devRead_add,
      List.append_assoc]

/-- A read of device memory that meets no error takes the bytes that stand there. -/
theorem devIn_of_sound {w : Who} {s : State} {a n : Nat} (h : Sound s w.tier a n) : devIn w a n s = .ok s (devRead s a n) := by
  rw [devIn, readChunks_of_sound (tiles_lineChunks (by decide) a n) h, List.nil_append]

theorem lineOut_of_sound {w : Who} {s : State} {a : Nat} {b : List Byte} (h : Sound s w.tier a b.length) (hb : 0 < b.length) :
    lineOut w a b s = .ok (devWrite s a b) [] := by
  obtain ⟨hcopies, hline⟩ := h 0 hb
  rw [Nat.add_zero] at hcopies hline
  simp only [lineOut, if_neg (lineCode_eq_none_iff.1 hline).1, inWindow_of_copies w.f hcopies, Bool.false_eq_true, if_false, lineError, hline,
    Option.map_none, ite_self]

theorem eachPiece_of_sound {w : Who} : ∀ {l : List (Nat × Nat)} {a n : Nat}, Tiles l a n → ∀ {bs : List Byte} {s : State}, bs.length = n →
    s.mem.wf = true → Sound s w.tier a n → Keeps s a n → ∃ t, eachPiece (lineOut w) l bs s = .ok t [] ∧ Stored s t a bs := by
  intro l a n hl
  induction hl with
  | nil a =>
    intro bs s hn _ _ _
    rw [List.length_eq_zero_iff.1 hn]
    exact ⟨s, rfl, .nil s a⟩
  | @cons a k n l hk hl ih =>
    intro bs s hn hw hs hb
    have hlen : (bs.take k).length = k := by rw [List.length_take]; omega
    have h1 : Stored s (devWrite s a (bs.take k)) a (bs.take k) := stored_devWrite hw fun i hi => hb i (by omega)
    obtain ⟨t, ht, h2⟩ := ih (bs := bs.drop k) (s := devWrite s a (bs.take k)) (by rw [List.length_drop]; omega) (h1.wf hw)
      ((hs.sub (by omega)).kept h1.toDevKept) ((hb.sub (by omega)).kept h1.toDevKept)
    refine ⟨t, ?_, h1.append (by omega) h2⟩
    rw [eachPiece, lineOut_of_sound (fun i hi => hs i (by omega)) (by omega)]
    exact ht

/-- A write of device memory that meets no error stores its bytes. -/
theorem devOut_of_sound {w : Who} {s : State} {a : Nat} {bs : List Byte} (hw : s.mem.wf = true) (hs : Sound s w.tier a bs.length) (hk : Keeps s a bs.length) :
    ∃ t, devOut w a bs s = .ok t [] ∧ Stored s t a bs :=
  eachPiece_of_sound (tiles_lineChunks (by decide) a _) rfl hw hs hk

/-- Bytes from a physical address that a store merges onto: the device keeps them and their lines have no error. -/
def Writable (s : State) (x n : Nat) : Prop := ∀ i, i < n → keepsByte s (x + i) = true ∧ lineBad s (x + i) = none

theorem stored_devPieces : ∀ {l : List (Nat × Nat)} {a n : Nat}, Tiles l a n → ∀ {bs : List Byte} {s : State}, bs.length = n → s.mem.wf = true →
    Writable s a n → Stored s (devPieces l bs s) a bs := by
  intro l a n hl
  induction hl with
  | nil a =>
    intro bs s hn _ _
    rw [List.length_eq_zero_iff.1 hn]
    exact .nil s a
  | @cons a k n l hk hl ih =>
    intro bs s hn hw hs
    have hlen : (bs.take k).length = k := by rw [List.length_take]; omega
    have hline := (hs 0 (by omega)).2
    have h1 : Stored s (devWrite s a (bs.take k)) a (bs.take k) := stored_devWrite hw fun i hi => (hs i (by omega)).1
    have h2 := ih (bs := bs.drop k) (s := devWrite s a (bs.take k)) (by rw [List.length_drop]; omega) (h1.wf hw) fun i hi => by
      obtain ⟨hkeep, hbad⟩ := hs (k + i) (by omega)
      rw [Nat.add_assoc]
      exact ⟨by rw [h1.keepsByte]; exact hkeep, h1.lineBad hbad⟩
    rw [devPieces, if_pos (.inr (by rw [← Nat.add_zero a, hline]; rfl))]
    exact h1.append (by omega) h2

/-- A store line by line onto lines without an error. -/
theorem stored_devMerge {s : State} {a : Nat} {bs : List Byte} (hw : s.mem.wf = true) (h : Writable s a bs.length) : Stored s (devMerge a bs s) a bs :=
  stored_devPieces (tiles_lineChunks (by decide) a _) rfl hw h

/-- A number stored reads back. -/
theorem Stored.devNat {s t : State} {a v n : Nat} (h : Stored s t a (leBytes v n)) : devNat t a n = v % 256 ^ n := by
  have hread : devRead t a n = leBytes v n := List.ext_getElem (by simp) fun i hi hj => by
    rw [← h.inside i hj]
    simp [devRead]
  rw [Machine.devNat, hread, ofLeBytes_leBytes]

end Sys2Proof.Machine

/-! ## Reads and writes of a scratchpad by an engine (R257, R332) -/

namespace Sys2Proof.Machine

/-! ### What an engine reads -/

/-- Local bytes of which no word is poisoned. -/
def Clean (s : State) (c : Nat) (win : Bool) (x n : Nat) : Prop := ∀ i, i < n → localPoisoned s c win (x + i) = false

theorem localCause_of_clean {s : State} {c x n : Nat} {win : Bool} (h : Clean s c win x n) : localCause s c win x n = none := by
  rw [localCause, List.find?_eq_none.2 fun y hy => ?_]
  · rfl
  · obtain ⟨i, hi, rfl⟩ := List.mem_map.1 hy
    rw [h i (List.mem_range.1 hi)]
    decide

/-- A read of local bytes that meets no poison takes the bytes that stand there. -/
theorem localIn_of_clean {s : State} {c x n : Nat} {win : Bool} (h : Clean s c win x n) : localIn c win x n s = .ok s (localRead s c win x n) := by
  rw [localIn, localCause_of_clean h]

@[simp] theorem length_localRead (s : State) (c : Nat) (win : Bool) (x n : Nat) : (localRead s c win x n).length = n := by simp [localRead]

/-- A byte of the number that bytes hold. -/
theorem byte_ofLeBytes : ∀ {bs : List Byte} {i : Nat}, (hi : i < bs.length) → (BitVec.ofNat 8 (ofLeBytes bs / 256 ^ i) : Byte) = bs[i]
  | b :: bs, 0, _ => by
    apply BitVec.eq_of_toNat_eq
    have := b.isLt
    simp only [ofLeBytes, pow_zero, Nat.div_one, BitVec.toNat_ofNat, List.getElem_cons_zero]
    omega
  | b :: bs, i + 1, hi => by
    have hb := b.isLt
    have hdiv : ofLeBytes (b :: bs) / 256 ^ (i + 1) = ofLeBytes bs / 256 ^ i := by
      rw [Nat.pow_succ', ← Nat.div_div_eq_div_mul, ofLeBytes]
      congr 1
      omega
    rw [hdiv, List.getElem_cons_succ]
    exact byte_ofLeBytes (Nat.lt_of_succ_lt_succ hi)

/-- The low bytes of a number are those of the number cut to as many bytes. -/
theorem byte_mod_pow (v : Nat) {n i : Nat} (hi : i < n) : (BitVec.ofNat 8 (v % 256 ^ n / 256 ^ i) : Byte) = .ofNat 8 (v / 256 ^ i) := by
  apply BitVec.eq_of_toNat_eq
  simp only [BitVec.toNat_ofNat]
  obtain ⟨k, rfl⟩ := Nat.exists_eq_add_of_lt hi
  rw [show i + k + 1 = i + (k + 1) by omega, pow_add, Nat.mod_mul_right_div_self, pow_succ, Nat.mod_mul_left_mod]

/-! ### What an engine writes -/

/-- A write fills these bytes of core `c`'s scratchpad and no other byte of it, and leaves memory, the hub and the contexts. -/
structure Filled (c : Nat) (s t : State) (x : Nat) (bs : List Byte) : Prop where
  mem : t.mem = s.mem
  hub : t.hub = s.hub
  contexts : SameContexts s t
  tags : (getCore t c).tags = (getCore s c).tags
  wf : (getCore t c).scratch.wf = true
  inside : ∀ i, (hi : i < bs.length) → Memory.byte (getCore t c).scratch (x + i) = bs[i]
  outside : ∀ y, y < x ∨ x + bs.length ≤ y → Memory.byte (getCore t c).scratch y = Memory.byte (getCore s c).scratch y

theorem modCore_mem (c : Nat) (f : Core → Core) (s : State) : (modCore c f s).mem = s.mem ∧ (modCore c f s).hub = s.hub := by
  unfold modCore
  split <;> exact ⟨rfl, rfl⟩

theorem localOut_scratch (c x : Nat) (bs : List Byte) (s : State) :
    localOut c false x bs s = modCore c (fun k => { k with scratch := Memory.store k.scratch (Memory.cellsOf x bs) }) s := rfl

theorem getCore_localOut (c x : Nat) (bs : List Byte) (s : State) :
    getCore (localOut c false x bs s) c = { getCore s c with scratch := Memory.store (getCore s c).scratch (Memory.cellsOf x bs) } := by
  rw [localOut_scratch, Laws.getCore_modCore_same]

theorem filled_localOut {c : Nat} {s : State} (hw : (getCore s c).scratch.wf = true) (x : Nat) (bs : List Byte) : Filled c s (localOut c false x bs s) x bs where
  mem := by rw [localOut_scratch, (modCore_mem ..).1]
  hub := by rw [localOut_scratch, (modCore_mem ..).2]
  contexts := SameContexts.localStore ..
  tags := by rw [getCore_localOut]
  wf := by rw [getCore_localOut]; exact Laws.wf_store _ hw
  inside i hi := by rw [getCore_localOut]; exact tget_store_inside hw hi
  outside y hy := by rw [getCore_localOut]; exact tget_store_outside hw hy

theorem Filled.bump {c x : Nat} {s t : State} {bs : List Byte} (h : Filled c s t x bs) : Filled c s t.bump x bs :=
  ⟨h.mem, h.hub, h.contexts.trans (.of_cores rfl rfl rfl rfl rfl rfl), h.tags, h.wf, h.inside, h.outside⟩

theorem Filled.devByte {c x : Nat} {s t : State} {bs : List Byte} (h : Filled c s t x bs) (y : Nat) : devByte t y = devByte s y := by
  simp only [Machine.devByte, h.mem, h.hub]

/-- A command performs by filling bytes of its core's scratchpad, and leaves memory, the hub and the contexts. -/
def Fills (c : Nat) (m : Cmd) (s : State) (x n : Nat) (f : Nat → Byte) : Prop := ∃ t, perform c m s = .done t ∧ t.mem = s.mem ∧ t.hub = s.hub
  ∧ (∀ k, getCtx t c k = getCtx s c k) ∧ (∀ i, i < n → Memory.byte (getCore t c).scratch (x + i) = f i)
  ∧ ∀ y, y < x ∨ x + n ≤ y → Memory.byte (getCore t c).scratch y = Memory.byte (getCore s c).scratch y

section
variable {c x n : Nat} {s t : State} {f : Nat → Byte}

theorem Filled.inside_map (h : Filled c s t x ((List.range n).map f)) : ∀ i, i < n → Memory.byte (getCore t c).scratch (x + i) = f i := fun i hi => by
  rw [h.inside i (by simpa using hi)]
  simp

theorem Filled.outside_map (h : Filled c s t x ((List.range n).map f)) :
    ∀ y, y < x ∨ x + n ≤ y → Memory.byte (getCore t c).scratch y = Memory.byte (getCore s c).scratch y := fun y hy => h.outside y (by simpa using hy)

theorem Stored.inside_map (h : Stored s t x ((List.range n).map f)) : ∀ i, i < n → devByte t (x + i) = f i := fun i hi => by
  rw [h.inside i (by simpa using hi)]
  simp

theorem Stored.outside_map (h : Stored s t x ((List.range n).map f)) : ∀ y, y < x ∨ x + n ≤ y → devByte t y = devByte s y :=
  fun y hy => h.outside y (by simpa using hy)

theorem Filled.fills {m : Cmd} (h : Filled c s t x ((List.range n).map f)) (hp : perform c m s = .done t) : Fills c m s x n f :=
  ⟨t, hp, h.mem, h.hub, h.contexts.ctx c, h.inside_map, h.outside_map⟩

end

/-- The bytes of a number, least significant first. -/
theorem filled_putWord {c : Nat} {s : State} (hw : (getCore s c).scratch.wf = true) (x v : Nat) :
    Filled c s (putWord c x v s) x ((List.range 8).map fun i => .ofNat 8 (v / 256 ^ i)) := leBytes_eq_map v 8 ▸ filled_localOut hw x _

end Sys2Proof.Machine

/-! ## Commands that copy, count and send (R73, R120, R258, R261, R271, R272, R275) -/

namespace Sys2Proof.Machine

section
variable {c : Nat} {m : Cmd} {s : State}

/-! ### The runs of a copy -/

section
variable (hw : (getCore s c).scratch.wf = true)
include hw

theorem copyRun_loc_loc {a b n : Nat} (ha : Clean s c false a n) : ∃ t, copyRun c m (.loc false a) (.loc false b) n s = .ok t []
    ∧ Filled c s t b ((List.range n).map fun i => Memory.byte (getCore s c).scratch (a + i)) := by
  refine ⟨_, ?_, filled_localOut hw b _⟩
  simp only [copyRun, sideIn, localIn_of_clean ha, sideOut]
  rfl

theorem copyRun_dev_loc {h : BitVec 64} {a b n : Nat} (ha : Sound s (hTier h) (hBase h + a) n) : ∃ t, copyRun c m (.dev h a) (.loc false b) n s = .ok t []
    ∧ Filled c s t b ((List.range n).map fun i => devByte s (hBase h + a + i)) := by
  refine ⟨_, ?_, filled_localOut hw b _⟩
  simp only [copyRun, sideIn, devIn_of_sound (w := m.who (hTier h)) ha, sideOut]
  rfl

end

theorem copyRun_loc_dev {h : BitVec 64} {a b n : Nat} (hm : s.mem.wf = true) (ha : Clean s c false a n) (hb : Sound s (hTier h) (hBase h + b) n)
    (hk : Keeps s (hBase h + b) n) : ∃ t, copyRun c m (.loc false a) (.dev h b) n s = .ok t []
    ∧ Stored s t (hBase h + b) ((List.range n).map fun i => Memory.byte (getCore s c).scratch (a + i)) := by
  obtain ⟨t, ht, hst⟩ := devOut_of_sound (w := m.who (hTier h)) (a := hBase h + b) (bs := localRead s c false a n) hm
    (by rw [length_localRead]; exact hb) (by rw [length_localRead]; exact hk)
  exact ⟨t, by simp only [copyRun, sideIn, localIn_of_clean ha, sideOut, ht], hst⟩

/-! ### CPY -/

theorem perform_cpy (hop : m.op = .cpy) : perform c m s = performCpy c m s := by rw [perform, hop]

section
variable (hop : m.op = .cpy)
include hop

theorem cpy_within (hsub : m.sub = 2) (ha : locWin (word m.es 0) = false) (hb : locWin (word m.es 1) = false)
    (hc : Clean s c false (locOff (word m.es 0)) (bits (word m.es 2).toNat 31 0)) (hw : (getCore s c).scratch.wf = true) :
    Fills c m s (locOff (word m.es 1)) (bits (word m.es 2).toNat 31 0) fun i => Memory.byte (getCore s c).scratch (locOff (word m.es 0) + i) := by
  obtain ⟨t, ht, hf⟩ := copyRun_loc_loc (m := m) (b := locOff (word m.es 1)) hw hc
  refine hf.fills ?_
  simp [perform_cpy hop, performCpy, copySide, hsub, ha, hb, ht, Io.perf]

theorem cpy_fromDevice (hsub : m.sub = 0) (hb : locWin (word m.es 1) = false)
    (hs : Sound s (hTier m.h) (hBase m.h + devOff (word m.es 0)) (bits (word m.es 2).toNat 31 0)) (hw : (getCore s c).scratch.wf = true) :
    Fills c m s (locOff (word m.es 1)) (bits (word m.es 2).toNat 31 0) fun i => devByte s (hBase m.h + devOff (word m.es 0) + i) := by
  obtain ⟨t, ht, hf⟩ := copyRun_dev_loc (m := m) (b := locOff (word m.es 1)) hw hs
  refine hf.fills ?_
  simp [perform_cpy hop, performCpy, copySide, hsub, hb, ht, Io.perf]

theorem cpy_toDevice (hsub : m.sub = 1) (ha : locWin (word m.es 0) = false)
    (hc : Clean s c false (locOff (word m.es 0)) (bits (word m.es 2).toNat 31 0))
    (hs : Sound s (hTier m.h) (hBase m.h + devOff (word m.es 1)) (bits (word m.es 2).toNat 31 0))
    (hk : Keeps s (hBase m.h + devOff (word m.es 1)) (bits (word m.es 2).toNat 31 0)) (hm : s.mem.wf = true) :
    ∃ t, perform c m s = .done t ∧ Stored s t (hBase m.h + devOff (word m.es 1))
      ((List.range (bits (word m.es 2).toNat 31 0)).map fun i => Memory.byte (getCore s c).scratch (locOff (word m.es 0) + i)) := by
  obtain ⟨t, ht, hf⟩ := copyRun_loc_dev (m := m) hm hc hs hk
  refine ⟨t, ?_, hf⟩
  simp [perform_cpy hop, performCpy, copySide, hsub, ha, ht, Io.perf]

end

/-! ### EVSIG -/

theorem counter_addCounter_same (f i : Nat) (n : BitVec 16) (h : twf 0 s.hub.counters = true) : counter (addCounter f i n s) f i = counter s f i + n :=
  Laws.tget_tset_same h

theorem counter_addCounter_other {f i g j : Nat} (n : BitVec 16) (h : twf 0 s.hub.counters = true) (hne : g * 4096 + j ≠ f * 4096 + i) :
    counter (addCounter f i n s) g j = counter s g j := Laws.tget_tset_other hne h

theorem perform_evsig (hop : m.op = .evsig) : perform c m s = .done (addCounter m.func (bits m.ga.toNat 11 0) (m.gb.setWidth 16) s) := by
  rw [perform, hop]

/-! ### PROBE.fill -/

/-- A mask that clears bit 2 of a tag. -/
theorem getLsbD_clearFilling (w : BitVec 64) {b : Nat} (hb : b < 64) : (w &&& ~~~4).getLsbD b = (w.getLsbD b && !decide (b = 2)) := by
  rw [BitVec.getLsbD_and, BitVec.getLsbD_not]
  have h4 : (4 : BitVec 64).getLsbD b = decide (b = 2) := by
    rw [show (4 : BitVec 64) = BitVec.twoPow 64 2 by decide, BitVec.getLsbD_twoPow]
    simp [eq_comm]
  rw [h4, decide_eq_true hb, Bool.true_and]

/-- The tags after a fill: FILLING of its slot is clear. -/
theorem getLsbD_fillDone {tags : Tab (BitVec 64)} {slot : Nat} (h : twf 0 tags = true) (n : Nat) {b : Nat} (hb : b < 64) :
    (tget 0 (tset 0 tags slot (tget 0 tags slot &&& ~~~4)) n).getLsbD b = ((tget 0 tags n).getLsbD b && !(decide (n = slot) && decide (b = 2))) := by
  by_cases hn : n = slot
  · rw [hn, Laws.tget_tset_same h, getLsbD_clearFilling _ hb]
    simp
  · rw [Laws.tget_tset_other hn h]
    simp [hn]

theorem probeFill_performs (hop : m.op = .probeFill) (hw : (getCore s c).scratch.wf = true) (hs : Sound s (hTier m.h) (hBase m.h + m.ga.toNat) 2048) :
    ∃ t, Filled c s t m.gb.toNat ((List.range 2048).map fun i => devByte s (hBase m.h + m.ga.toNat + i))
      ∧ perform c m s = .done (modCore c (fun k => { k with tags := tset 0 k.tags m.aux (tget 0 k.tags m.aux &&& ~~~4) }) t) := by
  obtain ⟨t, ht, hf⟩ := copyRun_dev_loc (m := m) (b := m.gb.toNat) hw hs
  refine ⟨t, hf, ?_⟩
  rw [perform, hop]
  simp only [performFill, ht, Io.andThen]

/-! ### CPYW -/

section
variable (hop : m.op = .cpyw) (hremote : qRemote ((ownerCtx s c m).Q (m.ring.getD 0)) = false) (hwin : qWin ((ownerCtx s c m).Q (m.ring.getD 0)) = false)
  (hw : (getCore s c).scratch.wf = true)
include hop hremote hwin hw

/-- The bytes that a CPYW reads fill the slot that it took. -/
theorem cpyw_fillsSlot {n : Nat} {f : Nat → Byte} (hn : bits (word m.es 1).toNat 31 0 = n)
    (hin : sideIn c m (copySide m (word m.es 0) (m.sub == 0)) n s = .ok s ((List.range n).map f)) :
    Fills c m s (qSlot ((ownerCtx s c m).Q (m.ring.getD 0)) m.aux) n f := by
  refine (filled_localOut hw _ _).fills ?_
  rw [perform, hop]
  simp only [performCpyw, hn, hin, Io.andThen, hremote, hwin, Bool.not_false, if_true]

end

/-! ### RMW -/

/-- The word that an RMW leaves, of `n` bytes. -/
def Cmd.rmwNew (m : Cmd) (s : State) (n : Nat) : Nat :=
  atomNew (m.sub % 8) n (devNat s (hBase m.h + m.ga.toNat) n) ((word m.es 0).toNat % 2 ^ (8 * n)) ((word m.es 1).toNat % 2 ^ (8 * n))

theorem rmw_performs (hop : m.op = .rmw) (hw : (getCore s c).scratch.wf = true) (hm : s.mem.wf = true) {n : Nat} (hn : (if m.sub.testBit 3 then 8 else 4) = n)
    (hs : Sound s (hTier m.h) (hBase m.h + m.ga.toNat) n) (hk : Keeps s (hBase m.h + m.ga.toNat) n) :
    ∃ u t, perform c m s = .done t ∧ Stored s u (hBase m.h + m.ga.toNat) (leBytes (m.rmwNew s n) n)
      ∧ Filled c u t (bits (word m.es 2).toNat 22 0) ((List.range 8).map fun i => .ofNat 8 (devNat s (hBase m.h + m.ga.toNat) n / 256 ^ i)) := by
  obtain ⟨u, hu, hst⟩ := devOut_of_sound (w := m.who (hTier m.h)) (a := hBase m.h + m.ga.toNat) (bs := leBytes (m.rmwNew s n) n) hm
    (by rw [length_leBytes]; exact hs) (by rw [length_leBytes]; exact hk)
  refine ⟨u, _, ?_, hst, filled_putWord (by rw [hst.getCore]; exact hw) _ _⟩
  rw [Cmd.rmwNew] at hu
  rw [perform, hop]
  simp only [performRmw, hn, sideIn, devIn_of_sound (w := m.who (hTier m.h)) hs, Io.andThen, sideOut]
  rw [show ofLeBytes (devRead s (hBase m.h + m.ga.toNat) n) = devNat s (hBase m.h + m.ga.toNat) n from rfl, hu]

end

end Sys2Proof.Machine

/-! ## Pages and records (R83, R84, R267, R271) -/

namespace Sys2Proof.Machine

/-! ### Page descriptors (Table 4-7) -/

theorem toNat_mkDesc (st owner shares stamp : Nat) (h : st < 4) :
    (mkDesc st owner shares stamp).toNat = st + owner % 2 ^ 5 * 2 ^ 2 + shares % 2 ^ 15 * 2 ^ 7 + stamp % 2 ^ 42 * 2 ^ 22 := by
  simp only [mkDesc, place, Nat.shiftLeft_eq, BitVec.toNat_ofNat]
  omega

theorem dState_mkDesc {st : Nat} (owner shares stamp : Nat) (h : st < 4) : dState (mkDesc st owner shares stamp).toNat = st := by
  rw [toNat_mkDesc _ _ _ _ h, dState, bits_eq_div_mod]
  omega

theorem dOwner_mkDesc {st owner : Nat} (shares stamp : Nat) (h : st < 4) (ho : owner < 32) : dOwner (mkDesc st owner shares stamp).toNat = owner := by
  rw [toNat_mkDesc _ _ _ _ h, dOwner, bits_eq_div_mod]
  omega

theorem dShare_mkDesc {st shares : Nat} (owner stamp : Nat) (h : st < 4) (hs : shares < 32768) : dShare (mkDesc st owner shares stamp).toNat = shares := by
  rw [toNat_mkDesc _ _ _ _ h, dShare, bits_eq_div_mod]
  omega

theorem dState_lt (d : Nat) : dState d < 4 := by rw [dState, bits_eq_div_mod]; omega
theorem dOwner_lt (d : Nat) : dOwner d < 32 := by rw [dOwner, bits_eq_div_mod]; omega

theorem desc_setDesc_same {s : State} (p : Nat) (d : BitVec 64) (h : twf 0 s.hub.pages = true) : desc (setDesc p d s) p = d.toNat :=
  congrArg BitVec.toNat (Laws.tget_tset_same h)

theorem desc_setDesc_other {s : State} {p q : Nat} (d : BitVec 64) (h : twf 0 s.hub.pages = true) (hq : q ≠ p) : desc (setDesc p d s) q = desc s q :=
  congrArg BitVec.toNat (Laws.tget_tset_other hq h)

/-! ### PGFREE -/

theorem quarantineOne_page {s : State} (p : Nat) (h : twf 0 s.hub.pages = true) : dState (desc (quarantineOne p s) p) = 2
    ∧ (∀ q, q ≠ p → desc (quarantineOne p s) q = desc s q) ∧ twf 0 (quarantineOne p s).hub.pages = true := by
  have hd : ∀ q, desc (quarantineOne p s) q = desc (setDesc p (mkDesc 2 (dOwner (desc s p)) 0 s.hub.epoch) s) q := fun _ => rfl
  refine ⟨?_, fun q hq => ?_, Laws.twf_tset _ _ h⟩
  · rw [hd, desc_setDesc_same _ _ h, dState_mkDesc _ _ _ (by decide)]
  · rw [hd, desc_setDesc_other _ h hq]

/-- A page that enters quarantine changes no byte of memory, and leaves the free list. -/
theorem quarantine_page {s : State} (p : Nat) (h : twf 0 s.hub.pages = true) : dState (desc (quarantine p s) p) = 2
    ∧ (quarantine p s).mem = s.mem ∧ (quarantine p s).hub.free = s.hub.free := by
  obtain ⟨hp, -, hwf⟩ := quarantineOne_page p h
  unfold quarantine
  split
  · exact ⟨hp, rfl, rfl⟩
  · next q _ =>
    obtain ⟨hq, hother, -⟩ := quarantineOne_page q hwf
    refine ⟨?_, rfl, rfl⟩
    by_cases hqp : p = q
    · rw [← hqp] at hq
      rw [← hqp]
      exact hq
    · rw [hother p hqp, hp]

section
variable {c : Nat} {m : Cmd} {s : State}

theorem pgfree_allocated (hop : m.op = .pgfree) (hst : dState (desc s m.ga.toNat) = 1) (hsh : dShare (desc s m.ga.toNat) = 0) :
    perform c m s = .done (quarantine m.ga.toNat s) := by
  rw [perform, hop]
  simp only [performPgfree, if_pos hst, freePage, hsh, Nat.lt_irrefl, if_false]

theorem pgfree_other (hop : m.op = .pgfree) (hst : dState (desc s m.ga.toNat) ≠ 1) :
    perform c m s = .susp s { cls := 6, code := 0xA, addr := Config.openAddr s.fresh } := by
  rw [perform, hop]
  simp only [performPgfree, if_neg hst]

/-! ### PGALLOC -/

theorem pgalloc_page (hop : m.op = .pgalloc) (hw : (getCore s c).scratch.wf = true) {p : Nat} {l : List Nat} (hp : m.claim = p :: l) :
    Fills c m s m.gb.toNat 8 fun i => .ofNat 8 (p % 2 ^ 36 * 2 ^ 16 / 256 ^ i) := by
  refine (filled_putWord hw _ _).fills ?_
  rw [perform, hop]
  simp only [performPgalloc, hp, place, Nat.shiftLeft_eq]

theorem pgalloc_quota (hop : m.op = .pgalloc) (hw : (getCore s c).scratch.wf = true) (hp : m.claim = []) :
    ∃ x, x < 2 ^ 36 ∧ Fills c m s m.gb.toNat 8 fun i => .ofNat 8 ((x * 2 ^ 16 + 2 ^ 56) / 256 ^ i) := by
  have hx : bits (Config.openResult s.fresh).toNat 35 0 < 2 ^ 36 := by rw [bits_eq_div_mod]; omega
  refine ⟨_, hx, (filled_putWord hw _ _).bump.fills ?_⟩
  rw [perform, hop]
  simp only [performPgalloc, hp, place, Nat.shiftLeft_eq, Nat.mod_eq_of_lt hx]
  rfl

/-! ### MSG and TASK -/

/-- A change of saved contexts that keeps their queues, handles and bindings writes no save area. -/
theorem modSaved_of_kept (test : Saved → Bool) {f : Context → Context} (hf : ∀ x, x.q = (f x).q ∧ x.h = (f x).h ∧ x.b = (f x).b) (s : State) :
    modSaved test f s = modHub (fun h => { h with saved := h.saved.map fun v => if test v then { v with ctx := f v.ctx } else v }) s := by
  unfold modSaved
  dsimp only
  induction s.hub.saved.filter test with
  | nil => rfl
  | cons v l ih => rw [List.map_cons, List.foldl_cons, if_pos (hf v.ctx)]; exact ih

/-- So it changes no byte of memory and no record on its way. -/
theorem modOwner_of_kept {f : Context → Context} (hf : ∀ x, x.q = (f x).q ∧ x.h = (f x).h ∧ x.b = (f x).b) :
    (modOwner c m f s).mem = s.mem ∧ (modOwner c m f s).hub.inbox = s.hub.inbox := by
  unfold modOwner modOwnerAt
  split
  · rw [(modCtx_mem ..).1, (modCtx_mem ..).2]
    exact ⟨rfl, rfl⟩
  · rw [modSaved_of_kept _ hf]
    exact ⟨rfl, rfl⟩

theorem send_local (hop : m.op = .msg ∨ m.op = .task) (hc : Clean s c false m.gb.toNat 64) (hhere : m.op = .task ∨ bits m.ga.toNat 19 8 = s.hub.package.toNat)
    (hr : (ownerCtx s c m).replay = []) : ∃ t, perform c m s = .sent t ∧ t.mem = s.mem ∧ t.hub.inbox = s.hub.inbox ++ [{
      sender := .ctx c (m.ctx % 4) m.task, queue := bits m.ga.toNat 7 0, lr := .ofNat 512 (ofLeBytes (localRead s c false m.gb.toNat 64)), cmd := m.id,
      home := if m.op = .task then some m.aux else none }] := by
  have hp : perform c m s = performSend c m s := by rcases hop with h | h <;> rw [perform, h]
  have hh : (m.op == .task || bits m.ga.toNat 19 8 == s.hub.package.toNat) = true := by simpa using hhere
  rw [hp]
  simp only [performSend, localIn_of_clean hc, Io.andThen, hh, if_true, hr, List.filter_nil, List.map_nil]
  obtain ⟨hmem, hinbox⟩ := modOwner_of_kept (c := c) (m := m) (s := s) (f := fun y => { y with replay := y.replay.filter fun r => !([] : List Replayed).contains r })
    fun _ => ⟨rfl, rfl, rfl⟩
  exact ⟨_, rfl, hmem, congrArg (· ++ [_]) hinbox⟩

/-- A number of `n` bytes as a word. -/
theorem toNat_ofNat_bytes (n v : Nat) : (BitVec.ofNat (8 * n) v).toNat = v % 256 ^ n := by
  rw [BitVec.toNat_ofNat, pow_mul]
  norm_num

/-- The bytes of a record are those that stood at its offset. -/
theorem record_byte (x : Nat) {i : Nat} (hi : i < 64) :
    BitVec.ofNat 8 ((BitVec.ofNat 512 (ofLeBytes (localRead s c false x 64))).toNat / 256 ^ i) = Memory.byte (getCore s c).scratch (x + i) := by
  have hlr : (BitVec.ofNat 512 (ofLeBytes (localRead s c false x 64))).toNat = ofLeBytes (localRead s c false x 64) % 256 ^ 64 := toNat_ofNat_bytes 64 _
  rw [hlr, byte_mod_pow _ hi, byte_ofLeBytes (by simpa using hi)]
  simp [localRead, localByte]

theorem send_away (hop : m.op = .msg) (hc : Clean s c false m.gb.toNat 64) (haway : bits m.ga.toNat 19 8 ≠ s.hub.package.toNat) :
    perform c m s = .sent s := by
  rw [perform, hop]
  simp [performSend, localIn_of_clean hc, Io.andThen, hop, haway]

end

end Sys2Proof.Machine

/-! ## Codebooks and logs (R46, R50, R54, R62, R86, R274) -/

namespace Sys2Proof.Machine

/-! ### Bytes within bytes -/

theorem drop_take_devRead (s : State) (a : Nat) {n k l : Nat} (h : k + l ≤ n) : ((devRead s a n).drop k).take l = devRead s (a + k) l := by
  obtain ⟨j, rfl⟩ := Nat.exists_eq_add_of_le h
  rw [Nat.add_assoc, devRead_add, List.drop_left' (length_devRead ..), devRead_add, List.take_left' (length_devRead ..)]

/-- The bytes that stand where bytes have been stored. -/
theorem Stored.devRead {s t : State} {a k l : Nat} {bs : List Byte} (h : Stored s t a bs) (hk : k + l ≤ bs.length) :
    devRead t (a + k) l = (bs.drop k).take l := by
  refine List.ext_getElem (by simp; omega) fun i hi _ => ?_
  rw [length_devRead] at hi
  have := h.inside (k + i) (by omega)
  simpa [Machine.devRead, Nat.add_assoc] using this

/-- Block `j` of a list of blocks of one length. -/
theorem drop_take_flatMap {α β : Type} {f : α → List β} {n : Nat} (hf : ∀ x, (f x).length = n) : ∀ {l : List α} {j : Nat}, (hj : j < l.length) →
    ((l.flatMap f).drop (j * n)).take n = f l[j]
  | x :: l, 0, _ => by simp [List.take_left' (hf x)]
  | x :: l, j + 1, hj => by
    rw [List.flatMap_cons, Nat.succ_mul, Nat.add_comm, ← List.drop_drop, List.drop_left' (hf x)]
    exact drop_take_flatMap hf (Nat.lt_of_succ_lt_succ hj)

/-! ### Packed indices (R46) -/

theorem packE_lt (w : Nat) (f : Nat → Nat) : ∀ n, packE w f n < 2 ^ (w * n)
  | 0 => by simp [packE]
  | n + 1 => by
    have h := packE_lt w f n
    have hf := Nat.mod_lt (f n) (Nat.two_pow_pos w)
    rw [packE, Nat.shiftLeft_eq, Nat.mul_succ, pow_add, mul_comm (2 ^ (w * n))]
    calc packE w f n + f n % 2 ^ w * 2 ^ (w * n) < 2 ^ (w * n) + f n % 2 ^ w * 2 ^ (w * n) := by omega
      _ = (f n % 2 ^ w + 1) * 2 ^ (w * n) := by ring
      _ ≤ 2 ^ w * 2 ^ (w * n) := Nat.mul_le_mul_right _ hf

/-- An element of a packed number. -/
theorem packE_elem (w : Nat) (f : Nat → Nat) {k : Nat} : ∀ {n : Nat}, k < n → packE w f n >>> (k * w) % 2 ^ w = f k % 2 ^ w
  | n + 1, h => by
    rw [packE, Nat.shiftLeft_eq, Nat.shiftRight_eq_div_pow]
    rcases Nat.lt_succ_iff_lt_or_eq.1 h with hk | rfl
    · have hpow : f n % 2 ^ w * 2 ^ (w * n) = 2 ^ (k * w) * (2 ^ w * (2 ^ (w * (n - (k + 1))) * (f n % 2 ^ w))) := by
        rw [show w * n = k * w + (w + w * (n - (k + 1))) by
          obtain ⟨j, rfl⟩ := Nat.exists_eq_add_of_le (Nat.succ_le_of_lt hk)
          rw [Nat.add_sub_cancel_left, Nat.succ_eq_add_one]; ring]
        rw [pow_add, pow_add]; ring
      rw [hpow, Nat.add_mul_div_left _ _ (Nat.two_pow_pos _), Nat.add_mul_mod_self_left, ← Nat.shiftRight_eq_div_pow, packE_elem w f hk]
    · rw [mul_comm k w, Nat.add_mul_div_right _ _ (Nat.two_pow_pos _), Nat.div_eq_of_lt (packE_lt w f k), Nat.zero_add, Nat.mod_mod]

theorem length_packIndices (w : Nat) (idx : List Nat) : (packIndices w idx).length = codedTensor w 1 idx.length := by
  rw [packIndices, length_flatMap_blocks (fun _ => length_leBytes _ _), List.length_range, codedTensor]
  ring

/-- An index packed reads back. -/
theorem packedIndex_packIndices {w n : Nat} {idx : List Nat} (hw : 0 < w) (hw64 : w ≤ 64) (hn : n < idx.length) (hi : idx[n] < 2 ^ w) :
    packedIndex w (packIndices w idx) n = idx[n] := by
  have hq : 0 < 64 / w := Nat.div_pos hw64 hw
  have hdm := Nat.div_add_mod n (64 / w)
  have hmod := Nat.mod_lt n hq
  have hblock : n / (64 / w) < ((List.range ((idx.length + 64 / w - 1) / (64 / w)))).length := by
    rw [List.length_range, show idx.length + 64 / w - 1 = idx.length - 1 + 64 / w by omega, Nat.add_div_right _ hq]
    exact Nat.lt_succ_of_le (Nat.div_le_div_right (by omega))
  have hpack : packE w (fun j => idx.getD (n / (64 / w) * (64 / w) + j) 0) (64 / w) < 256 ^ 8 :=
    (packE_lt ..).trans_le (show 2 ^ (w * (64 / w)) ≤ 2 ^ 64 from Nat.pow_le_pow_right (by decide) (Nat.mul_div_le 64 w))
  rw [packedIndex, packIndices, mul_comm 8, drop_take_flatMap (fun _ => length_leBytes _ _) hblock, List.getElem_range, ofLeBytes_leBytes,
    Nat.mod_eq_of_lt hpack, packE_elem w _ hmod, mul_comm (n / (64 / w)), hdm, List.getD_eq_getElem _ _ hn, Nat.mod_eq_of_lt hi]

/-- The best codeword of a search is a codeword. -/
theorem search_lt {qs : List (List Val)} (v : List Val) (h : 0 < qs.length) : (search qs v).1 < qs.length := by
  have hbest : ∀ n, n ≤ qs.length → (searched qs v n).2.1 < qs.length := fun n => by
    induction n with
    | zero => exact fun _ => h
    | succ n ih =>
      intro hn
      rw [searched_succ v hn (searched_fst qs v n (by omega))]
      split
      · exact hn
      · exact ih (by omega)
  by_cases hv : ∀ x ∈ v, x.isFin = true
  · rw [search_eq hv]
    exact hbest _ le_rfl
  · have : v.any (fun x => !x.isFin) = true := by simpa using hv
    rw [search, if_pos this]
    exact h

theorem codedTensor_rows (w r g : Nat) : codedTensor w r g = r * codedTensor w 1 g := by simp [codedTensor]

section
variable {c : Nat} {m : Cmd} {s : State}

/-! ### CBIND -/

theorem cbind_fills (hop : m.op = .cbind) (hw : (getCore s c).scratch.wf = true) (hr : readCause s m.func m.ga.toNat 64 = none) {l : Leaf}
    (hl : walk s m.func (m.ga.toNat + 64) = .ok l) (ht : hTier (handleOf m.func l) = 0 ∨ hTier (handleOf m.func l) = 2)
    (hs : Sound s (hTier (handleOf m.func l)) (hBase (handleOf m.func l) + (m.ga.toNat + 64) % hBytes (handleOf m.func l)) (bits (header s m.func m.ga.toNat) 159 144)) :
    Fills c m s (bBase m.b1) (bits (header s m.func m.ga.toNat) 159 144) fun i =>
      devByte s (hBase (handleOf m.func l) + (m.ga.toNat + 64) % hBytes (handleOf m.func l) + i) := by
  have h1 : hTier (handleOf m.func l) ≠ 1 := by omega
  have h3 : hTier (handleOf m.func l) ≠ 3 := by omega
  refine (filled_localOut hw _ _).fills ?_
  rw [perform, hop]
  simp only [performCbind, hr, copyRun, sideIn, engineWalk, engineXlate, Bool.false_eq_true, if_false, hl, engineCheck, h1, h3, false_and,
    devIn_of_sound (w := m.who (hTier (handleOf m.func l))) hs, sideOut, Io.perf]
  rfl

/-! ### CBREV -/

theorem cbrev_stat (hop : m.op = .cbrev) (hw : (getCore s c).scratch.wf = true) (h0 : m.sub ≠ 0) (h2 : m.sub ≠ 0x200) :
    ∃ x, x < 2 ^ 16 ∧ Fills c m s m.gb.toNat 8 fun i => .ofNat 8 ((x + m.sub % 256 * 2 ^ 16) / 256 ^ i) := by
  have hstat : m.sub % 256 < 2 ^ 8 := Nat.mod_lt _ (by decide)
  refine ⟨bits (Config.openResult s.fresh).toNat 15 0, by rw [bits_eq_div_mod]; omega, (filled_putWord hw _ _).bump.fills ?_⟩
  rw [perform, hop]
  simp only [performCbrev, if_neg h2, ne_eq, h0, not_false_eq_true, if_true, cbrevFails, cbrevWord, place_of_lt 16 hstat]

theorem newHeader_fields (w : BitVec 64) (ver tick src : Nat) (ht : tick < 2 ^ 64) :
    let head := newHeader w ver tick src
    bits head 15 0 = bId w ∧ bits head 31 16 = ver % 65536 ∧ bits head 47 32 = bits w.toNat 47 32 ∧ bits head 127 64 = tick
      ∧ bits head 143 128 = src % 65536 ∧ bits head 159 144 = bBytes w % 65536 := by
  have hid : bId w < 2 ^ 16 := by rw [bId, bits_eq_div_mod]; omega
  have hshape : bits w.toNat 47 32 < 2 ^ 16 := by rw [bits_eq_div_mod]; omega
  simp only [newHeader, place_of_lt 32 hshape, place_of_lt 64 ht]
  generalize bits w.toNat 47 32 = shape at *
  generalize bId w = id at *
  simp only [bits_eq_div_mod, place, Nat.shiftLeft_eq]
  omega

theorem mkSlot_latest (v ver : Nat) : mkSlot 1 true (v * 65536) ver 1 = 1 + 4 + v * 65536 % 2 ^ 52 + ver % 65536 * 2 ^ 64 + 2 ^ 80 := by
  simp only [mkSlot, if_true, place, Nat.shiftLeft_eq, Nat.shiftRight_eq_div_pow]
  omega

section
variable {j p vp : Nat} (hop : m.op = .cbrev) (h0 : m.sub = 0) (hclaim : m.claim = [j, p, vp]) (hc : Clean s c false (bBase m.ga) (bBytes m.ga))
  (he : entryCause s m.func (bId m.ga) = none) (hh : headersCause s m.func (bId m.ga) = none)
include hop h0 hclaim hc he hh

theorem cbrev_mismatch (hm : mismatch s m.func m.ga = true) :
    ∃ x, x < 2 ^ 16 ∧ perform c m s = .done (State.bump (cbrevWord c m x 4 (quarantine p s))) := by
  refine ⟨bits (Config.openResult (quarantine p s).fresh).toNat 15 0, by rw [bits_eq_div_mod]; omega, ?_⟩
  rw [perform, hop]
  simp [performCbrev, h0, hclaim, localIn_of_clean hc, Io.andThen, he, hh, hm, cbrevFails]

theorem cbrev_publishes {v : Nat} (hm : mismatch s m.func m.ga = false) (hv : cbrevVa s m.func vp = some v) :
    perform c m s = .done (cbrevWord c m (nextBookVer s m.func (bId m.ga)) 0 (setSlot m.func (bId m.ga) j
      (1 + 4 + v * 65536 % 2 ^ 52 + nextBookVer s m.func (bId m.ga) % 65536 * 2 ^ 64 + 2 ^ 80) (dethrone m.func (bId m.ga)
        (devWrite (mapPage m.func (v * 65536) p s) (p * 65536)
          (leBytes (newHeader m.ga (nextBookVer s m.func (bId m.ga)) s.tick.toNat (srcEngine c 1)) 64
            ++ localRead s c false (bBase m.ga) (bBytes m.ga)))))) := by
  have htick : (mapPage m.func (v * 65536) p s).tick = s.tick := by
    unfold mapPage
    split
    · rfl
    · exact (Laws.sameBut_devWrite ..).tick
  rw [perform, hop]
  simp [performCbrev, h0, hclaim, localIn_of_clean hc, Io.andThen, he, hh, hm, hv, htick, mkSlot_latest, Nat.shiftLeft_eq]

end

end

end Sys2Proof.Machine

/-! ## Reblocking and logs (R62, R86, R274) -/

namespace Sys2Proof.Machine

section
variable {c : Nat} {m : Cmd} {s : State}

/-! ### ENC -/

/-- Groups and rows of an ENC. -/
def Cmd.encGroups (m : Cmd) : Nat := bits (word m.es 2).toNat 23 0
def Cmd.encRows (m : Cmd) : Nat := bits (word m.es 2).toNat 47 24

/-- Row `j` of a coded tensor of `g` groups at a physical address. -/
def codedRow (s : State) (a w g j : Nat) : List Byte := devRead s (a + j * codedTensor w 1 g) (codedTensor w 1 g)

/-- What an ENC finds for group `n` of row `j`: the index of the nearest codeword, and whether the search failed. -/
def encBest (m : Cmd) (s : State) (j n : Nat) : Nat × Bool :=
  let src := heldBook s m.func m.b1
  search (heldBook s m.func m.b2).rounded
    ((List.range src.d).map fun i => rv32 (src.qx (packedIndex src.w (codedRow s (hBase m.h + devOff (word m.es 0)) src.w m.encGroups j) n) i))

/-- The rows of what it finds. -/
def encFound (m : Cmd) (s : State) : List (List (Nat × Bool)) :=
  (List.range m.encRows).map fun j => (List.range m.encGroups).map (encBest m s j)

/-- The bytes of the coded rows of what it finds. -/
def encBytes (m : Cmd) (s : State) : List Byte :=
  (List.range m.encRows).flatMap fun j => packIndices (heldBook s m.func m.b2).w ((List.range m.encGroups).map fun n => (encBest m s j n).1)

theorem heldBook_w (s : State) (f : Nat) (b : BitVec 64) : 0 < (heldBook s f b).w ∧ (heldBook s f b).w ≤ 64 := by
  have h : (heldBook s f b).w = 2 * (bits (header s f (heldHdr s f b)) 33 32 + 1) := rfl
  rw [h, bits_eq_div_mod]
  omega

theorem encBest_lt (m : Cmd) (s : State) (j n : Nat) : (encBest m s j n).1 < 2 ^ (heldBook s m.func m.b2).w := by
  have hlen : (heldBook s m.func m.b2).rounded.length = 2 ^ (heldBook s m.func m.b2).w := by simp [Book.rounded, Book.k]
  exact hlen ▸ search_lt _ (hlen ▸ Nat.two_pow_pos _)

theorem length_encRow (w g : Nat) (f : Nat → Nat) : (packIndices w ((List.range g).map f)).length = codedTensor w 1 g := by
  rw [length_packIndices, List.length_map, List.length_range]

theorem length_encBytes (m : Cmd) (s : State) : (encBytes m s).length = codedTensor (heldBook s m.func m.b2).w m.encRows m.encGroups := by
  rw [encBytes, length_flatMap_blocks (fun _ => length_encRow ..), List.length_range, ← codedTensor_rows]

/-- The index of every group stands in the rows stored. -/
theorem packedIndex_encBytes {t : State} {a j n : Nat} (h : Stored s t a (encBytes m s)) (hj : j < m.encRows) (hn : n < m.encGroups) :
    packedIndex (heldBook s m.func m.b2).w (codedRow t a (heldBook s m.func m.b2).w m.encGroups j) n = (encBest m s j n).1 := by
  obtain ⟨hw, hw64⟩ := heldBook_w s m.func m.b2
  have hrow : j * codedTensor (heldBook s m.func m.b2).w 1 m.encGroups + codedTensor (heldBook s m.func m.b2).w 1 m.encGroups ≤ (encBytes m s).length := by
    rw [length_encBytes, codedTensor_rows _ m.encRows, ← Nat.succ_mul]
    exact Nat.mul_le_mul_right _ hj
  rw [codedRow, h.devRead hrow, encBytes, drop_take_flatMap (fun _ => length_encRow ..) (by simpa using hj), List.getElem_range,
    packedIndex_packIndices hw hw64 (by simpa using hn) (by simpa using encBest_lt m s j n)]
  simp

/-- The rows of what it finds in the bytes of the source. -/
def encFoundIn (m : Cmd) (s : State) (bs : List Byte) : List (List (Nat × Bool)) :=
  let src := heldBook s m.func m.b1
  let len := codedTensor src.w 1 m.encGroups
  (List.range m.encRows).map fun j => (List.range m.encGroups).map fun n => search (heldBook s m.func m.b2).rounded
    ((List.range src.d).map fun i => rv32 (src.qx (packedIndex src.w ((bs.drop (j * len)).take len) n) i))

theorem encFoundIn_devRead : encFoundIn m s (devRead s (hBase m.h + devOff (word m.es 0)) (m.encRows * codedTensor (heldBook s m.func m.b1).w 1 m.encGroups))
    = encFound m s := by
  refine List.map_congr_left fun j hj => ?_
  rw [drop_take_devRead s _ (by rw [← Nat.succ_mul]; exact Nat.mul_le_mul_right _ (List.mem_range.1 hj))]
  rfl

theorem encFound_flatMap : (encFound m s).flatMap (fun x => packIndices (heldBook s m.func m.b2).w (x.map (·.1))) = encBytes m s := by
  simp only [encFound, encBytes, List.flatMap_map, List.map_map]
  rfl

theorem perform_enc (hop : m.op = .enc) (h1 : heldCause s m.func m.b1 = none) (h2 : heldCause s m.func m.b2 = none) :
    perform c m s = (devIn (m.who (hTier m.h)) (hBase m.h + devOff (word m.es 0)) (m.encRows * codedTensor (heldBook s m.func m.b1).w 1 m.encGroups) s).andThen
      fun t bs => (devOut (m.who (hTier m.h2)) (hBase m.h2 + devOff (word m.es 1))
        ((encFoundIn m s bs).flatMap fun x => packIndices (heldBook s m.func m.b2).w (x.map (·.1))) t).andThen
        fun t _ => .done (setCmd c m.id (fun x => { x with sub := if (encFoundIn m s bs).any fun x => x.any (·.2) then 1 else 0 }) t) := by
  rw [perform, hop]
  simp only [performEnc, h1, h2, Option.orElse_none]
  rfl

theorem enc_performs (hop : m.op = .enc) (hm : s.mem.wf = true) (h1 : heldCause s m.func m.b1 = none) (h2 : heldCause s m.func m.b2 = none)
    (hx : Sound s (hTier m.h) (hBase m.h + devOff (word m.es 0)) (codedTensor (heldBook s m.func m.b1).w m.encRows m.encGroups))
    (hy : Sound s (hTier m.h2) (hBase m.h2 + devOff (word m.es 1)) (codedTensor (heldBook s m.func m.b2).w m.encRows m.encGroups))
    (hk : Keeps s (hBase m.h2 + devOff (word m.es 1)) (codedTensor (heldBook s m.func m.b2).w m.encRows m.encGroups)) :
    ∃ t, Stored s t (hBase m.h2 + devOff (word m.es 1)) (encBytes m s)
      ∧ perform c m s = .done (setCmd c m.id (fun x => { x with sub := if (encFound m s).any fun x => x.any (·.2) then 1 else 0 }) t) := by
  obtain ⟨t, ht, hst⟩ := devOut_of_sound (w := m.who (hTier m.h2)) (a := hBase m.h2 + devOff (word m.es 1)) (bs := encBytes m s) hm
    (by rw [length_encBytes]; exact hy) (by rw [length_encBytes]; exact hk)
  refine ⟨t, hst, ?_⟩
  rw [perform_enc hop h1 h2, devIn_of_sound (codedTensor_rows _ m.encRows _ ▸ hx)]
  simp only [Io.andThen, encFoundIn_devRead, encFound_flatMap, ht]

/-- A command changed is the one that the change makes. -/
theorem of_mem_setCmd {g : Cmd → Cmd} {id : Nat} {u : Cmd} {P : Cmd → Prop} (hg : ∀ x, P (g x)) (hu : u ∈ (getCore (setCmd c id g s) c).cmds)
    (hid : u.id = id) : P u := by
  rw [setCmd, Laws.getCore_modCore_same] at hu
  obtain ⟨x, -, rfl⟩ := List.mem_map.1 hu
  by_cases hx : x.id = id
  · rw [if_pos hx]
    exact hg x
  · rw [if_neg hx] at hid
    exact absurd hid hx

/-- UNENC of a command that has performed says whether a search failed. -/
theorem unenc_iff {t : State} {u : Cmd} {b : Bool} (hu : u ∈ (getCore (setCmd c m.id (fun x => { x with sub := if b then 1 else 0 }) t) c).cmds) (hid : u.id = m.id) :
    u.sub = 1 ↔ b = true := by
  refine of_mem_setCmd (P := fun u => u.sub = 1 ↔ b = true) (fun x => ?_) hu hid
  show (if b = true then 1 else 0) = 1 ↔ b = true
  cases b <;> decide

theorem codedRow_setCmd (id : Nat) (g : Cmd → Cmd) (t : State) (a w n j : Nat) : codedRow (setCmd c id g t) a w n j = codedRow t a w n j := by
  simp only [codedRow, devRead, devByte, setCmd, modCore_mem]

theorem devByte_setCmd (id : Nat) (g : Cmd → Cmd) (t : State) (x : Nat) : devByte (setCmd c id g t) x = devByte t x := by
  simp only [devByte, setCmd, modCore_mem]

theorem encFound_any : (encFound m s).any (fun x => x.any (·.2)) = true ↔ ∃ j n, j < m.encRows ∧ n < m.encGroups ∧ (encBest m s j n).2 = true := by
  simp only [encFound, List.any_eq_true, List.mem_map, List.mem_range]
  constructor
  · rintro ⟨_, ⟨j, hj, rfl⟩, _, hx, h⟩
    obtain ⟨n, hn, rfl⟩ := List.mem_map.1 hx
    exact ⟨j, n, hj, List.mem_range.1 hn, h⟩
  · rintro ⟨j, n, hj, hn, h⟩
    exact ⟨_, ⟨j, hj, rfl⟩, _, List.mem_map.2 ⟨n, List.mem_range.2 hn, rfl⟩, h⟩

/-! ### FLAPP -/

/-- A page of flash written. -/
theorem byte_flashWrite {a : Nat} {bs : List Byte} (hm : s.mem.wf = true) :
    (flashWrite s a bs).mem.wf = true
    ∧ (∀ i, (hi : i < bs.length) → Memory.byte (flashWrite s a bs).mem (a + i) = bs[i])
    ∧ ∀ z, z < a ∨ a + bs.length ≤ z → Memory.byte (flashWrite s a bs).mem z = Memory.byte s.mem z :=
  ⟨Laws.wf_store _ hm, fun _ hi => tget_store_inside hm hi, fun _ hz => tget_store_outside hm hz⟩

/-- `n` pages of bytes written to flash, page `i` at `place i`. -/
def flashPages (place : Nat → Nat) (bs : List Byte) (n : Nat) (s : State) : State :=
  (List.range n).foldl (fun s i => flashWrite s (place i) ((bs.drop (4096 * i)).take 4096)) s

theorem flashPages_keeps (place : Nat → Nat) (bs : List Byte) (n : Nat) (s : State) :
    (flashPages place bs n s).hub.logs = s.hub.logs ∧ ∀ d, getCore (flashPages place bs n s) d = getCore s d := by
  unfold flashPages
  induction List.range n generalizing s with
  | nil => exact ⟨rfl, fun _ => rfl⟩
  | cons i l ih => exact ih _

theorem flashPages_succ (place : Nat → Nat) (bs : List Byte) (n : Nat) (s : State) :
    flashPages place bs (n + 1) s = flashWrite (flashPages place bs n s) (place n) ((bs.drop (4096 * n)).take 4096) := by
  simp only [flashPages, List.range_succ, List.foldl_append, List.foldl_cons, List.foldl_nil]

/-- Pages that follow one another hold the bytes in order, and no other byte of memory changes. -/
theorem byte_flashPages {a : Nat} {place : Nat → Nat} {bs : List Byte} (hp : ∀ i, place i = a + 4096 * i) (hm : s.mem.wf = true) :
    ∀ {n : Nat}, 4096 * n ≤ bs.length → (flashPages place bs n s).mem.wf = true
    ∧ (∀ i, (hi : i < bs.length) → i < 4096 * n → Memory.byte (flashPages place bs n s).mem (a + i) = bs[i])
    ∧ ∀ z, z < a ∨ a + 4096 * n ≤ z → Memory.byte (flashPages place bs n s).mem z = Memory.byte s.mem z
  | 0, _ => ⟨hm, fun i _ hi => absurd hi (Nat.not_lt_zero i), fun _ _ => rfl⟩
  | n + 1, h => by
    obtain ⟨hwf, hin, hout⟩ := byte_flashPages hp hm (n := n) (bs := bs) (by omega)
    have hlen : ((bs.drop (4096 * n)).take 4096).length = 4096 := by rw [List.length_take, List.length_drop]; omega
    obtain ⟨hwf', hin', hout'⟩ := byte_flashWrite (a := a + 4096 * n) (bs := (bs.drop (4096 * n)).take 4096) hwf
    rw [flashPages_succ, hp]
    refine ⟨hwf', fun i hi hin1 => ?_, fun z hz => ?_⟩
    · by_cases hl : i < 4096 * n
      · rw [hout' _ (.inl (by omega)), hin i hi hl]
      · have := hin' (i - 4096 * n) (by omega)
        simpa only [List.getElem_take, List.getElem_drop, show a + 4096 * n + (i - 4096 * n) = a + i by omega, Nat.add_sub_cancel' (not_lt.1 hl)] using this
    · rw [hout' _ (by omega), hout _ (by omega)]

/-- Key, log and pages of a FLAPP. -/
def Cmd.flappKey (m : Cmd) : Nat := m.func * 16 + bits (word m.es 1).toNat 3 0
def Cmd.flappLog (m : Cmd) (s : State) : FlashLog := tget {} s.hub.logs m.flappKey
def Cmd.flappPages (m : Cmd) : Nat := bits (word m.es 1).toNat 15 8 + 1

/-- The address of page `i` of a FLAPP. -/
def Cmd.flappAt (m : Cmd) (s : State) (i : Nat) : Nat := (m.flappLog s).at_ ((m.flappLog s).ptr + i)

/-- The state after a FLAPP has written its pages: the log's pointer stands behind them. -/
def flappDone (m : Cmd) (u s : State) (bs : List Byte) : State :=
  modHub (fun h => { h with logs := tput h.logs m.flappKey { m.flappLog u with ptr := (m.flappLog u).ptr + m.flappPages } })
    (flashPages (m.flappAt u) bs m.flappPages s)

theorem perform_flapp (hop : m.op = .flapp) : perform c m s =
    if (m.flappLog s).pages < (m.flappLog s).ptr + m.flappPages + (m.flappLog s).bad.length then
      .done (State.bump (putWord c m.gb.toNat (bits (Config.openResult s.fresh).toNat 47 0 + place 7 48 8) s))
    else (localIn c (locWin (word m.es 0)) (locOff (word m.es 0)) (4096 * m.flappPages) s).andThen fun t bs =>
      .done (putWord c m.gb.toNat (bits (m.flappLog s).ptr 47 0) (flappDone m s t bs)) := by
  rw [perform, hop]
  rfl

theorem flapp_full (hop : m.op = .flapp) (hw : (getCore s c).scratch.wf = true)
    (h : (m.flappLog s).pages < (m.flappLog s).ptr + m.flappPages + (m.flappLog s).bad.length) :
    ∃ x, x < 2 ^ 48 ∧ Fills c m s m.gb.toNat 8 fun i => .ofNat 8 ((x + 7 * 2 ^ 48) / 256 ^ i) := by
  refine ⟨bits (Config.openResult s.fresh).toNat 47 0, by rw [bits_eq_div_mod]; omega, (filled_putWord hw _ _).bump.fills ?_⟩
  rw [perform_flapp hop, if_pos h]
  rfl

/-- Without bad pages the pages of a log follow one another. -/
theorem flappAt_of_noBad (hbad : (m.flappLog s).bad = []) (i : Nat) : m.flappAt s i = (m.flappLog s).base + 4096 * (m.flappLog s).ptr + 4096 * i := by
  simp only [Cmd.flappAt, FlashLog.at_, hbad, List.length_nil, goodPage]
  ring

theorem flapp_appends (hop : m.op = .flapp) (h : (m.flappLog s).ptr + m.flappPages ≤ (m.flappLog s).pages) (hbad : (m.flappLog s).bad = [])
    (ha : locWin (word m.es 0) = false) (hc : Clean s c false (locOff (word m.es 0)) (4096 * m.flappPages)) :
    perform c m s = .done (putWord c m.gb.toNat ((m.flappLog s).ptr % 2 ^ 48)
      (flappDone m s s (localRead s c false (locOff (word m.es 0)) (4096 * m.flappPages)))) := by
  have hroom : ¬ (m.flappLog s).pages < (m.flappLog s).ptr + m.flappPages + (m.flappLog s).bad.length := by rw [hbad, List.length_nil]; omega
  rw [perform_flapp hop, if_neg hroom, ha, localIn_of_clean hc, bits_eq_div_mod, pow_zero, Nat.div_one]
  rfl

theorem flappDone_logs (bs : List Byte) : tget {} (flappDone m s s bs).hub.logs m.flappKey = { m.flappLog s with ptr := (m.flappLog s).ptr + m.flappPages }
    ∧ ∀ k, k ≠ m.flappKey → tget {} (flappDone m s s bs).hub.logs k = tget {} s.hub.logs k := by
  refine ⟨Laws.tget_tput_same .., fun k hk => ?_⟩
  rw [← (flashPages_keeps (m.flappAt s) bs m.flappPages s).1]
  exact Laws.tget_tput_other _ _ _ _ hk _

/-- The log's pages hold the bytes in order, and the scratchpad stays. -/
theorem flappDone_bytes (hm : s.mem.wf = true) (hbad : (m.flappLog s).bad = []) {bs : List Byte} (hlen : bs.length = 4096 * m.flappPages) :
    (∀ i, (hi : i < bs.length) → Memory.byte (flappDone m s s bs).mem ((m.flappLog s).base + 4096 * (m.flappLog s).ptr + i) = bs[i])
    ∧ (∀ z, z < (m.flappLog s).base + 4096 * (m.flappLog s).ptr ∨ (m.flappLog s).base + 4096 * ((m.flappLog s).ptr + m.flappPages) ≤ z →
      Memory.byte (flappDone m s s bs).mem z = Memory.byte s.mem z)
    ∧ ∀ d, getCore (flappDone m s s bs) d = getCore s d := by
  obtain ⟨-, hin, hout⟩ := byte_flashPages (flappAt_of_noBad hbad) hm (le_of_eq hlen.symm)
  exact ⟨fun i hi => hin i hi (hlen ▸ hi), fun z hz => hout z (by omega), fun d => (flashPages_keeps ..).2 d⟩

end

end Sys2Proof.Machine

/-! ## Pins and shares of stitched tensors (R99, R101, R266, R368) -/

namespace Sys2Proof.Machine

/-! ### A version-table slot (Table 5-2) -/

theorem place_cur (cur : Bool) : place (if cur then 1 else 0) 2 1 < 8 ∧ place (if cur then 1 else 0) 2 1 % 4 = 0 ∧ (place (if cur then 1 else 0) 2 1 / 4 == 1) = cur := by
  cases cur <;> decide

theorem vsWith_split (x st pins : Nat) (cur : Bool) : vsWith x st cur pins
    = st + place (if cur then 1 else 0) 2 1 + x / 2 ^ 16 % 2 ^ 16 * 2 ^ 16 + pins % 2 ^ 32 * 2 ^ 32 + x / 2 ^ 64 * 2 ^ 64 := by
  have hver : bits x 31 16 = x / 2 ^ 16 % 2 ^ 16 := bits_eq_div_mod ..
  have hlt : bits x 31 16 < 2 ^ 16 := by rw [hver]; omega
  unfold vsWith
  rw [place_of_lt 16 hlt, hver, Nat.shiftRight_eq_div_pow, Nat.shiftLeft_eq]
  have hpins : place pins 32 32 = pins % 2 ^ 32 * 2 ^ 32 := by rw [place, Nat.shiftLeft_eq]
  rw [hpins]

/-- The slot word with another STATE, CUR and PINS keeps its other fields. -/
theorem vsWith_fields {x st pins : Nat} (cur : Bool) (hx : x < 2 ^ 256) (hst : st < 4) : vsWith x st cur pins < 2 ^ 256
    ∧ vsState (vsWith x st cur pins) = st ∧ vsCur (vsWith x st cur pins) = cur ∧ vsVer (vsWith x st cur pins) = vsVer x
    ∧ vsPins (vsWith x st cur pins) = pins % 2 ^ 32 ∧ vsN (vsWith x st cur pins) = vsN x ∧ vsLen (vsWith x st cur pins) = vsLen x
    ∧ vsList (vsWith x st cur pins) = vsList x := by
  obtain ⟨hb, hb4, hcur⟩ := place_cur cur
  rw [vsWith_split]
  generalize place (if cur then 1 else 0) 2 1 = b at *
  have hver := Nat.mod_lt (x / 2 ^ 16) (show 0 < 2 ^ 16 by decide)
  have hpins := Nat.mod_lt pins (show 0 < 2 ^ 32 by decide)
  simp only [vsState, vsCur, vsVer, vsPins, vsN, vsLen, vsList, bits_eq_div_mod]
  generalize hv : x / 2 ^ 16 % 2 ^ 16 = v at *
  generalize pins % 2 ^ 32 = p at *
  refine ⟨by omega, by omega, ?_, by omega, by omega, ?_, ?_, congrArg (· <<< 16) ?_⟩
  · rw [show (st + b + v * 2 ^ 16 + p * 2 ^ 32 + x / 2 ^ 64 * 2 ^ 64) / 2 ^ 2 % 2 ^ (2 + 1 - 2) = b / 4 by omega]
    exact hcur
  · omega
  · omega
  · omega
theorem devNat_lt (s : State) (a n : Nat) : devNat s a n < 256 ^ n := by
  have h : ∀ l : List Byte, ofLeBytes l < 256 ^ l.length := fun l => by
    induction l with
    | nil => decide
    | cons b l ih =>
      rw [ofLeBytes, List.length_cons, Nat.pow_succ]
      have := b.isLt
      omega
  simpa [devNat] using h (devRead s a n)

theorem vslot_lt (s : State) (a j : Nat) : vslot s a j < 2 ^ 256 := by
  unfold vslot
  split
  · decide
  · exact devNat_lt s _ 32

theorem vsState_lt (x : Nat) : vsState x < 4 := by rw [vsState, bits_eq_div_mod]; omega
theorem vsPins_lt (x : Nat) : vsPins x < 2 ^ 32 := by rw [vsPins, bits_eq_div_mod]; omega

theorem stored_setVslot {s : State} {a j : Nat} (x : Nat) (hm : s.mem.wf = true) (h : Writable s (vslotPa a j) 32) :
    Stored s (setVslot a j x s) (vslotPa a j) (leBytes x 32) := stored_devMerge hm (by rw [length_leBytes]; exact h)

theorem devKept_devPieces : ∀ (l : List (Nat × Nat)) (bs : List Byte) (s : State), DevKept s (devPieces l bs s)
  | [], _, s => .refl s
  | (a, n) :: l, bs, s => by
    rw [devPieces]
    split
    · exact (devKept_devWrite s a _).trans (devKept_devPieces l _ _)
    · exact devKept_devPieces l _ _

theorem devKept_setVslot (a j x : Nat) (s : State) : DevKept s (setVslot a j x s) := devKept_devPieces ..

/-! ### States that agree on device memory -/

/-- Device memory, the marks of its lines and what decides how it takes a write are the same. -/
structure SameDev (s t : State) : Prop where
  mem : t.mem = s.mem
  ranges : t.hub.ranges = s.hub.ranges
  cxlDown : t.hub.cxlDown = s.hub.cxlDown
  scrubLines : t.hub.scrubLines = s.hub.scrubLines
  badLines : t.hub.badLines = s.hub.badLines
  poison : t.hub.poison = s.hub.poison

namespace SameDev

theorem of_hub {s t : State} (hm : t.mem = s.mem) (hh : t.hub = s.hub) : SameDev s t := by
  refine ⟨hm, ?_, ?_, ?_, ?_, ?_⟩ <;> rw [hh]

theorem trans {s t u : State} (h : SameDev s t) (k : SameDev t u) : SameDev s u :=
  ⟨k.1.trans h.1, k.2.trans h.2, k.3.trans h.3, k.4.trans h.4, k.5.trans h.5, k.6.trans h.6⟩

variable {s t : State} (h : SameDev s t)
include h

theorem lineTier (x : Nat) : lineTier t x = lineTier s x := by simp only [Machine.lineTier, rangeOf, h.ranges]
theorem keepsByte (x : Nat) : keepsByte t x = keepsByte s x := by simp only [Machine.keepsByte, h.lineTier, h.cxlDown]
theorem lineBad (x : Nat) : lineBad t x = lineBad s x := by
  simp only [Machine.lineBad, h.lineTier, lineCode, h.cxlDown, h.scrubLines, h.badLines, h.poison]
theorem writable {x n : Nat} (hw : Writable s x n) : Writable t x n := fun i hi => by
  rw [h.keepsByte, h.lineBad]
  exact hw i hi
theorem devByte (x : Nat) : devByte t x = devByte s x := by simp only [Machine.devByte, h.mem, h.scrubLines]
theorem devNat (a n : Nat) : devNat t a n = devNat s a n := by simp only [Machine.devNat, devRead, h.devByte]
theorem headAt (a : Nat) : headAt t a = headAt s a := by simp only [Machine.headAt, h.lineBad, h.devNat]
theorem vslot (a j : Nat) : vslot t a j = vslot s a j := by simp only [Machine.vslot, h.lineBad, h.devNat]
theorem stitchSlot (a ver : Nat) : stitchSlot t a ver = stitchSlot s a ver := by simp only [Machine.stitchSlot, h.vslot]
theorem nextStitchVer (a : Nat) : nextStitchVer t a = nextStitchVer s a := by simp only [Machine.nextStitchVer, h.vslot, h.headAt]

end SameDev

/-- A change of a context leaves the scratchpad. -/
theorem scratch_modCtx (c k : Nat) (f : Context → Context) (s : State) (d : Nat) : (getCore (modCtx c k f s) d).scratch = (getCore s d).scratch := by
  unfold modCtx
  split
  · rfl
  · by_cases hd : d = c
    · rw [hd, Laws.getCore_modCore_same]
    · rw [Laws.getCore_modCore_other hd]

section
variable {c : Nat} {m : Cmd} {s : State} (hk : m.ctx < 4)
include hk

/-- A command of a running context belongs to it. -/
theorem ownerCtx_running (s : State) (c : Nat) : ownerCtx s c m = getCtx s c m.ctx := by rw [ownerCtx, ownerAt, if_pos hk]

theorem modOwner_running (f : Context → Context) (s : State) (c : Nat) :
    modOwner c m f s = modCtx c m.ctx (fun x => if x.task = m.task then f x else x) s := by rw [modOwner, modOwnerAt, if_pos hk]

theorem ownerCtx_modOwner (f : Context → Context) (ht : (ownerCtx s c m).task = m.task) : ownerCtx (modOwner c m f s) c m = f (ownerCtx s c m) := by
  rw [ownerCtx_running hk] at ht ⊢
  rw [modOwner_running hk, Laws.getCtx_modCtx_same, if_pos ht, ownerCtx_running hk]

end

section
variable {c : Nat} {m : Cmd} {s : State}

/-! ### PIN -/

/-- The slot word that a PIN leaves. -/
def pinned (x : Nat) : Nat := vsWith x (vsState x) (vsCur x) (vsPins x + 1)

/-- The pin that a PIN gives its context. -/
def Cmd.newPin (m : Cmd) (x : Nat) : Pin := { head := m.ga.toNat, ver := vsVer x, cmd := m.id }

theorem pin_performs (hop : m.op = .pin) (hc : headCause s m true = none) (hk : m.ctx < 4) (hl : (ownerCtx s c m).life = .running) (ht : (ownerCtx s c m).task = m.task) :
    let x := vslot s m.ga.toNat (hdSlot (headAt s m.ga.toNat))
    perform c m s = .done (modOwner c m (fun y => { y with pins := y.pins ++ [m.newPin x] })
      (localOut c false m.gb.toNat (leBytes (pinned x) 32) (setVslot m.ga.toNat (hdSlot (headAt s m.ga.toNat)) (pinned x) s))) := by
  intro x
  have hown : ownerCtx (localOut c false m.gb.toNat (leBytes (pinned x) 32) (setVslot m.ga.toNat (hdSlot (headAt s m.ga.toNat)) (pinned x) s)) c m = ownerCtx s c m := by
    rw [ownerCtx_running hk, ownerCtx_running hk]
    exact ((devKept_setVslot ..).contexts.trans (.localStore ..)).ctx c m.ctx
  have hstay : ¬(m.ctx < 4 ∧ ((ownerCtx s c m).life ≠ .running ∨ (ownerCtx s c m).task ≠ m.task)) := by simp [hl, ht]
  rw [perform, hop]
  simp only [performPin, hc]
  rw [← pinned, hown, if_neg hstay]
  rfl

/-- What a PIN leaves: the slot's word with one pin more, at its record too, and the pin of the context. -/
theorem pin_state (hm : s.mem.wf = true) (hw : (getCore s c).scratch.wf = true) (hk : m.ctx < 4) (ht : (ownerCtx s c m).task = m.task) {a j : Nat}
    (hwr : Writable s (vslotPa a j) 32) {x x' : Nat} (hx : x' < 2 ^ 256) :
    let t := modOwner c m (fun y => { y with pins := y.pins ++ [m.newPin x] }) (localOut c false m.gb.toNat (leBytes x' 32) (setVslot a j x' s))
    devNat t (vslotPa a j) 32 = x' ∧ (∀ i, i < 32 → Memory.byte (getCore t c).scratch (m.gb.toNat + i) = .ofNat 8 (x' / 256 ^ i))
      ∧ (∀ z, z < vslotPa a j ∨ vslotPa a j + 32 ≤ z → devByte t z = devByte s z) ∧ (ownerCtx t c m).pins = (ownerCtx s c m).pins ++ [m.newPin x] := by
  have hst := stored_setVslot x' hm hwr
  have hf := filled_localOut (c := c) (s := setVslot a j x' s) (by rw [hst.getCore]; exact hw) m.gb.toNat (leBytes x' 32)
  have hown : ownerCtx (localOut c false m.gb.toNat (leBytes x' 32) (setVslot a j x' s)) c m = ownerCtx s c m := by
    rw [ownerCtx_running hk, ownerCtx_running hk]
    exact (hst.contexts.trans hf.contexts).ctx c m.ctx
  have hdev : SameDev (setVslot a j x' s) (modOwner c m (fun y => { y with pins := y.pins ++ [m.newPin x] })
      (localOut c false m.gb.toNat (leBytes x' 32) (setVslot a j x' s))) := by
    rw [modOwner_running hk]
    exact .of_hub ((modCtx_mem ..).1.trans hf.mem) ((modCtx_mem ..).2.trans hf.hub)
  refine ⟨?_, fun i hi => ?_, fun z hz => ?_, ?_⟩
  · rw [hdev.devNat, hst.devNat]
    exact Nat.mod_eq_of_lt hx
  · rw [modOwner_running hk, scratch_modCtx]
    rw [leBytes_eq_map] at hf ⊢
    exact hf.inside_map i hi
  · rw [hdev.devByte]
    exact hst.outside z (by rw [length_leBytes]; exact hz)
  · rw [ownerCtx_modOwner hk _ (by rw [hown]; exact ht), hown]

/-! ### UNPIN -/

/-- The slot word that an UNPIN leaves. -/
def unpinned (x : Nat) : Nat := vsWith x 1 (vsCur x) (vsPins x - 1)

/-- A pin that is not the last of a version that is not current goes from its count alone. -/
theorem dropPin_kept {f a ver j : Nat} (hj : stitchSlot s a ver = some j) (h : 1 < vsPins (vslot s a j) ∨ vsCur (vslot s a j) = true) :
    dropPin f a ver s = setVslot a j (unpinned (vslot s a j)) s := by
  have hstay : ¬(vsPins (vslot s a j) ≤ 1 ∧ (!vsCur (vslot s a j)) = true) := by
    rintro ⟨hle, hcur⟩
    rcases h with h | h
    · omega
    · simp [h] at hcur
  simp only [dropPin, hj, if_neg hstay, unpinned]

theorem unpin_performs (hop : m.op = .unpin) (hsub : m.sub = 0) (hc : headCause s m false = none) (hp : (ownerCtx s c m).pins.any m.takes = true)
    {j : Nat} (hj : stitchSlot s m.ga.toNat m.pinVer = some j) (h : 1 < vsPins (vslot s m.ga.toNat j) ∨ vsCur (vslot s m.ga.toNat j) = true) :
    perform c m s = .done (dropPin m.func m.ga.toNat m.pinVer (modOwner c m (fun y => { y with pins := y.pins.eraseP m.takes }) s)) := by
  have hlast : lastPins s m.ga.toNat m.pinVer 1 = false := by
    rw [lastPins, hj, Option.any_some]
    rcases h with h | h
    · rw [decide_eq_false (by omega), Bool.false_and]
    · rw [h, Bool.not_true, Bool.and_false]
  rw [perform, hop]
  simp only [performUnpin, hsub, hc, hlast, hp, Nat.zero_ne_one, if_false, if_true, Bool.false_eq_true]

/-- What an UNPIN that is not the last leaves: the slot's word with one pin less, and the context without its pin. -/
theorem unpin_state (hm : s.mem.wf = true) (hk : m.ctx < 4) (ht : (ownerCtx s c m).task = m.task) {f a ver j : Nat} (hj : stitchSlot s a ver = some j)
    (h : 1 < vsPins (vslot s a j) ∨ vsCur (vslot s a j) = true) (hwr : Writable s (vslotPa a j) 32) (g : Context → Context) :
    let t := dropPin f a ver (modOwner c m g s)
    devNat t (vslotPa a j) 32 = unpinned (vslot s a j) ∧ (∀ z, z < vslotPa a j ∨ vslotPa a j + 32 ≤ z → devByte t z = devByte s z)
      ∧ ownerCtx t c m = g (ownerCtx s c m) := by
  have hdev : SameDev s (modOwner c m g s) := by
    rw [modOwner_running hk]
    exact .of_hub (modCtx_mem ..).1 (modCtx_mem ..).2
  have hx : vslot (modOwner c m g s) a j = vslot s a j := hdev.vslot a j
  have hdrop : dropPin f a ver (modOwner c m g s) = setVslot a j (unpinned (vslot s a j)) (modOwner c m g s) := by
    rw [dropPin_kept ((hdev.stitchSlot a ver).trans hj) (by rw [hx]; exact h), hx]
  have hst := stored_setVslot (unpinned (vslot s a j)) (by rw [hdev.mem]; exact hm) (hdev.writable hwr)
  dsimp only
  rw [hdrop]
  refine ⟨?_, fun z hz => ?_, ?_⟩
  · rw [hst.devNat]
    exact Nat.mod_eq_of_lt (vsWith_fields _ (vslot_lt s a j) (by decide)).1
  · rw [hst.outside z (by rw [length_leBytes]; exact hz), hdev.devByte]
  · rw [ownerCtx_running hk, hst.contexts.ctx, ← ownerCtx_running hk, ownerCtx_modOwner hk _ ht]

/-! ### SHARE -/

/-- One holder more of a page: its count, and a reference for a SPLICE to take. -/
def countShare (p : Nat) (s : State) : State :=
  modHub (fun h => { h with prepared := tset 0 h.prepared p (tget 0 h.prepared p + 1) })
    (setDesc p (mkDesc (dState (desc s p)) (dOwner (desc s p)) (dShare (desc s p) + 1) (dStamp (desc s p))) s)

theorem share_eq (p : Nat) (s : State) : (holders s p = [] → share p s = (8, dShare (desc s p), s))
    ∧ (holders s p ≠ [] → dShare (desc s p) = 32767 → share p s = (2, dShare (desc s p), s))
    ∧ (holders s p ≠ [] → dShare (desc s p) < 32767 → share p s = (0, dShare (desc s p) + 1, countShare p s)) := by
  unfold share
  refine ⟨fun h => ?_, fun h hn => ?_, fun h hn => ?_⟩
  · rw [h]; rfl
  · rw [if_neg (by simpa using h), if_pos hn, hn]
  · rw [if_neg (by simpa using h), if_neg (by omega)]; rfl

theorem desc_countShare_other {p q : Nat} (hp : twf 0 s.hub.pages = true) (hq : q ≠ p) : desc (countShare p s) q = desc s q := desc_setDesc_other _ hp hq

theorem desc_countShare_same {p : Nat} (hp : twf 0 s.hub.pages = true) (hn : dShare (desc s p) < 32767) : dOwner (desc (countShare p s) p) = dOwner (desc s p)
    ∧ dState (desc (countShare p s) p) = dState (desc s p) ∧ dShare (desc (countShare p s) p) = dShare (desc s p) + 1 := by
  have hself : desc (countShare p s) p = (mkDesc (dState (desc s p)) (dOwner (desc s p)) (dShare (desc s p) + 1) (dStamp (desc s p))).toNat :=
    desc_setDesc_same p _ hp
  rw [hself]
  exact ⟨dOwner_mkDesc _ _ (dState_lt _) (dOwner_lt _), dState_mkDesc _ _ _ (dState_lt _), dShare_mkDesc _ _ (dState_lt _) (by omega)⟩

theorem dShare_lt (d : Nat) : dShare d < 2 ^ 15 := by rw [dShare, bits_eq_div_mod]; omega

/-- The state of a SHARE that answers a word. -/
theorem shareWord_state {u : State} (hu : u.mem = s.mem) (hcore : getCore u c = getCore s c) (hw : (getCore s c).scratch.wf = true) (x v : Nat) :
    (putWord c x v u).mem = s.mem ∧ (∀ q, desc (putWord c x v u) q = desc u q)
      ∧ ∀ i, i < 8 → Memory.byte (getCore (putWord c x v u) c).scratch (x + i) = .ofNat 8 (v / 256 ^ i) := by
  have hf := filled_putWord (s := u) (by rw [hcore]; exact hw) x v
  exact ⟨hf.mem.trans hu, fun q => by simp only [desc, hf.hub], hf.inside_map⟩

/-- The state that a SHARE leaves. -/
def shareDone (c x p : Nat) (s : State) : State := putWord c x ((share p s).1 + place (share p s).2.1 8 15) (share p s).2.2

theorem shareDone_of {x p a b : Nat} {u : State} (h : share p s = (a, b, u)) (hb : b < 2 ^ 15) : shareDone c x p s = putWord c x (a + b * 256) u := by
  simp only [shareDone, h, place_of_lt 8 hb]
  rfl

/-- It answers the count, or that nothing holds the page or the count is full, and changes no descriptor but the count of the page. -/
theorem shareDone_spec (hp : twf 0 s.hub.pages = true) (hw : (getCore s c).scratch.wf = true) (x p : Nat) :
    let t := shareDone c x p s
    let n := dShare (desc s p)
    let word (v : Nat) : Prop := ∀ i, i < 8 → Memory.byte (getCore t c).scratch (x + i) = .ofNat 8 (v / 256 ^ i)
    t.mem = s.mem ∧ (∀ q, q ≠ p → desc t q = desc s q) ∧ dOwner (desc t p) = dOwner (desc s p) ∧ dState (desc t p) = dState (desc s p)
    ∧ (holders s p = [] → word (8 + n * 256) ∧ dShare (desc t p) = n)
    ∧ (holders s p ≠ [] → n = 32767 → word (2 + n * 256) ∧ dShare (desc t p) = n)
    ∧ (holders s p ≠ [] → n < 32767 → word ((n + 1) * 256) ∧ dShare (desc t p) = n + 1) := by
  intro t n word
  have hlt : n < 2 ^ 15 := dShare_lt (desc s p)
  obtain ⟨hnone, hfull, hcount⟩ := share_eq p s
  by_cases he : holders s p = []
  · have ht : t = putWord c x (8 + n * 256) s := shareDone_of (hnone he) hlt
    obtain ⟨hmem, hdesc, hword⟩ := shareWord_state (u := s) rfl rfl hw x (8 + n * 256)
    rw [← ht] at hmem hdesc hword
    exact ⟨hmem, fun q _ => hdesc q, congrArg dOwner (hdesc p), congrArg dState (hdesc p), fun _ => ⟨hword, congrArg dShare (hdesc p)⟩,
      fun h => absurd he h, fun h => absurd he h⟩
  · by_cases hn : n = 32767
    · have ht : t = putWord c x (2 + n * 256) s := shareDone_of (hfull he hn) hlt
      obtain ⟨hmem, hdesc, hword⟩ := shareWord_state (u := s) rfl rfl hw x (2 + n * 256)
      rw [← ht] at hmem hdesc hword
      exact ⟨hmem, fun q _ => hdesc q, congrArg dOwner (hdesc p), congrArg dState (hdesc p), fun h => absurd h he,
        fun _ _ => ⟨hword, congrArg dShare (hdesc p)⟩, fun _ h => absurd hn (Nat.ne_of_lt h)⟩
    · have hsmall : n < 32767 := by omega
      have ht : t = putWord c x ((n + 1) * 256) (countShare p s) :=
        (shareDone_of (hcount he hsmall) (Nat.succ_lt_succ hsmall)).trans (by rw [Nat.zero_add])
      obtain ⟨hmem, hdesc, hword⟩ := shareWord_state (u := countShare p s) rfl rfl hw x ((n + 1) * 256)
      rw [← ht] at hmem hdesc hword
      obtain ⟨howner, hstate, hshare⟩ := desc_countShare_same hp hsmall
      exact ⟨hmem, fun q hq => (hdesc q).trans (desc_countShare_other hp hq), (congrArg dOwner (hdesc p)).trans howner, (congrArg dState (hdesc p)).trans hstate,
        fun h => absurd h he, fun _ h => absurd h hn, fun _ _ => ⟨hword, (congrArg dShare (hdesc p)).trans hshare⟩⟩

theorem share_performs (hop : m.op = .share) (hc : headsCause s m.func = none)
    (hh : ∀ a ∈ holders s (bits m.h.toNat 51 16), hdVer (headAt s a) ≠ 0 ∧ hdFunc (headAt s a) = m.func ∧ headSound s a = true) :
    perform c m s = .done (shareDone c m.gb.toNat (bits m.h.toNat 51 16) s) := by
  have hown : ((holders s (bits m.h.toNat 51 16)).any fun a => hdVer (headAt s a) == 0 || hdFunc (headAt s a) != m.func) = false :=
    List.any_eq_false.2 fun a ha => by simp [hh a ha]
  have hsound : ((holders s (bits m.h.toNat 51 16)).any fun a => !headSound s a) = false := List.any_eq_false.2 fun a ha => by simp [hh a ha]
  rw [perform, hop]
  simp only [performShare, hc, hown, hsound, Bool.false_eq_true, if_false, shareDone]

end

end Sys2Proof.Machine

/-! ## SPLICE (R96, R97, R304) -/

namespace Sys2Proof.Machine

/-! ### What the steps of a SPLICE leave of device memory -/

/-- Ranges and links stay, and memory keeps its canonical form. -/
structure SameRanges (s t : State) : Prop where
  ranges : t.hub.ranges = s.hub.ranges
  cxlDown : t.hub.cxlDown = s.hub.cxlDown
  wf : s.mem.wf = true → t.mem.wf = true

namespace SameRanges

theorem refl (s : State) : SameRanges s s := ⟨rfl, rfl, id⟩

theorem trans {s t u : State} (h : SameRanges s t) (k : SameRanges t u) : SameRanges s u := ⟨k.1.trans h.1, k.2.trans h.2, k.3 ∘ h.3⟩

theorem of_dev {s t : State} (h : DevKept s t) : SameRanges s t := ⟨h.ranges, h.cxlDown, h.wf⟩

theorem of_sameDev {s t : State} (h : SameDev s t) : SameRanges s t := ⟨h.ranges, h.cxlDown, fun hw => by rw [h.mem]; exact hw⟩

theorem keepsByte {s t : State} (h : SameRanges s t) (x : Nat) : keepsByte t x = keepsByte s x := by
  simp only [Machine.keepsByte, Machine.lineTier, rangeOf, h.ranges, h.cxlDown]

/-- A fold of steps that keep them. -/
theorem foldl {α : Type} {g : State → α → State} (h : ∀ s a, SameRanges s (g s a)) (l : List α) : ∀ s, SameRanges s (l.foldl g s) := by
  induction l with
  | nil => exact refl
  | cons a l ih => exact fun s => (h s a).trans (ih _)

end SameRanges

theorem sameDev_takePage {f p : Nat} {s t : State} (h : takePage f s = some (p, t)) : SameDev s t := by
  unfold takePage at h
  dsimp only at h
  split at h
  · cases h
  · obtain ⟨rfl, rfl⟩ := h
    exact ⟨rfl, rfl, rfl, rfl, rfl, rfl⟩

theorem sameDev_takePages {f : Nat} : ∀ {n : Nat} {s t : State} {l : List Nat}, takePages f n s = some (l, t) → SameDev s t
  | 0, s, t, l, h => by
    obtain ⟨rfl, rfl⟩ : [] = l ∧ s = t := by simpa [takePages] using h
    exact .of_hub rfl rfl
  | n + 1, s, t, l, h => by
    rw [takePages] at h
    split at h
    · cases h
    · next p s' h1 =>
      split at h
      · cases h
      · next l' s'' h2 =>
        obtain ⟨rfl, rfl⟩ : p :: l' = l ∧ s'' = t := by simpa using h
        exact (sameDev_takePage h1).trans (sameDev_takePages h2)

theorem sameRanges_mapPage (f va pfn : Nat) (s : State) : SameRanges s (mapPage f va pfn s) := by
  unfold mapPage
  split
  · exact .refl s
  · exact .of_dev (devKept_devWrite ..)

theorem sameRanges_mapAll (f : Nat) : ∀ (vs ps : List Nat) (s : State), SameRanges s (mapAll f vs ps s)
  | [], _, s => .refl s
  | _ :: _, [], s => .refl s
  | v :: vs, p :: ps, s => by
    have hzero : SameRanges s { s with mem := Memory.zero s.mem (p <<< 16) 65536 } := ⟨rfl, rfl, fun h => Laws.wf_zero _ _ h⟩
    exact (hzero.trans (sameRanges_mapPage ..)).trans (sameRanges_mapAll f vs ps _)

theorem sameRanges_writeList (f list : Nat) (l : List Nat) (s : State) : SameRanges s (writeList f list l s) :=
  .foldl (fun s k => by
    split
    · exact .of_dev (devKept_devPieces ..)
    · exact .refl s) _ s

theorem sameRanges_setVslot (a j x : Nat) (s : State) : SameRanges s (setVslot a j x s) := .of_dev (devKept_setVslot ..)

/-! ### The list of a SPLICE -/

theorem peFill_place (e v : Nat) : peFill (e + place v 16 36) = peFill e := by
  rw [peFill, peFill, bits_eq_div_mod, bits_eq_div_mod, place, Nat.shiftLeft_eq]
  omega

/-- Fresh pages change PAGE of the entries alone. -/
theorem fillFresh_peFill : ∀ l vs : List Nat, (fillFresh l vs).map peFill = l.map peFill
  | [], _ => rfl
  | e :: l, vs => by
    unfold fillFresh
    split
    · split
      · rw [List.map_cons, List.map_cons, peFill_place, fillFresh_peFill l]
      · rw [List.map_cons, List.map_cons, fillFresh_peFill l]
    · rw [List.map_cons, List.map_cons, fillFresh_peFill l]

theorem peFill_entry (e b v : Nat) : peFill (bits e 10 0 + place b 11 1 + place v 16 36) = peFill e := by
  rw [peFill, peFill, bits_eq_div_mod, bits_eq_div_mod, place, place, Nat.shiftLeft_eq, Nat.shiftLeft_eq]
  omega

/-- The pieces of a version with a SPLICE made. -/
def splicePlan (old : List Nat) (r : SpliceReq) (ins : List Nat) : List Nat := old.take r.pos ++ ins ++ old.drop (r.pos + r.nrem)

theorem length_splicePlan {s : State} {f a c off : Nat} {old ins : List Nat} (h : spliceRange s f a (spliceReq s c off) old = true)
    (hins : ins.map peFill = (spliceReq s c off).ins.map peFill) :
    (splicePlan old (spliceReq s c off) ins).length = old.length - (spliceReq s c off).nrem + (spliceReq s c off).nins
      ∧ old.length - (spliceReq s c off).nrem + (spliceReq s c off).nins ≤ 65536 := by
  simp only [spliceRange, Bool.and_eq_true, decide_eq_true_eq] at h
  obtain ⟨⟨⟨⟨-, hent⟩, hpos⟩, hcap⟩, -⟩ := h
  have hn : (spliceReq s c off).ins.length = (spliceReq s c off).nins := by
    have hent' : ¬ 0x400000 < bits (privNat s c off 32) 114 96 * 8 + 8 * bits (privNat s c off 32) 80 64 := not_lt.2 hent
    simp only [spliceReq, if_neg hent', List.length_map, List.length_range]
  have hlen : ins.length = (spliceReq s c off).nins := by rw [← hn, ← List.length_map peFill, hins, List.length_map]
  refine ⟨?_, hcap⟩
  rw [splicePlan, List.length_append, List.length_append, List.length_take, List.length_drop, hlen]
  omega

/-! ### The head that a SPLICE publishes (Table 5-1) -/

/-- The head of a tensor with a new version. -/
def newHead (h f j ver n len tick src : Nat) : Nat :=
  bits h 10 0 + place j 16 3 + place (if hdVer h = 0 then f else hdFunc h) 24 5 + place ver 32 16 + place n 64 17 + place len 96 32
    + place (bits h 163 128) 128 36 + place (bits h 208 192) 192 17 + place tick 256 64 + place src 320 16

/-- A field placed is a multiple. -/
theorem place_eq_mul (v lo w : Nat) : place v lo w = v % 2 ^ w * 2 ^ lo := by rw [place, Nat.shiftLeft_eq]

theorem bits_lt (x hi lo : Nat) : bits x hi lo < 2 ^ (hi + 1 - lo) := by
  rw [bits_eq_div_mod]
  exact Nat.mod_lt _ (Nat.two_pow_pos _)

/-- The fields of a number packed of the fields of a head. -/
theorem packed_head_fields {e j fn v n l a k t r : Nat} (he : e < 2 ^ 11) (hj : j < 2 ^ 3) (hf : fn < 2 ^ 5) (hv : v < 2 ^ 16) (hn : n < 2 ^ 17) (hl : l < 2 ^ 32)
    (ha : a < 2 ^ 36) (hk : k < 2 ^ 17) (ht : t < 2 ^ 64) (hr : r < 2 ^ 16) :
    let x := e + j * 2 ^ 16 + fn * 2 ^ 24 + v * 2 ^ 32 + n * 2 ^ 64 + l * 2 ^ 96 + a * 2 ^ 128 + k * 2 ^ 192 + t * 2 ^ 256 + r * 2 ^ 320
    x < 2 ^ 512 ∧ x / 2 ^ 0 % 2 ^ 11 = e ∧ x / 2 ^ 16 % 2 ^ 3 = j ∧ x / 2 ^ 19 % 2 ^ 1 = 0 ∧ x / 2 ^ 24 % 2 ^ 5 = fn ∧ x / 2 ^ 32 % 2 ^ 16 = v
      ∧ x / 2 ^ 64 % 2 ^ 17 = n ∧ x / 2 ^ 96 % 2 ^ 32 = l ∧ x / 2 ^ 128 % 2 ^ 36 = a ∧ x / 2 ^ 192 % 2 ^ 17 = k := by
  refine ⟨?_, ?_, ?_, ?_, ?_, ?_, ?_, ?_, ?_, ?_⟩ <;> omega

theorem newHead_fields {h f j ver n len tick src : Nat} (hj : j < 8) (hn : n ≤ 65536) :
    let x := newHead h f j ver n len tick src
    x < 256 ^ 64 ∧ hdVer x = ver % 65536 ∧ hdBusy x = false ∧ hdSlot x = j ∧ hdN x = n ∧ hdLen x = len % 2 ^ 32 ∧ hdEunit x = hdEunit h ∧ hdArea x = hdArea h
      ∧ hdAnum x = hdAnum h ∧ hdFunc x = if hdVer h = 0 then f % 32 else hdFunc h := by
  have hfun : (if hdVer h = 0 then f else hdFunc h) % 2 ^ 5 = if hdVer h = 0 then f % 32 else hdFunc h := by
    split
    · rfl
    · exact Nat.mod_eq_of_lt (bits_lt ..)
  have hx : newHead h f j ver n len tick src = bits h 10 0 + j * 2 ^ 16 + (if hdVer h = 0 then f % 32 else hdFunc h) * 2 ^ 24 + ver % 2 ^ 16 * 2 ^ 32 + n * 2 ^ 64
      + len % 2 ^ 32 * 2 ^ 96 + bits h 163 128 * 2 ^ 128 + bits h 208 192 * 2 ^ 192 + tick % 2 ^ 64 * 2 ^ 256 + src % 2 ^ 16 * 2 ^ 320 := by
    simp only [newHead, place_eq_mul]
    rw [hfun, Nat.mod_eq_of_lt (show j < 2 ^ 3 from hj), Nat.mod_eq_of_lt (show n < 2 ^ 17 by omega), Nat.mod_eq_of_lt (bits_lt h 163 128 : _ < 2 ^ 36),
      Nat.mod_eq_of_lt (bits_lt h 208 192 : _ < 2 ^ 17)]
  obtain ⟨hlt, h1, h2, h3, h4, h5, h6, h7, h8, h9⟩ := packed_head_fields (bits_lt h 10 0) (show j < 2 ^ 3 from hj)
    (hfun ▸ Nat.mod_lt _ (by decide) : (if hdVer h = 0 then f % 32 else hdFunc h) < 2 ^ 5) (Nat.mod_lt ver (by decide)) (show n < 2 ^ 17 by omega)
    (Nat.mod_lt len (by decide)) (bits_lt h 163 128) (bits_lt h 208 192) (Nat.mod_lt tick (by decide)) (Nat.mod_lt src (by decide))
  intro x
  rw [← hx] at hlt h1 h2 h3 h4 h5 h6 h7 h8 h9
  have hbusy : hdBusy x = false := by rw [hdBusy, (bits_eq_div_mod x 19 19).trans h3]; rfl
  exact ⟨hlt.trans_eq (by rw [show (256 : ℕ) = 2 ^ 8 by norm_num, ← pow_mul]), (bits_eq_div_mod ..).trans h5, hbusy, (bits_eq_div_mod ..).trans h2,
    (bits_eq_div_mod ..).trans h6, (bits_eq_div_mod ..).trans h7, (bits_eq_div_mod ..).trans h1, congrArg (· <<< 16) ((bits_eq_div_mod ..).trans h8),
    (bits_eq_div_mod ..).trans h9, (bits_eq_div_mod ..).trans h4⟩

/-! ### The answers of a SPLICE -/

section
variable {c off f a src : Nat} {s : State}

/-- Pages that a SPLICE needs: those of the new list and those for entries that ask for one. -/
def spliceNeed (old : List Nat) (r : SpliceReq) : Nat := ((splicePlan old r r.ins).length + 8191) / 8192 + r.ins.countP fun e => pePage e == 0

/-- The first free slot of the version table. -/
def freeSlot (s : State) (a : Nat) : Option Nat := vslots.find? fun j => vsState (vslot s a j) == 0

theorem splice_range (h : spliceRange s f a (spliceReq s c off) (currentPieces s f a) = false) : splice f a src c off s = .stat 6 := by
  simp only [splice, h, Bool.not_false, if_true]

theorem freeSlot_none (h : (vslots.all fun j => vsState (vslot s a j) != 0) = true) : freeSlot s a = none := by
  rw [freeSlot, List.find?_eq_none]
  intro j hj
  simpa using List.all_eq_true.1 h j hj

theorem freeSlot_some (h : (vslots.all fun j => vsState (vslot s a j) != 0) = false) : ∃ j, freeSlot s a = some j := by
  obtain ⟨j, hj, hz⟩ := List.all_eq_false.1 h
  exact Option.isSome_iff_exists.1 (List.find?_isSome.2 ⟨j, hj, by simpa using hz⟩)

section
variable (hr : spliceRange s f a (spliceReq s c off) (currentPieces s f a) = true)
include hr

theorem splice_taken (h : (vslots.all fun j => vsState (vslot s a j) != 0) = true) : splice f a src c off s = .stat 3 := by
  have hj : (vslots.find? fun j => vsState (vslot s a j) == 0) = none := freeSlot_none h
  simp only [splice, hr, Bool.not_true, Bool.false_eq_true, if_false, hj]

variable (h : (vslots.all fun j => vsState (vslot s a j) != 0) = false)
include h

theorem splice_quota (hn : spliceNeed (currentPieces s f a) (spliceReq s c off) ≠ 0)
    (hq : withinQuota s f (spliceNeed (currentPieces s f a) (spliceReq s c off)) = false) : splice f a src c off s = .stat 1 := by
  obtain ⟨j, hj⟩ := freeSlot_some h
  rw [freeSlot] at hj
  rw [spliceNeed, splicePlan] at hn hq
  simp only [splice, hr, Bool.not_true, Bool.false_eq_true, if_false, hj, hn, hq, Bool.not_false, ne_eq, not_false_eq_true, and_self, if_true]

theorem splice_area (hq : withinQuota s f (spliceNeed (currentPieces s f a) (spliceReq s c off)) = true)
    (ha : (areaFree s f a).length < spliceNeed (currentPieces s f a) (spliceReq s c off)) : splice f a src c off s = .stat 5 := by
  obtain ⟨j, hj⟩ := freeSlot_some h
  rw [freeSlot] at hj
  rw [spliceNeed, splicePlan] at ha hq
  simp only [splice, hr, Bool.not_true, Bool.false_eq_true, if_false, hj, hq, and_false, ha, true_or, if_true]

end

theorem splice_noNeed (hn : spliceNeed (currentPieces s f a) (spliceReq s c off) = 0) :
    splice f a src c off s ≠ .stat 1 ∧ splice f a src c off s ≠ .wait := by
  rw [spliceNeed, splicePlan] at hn
  unfold splice
  extract_lets h r old plan nl nf area foreign o
  have hn : nl + nf = 0 := hn
  split
  · exact ⟨by simp, by simp⟩
  · split
    · exact ⟨by simp, by simp⟩
    · rw [if_neg (by simp [hn])]
      split
      · exact ⟨by simp, by simp⟩
      · next lists _ =>
        rw [hn, takePages]
        exact ⟨nofun, nofun⟩

theorem localStore_mem (c : Nat) (l : List (Nat × Byte)) (s : State) : (localStore c false l s).mem = s.mem ∧ (localStore c false l s).hub = s.hub := by
  have h : localStore c false l s = modCore c (fun k => { k with scratch := Memory.store k.scratch l }) s := rfl
  rw [h]
  exact modCore_mem ..

/-- A head joins the list of heads. -/
theorem addHead_mem (a : Nat) (s : State) : (if a ∈ s.hub.heads then s else { s with hub := { s.hub with heads := a :: s.hub.heads } }).mem = s.mem
    ∧ (if a ∈ s.hub.heads then s else { s with hub := { s.hub with heads := a :: s.hub.heads } }).hub.scrubLines = s.hub.scrubLines := by
  split <;> exact ⟨rfl, rfl⟩

theorem devNat_of_mem {s t : State} (h : t.mem = s.mem ∧ t.hub.scrubLines = s.hub.scrubLines) (a n : Nat) : devNat t a n = devNat s a n := by
  simp only [devNat, devRead, devByte, h]

/-- What a SPLICE that publishes leaves: the number of its version, and the new head where the engine can write it and no version retires. -/
theorem splice_publishes {t : State} {ver : Nat} (hm : s.mem.wf = true) (h : splice f a src c off s = .ok t ver) :
    ver = nextStitchVer s a ∧ (Writable s a 64 → (hdVer (headAt s a) = 0 ∨ 0 < vsPins (vslot s a (hdSlot (headAt s a)))) →
      ∃ j ins len tick, freeSlot s a = some j ∧ spliceRange s f a (spliceReq s c off) (currentPieces s f a) = true
        ∧ ins.map peFill = (spliceReq s c off).ins.map peFill ∧ len = ((splicePlan (currentPieces s f a) (spliceReq s c off) ins).map peFill).sum
        ∧ devNat t a 64 = newHead (headAt s a) f j ver (splicePlan (currentPieces s f a) (spliceReq s c off) ins).length len tick src % 256 ^ 64) := by
  unfold splice at h
  extract_lets hd r old plan nl nf area foreign o at h
  split at h
  · cases h
  next hr =>
  split at h
  · cases h
  next j hj =>
  split at h
  · cases h
  split at h
  · cases h
  next lists hlists =>
  split at h
  · cases h
  next pfns s1 htake =>
  extract_lets vr ov vas s2 ins new taken s3 list base s4 len x s5 s6 hd' s7 hub7 s8 s9 s10 at h
  obtain ⟨rfl, rfl⟩ : s10 = t ∧ vr = ver := by injection h; exact ⟨‹_›, ‹_›⟩
  have hsame : SameDev s s1 := sameDev_takePages htake
  refine ⟨hsame.nextStitchVer a, fun hwrite hkeep => ?_⟩
  have hranges : SameRanges s s6 := by
    have h3 : SameRanges s2 s3 := .foldl (fun u p => by split <;> exact ⟨rfl, rfl, id⟩) _ _
    have h5 : SameRanges s s5 := (SameRanges.of_sameDev hsame).trans ((sameRanges_mapAll ..).trans (h3.trans ((sameRanges_writeList ..).trans (sameRanges_setVslot ..))))
    refine h5.trans ?_
    unfold s6
    split
    · exact .refl s5
    · exact sameRanges_setVslot ..
  have hstored : Stored s6 s7 a (leBytes hd' 64) := stored_devWrite (hranges.wf hm) fun i hi => by
    rw [hranges.keepsByte]
    exact (hwrite i (by simpa using hi)).1
  clear_value s7
  have hfill : list.map peFill = new.map peFill := by
    rw [List.map_map]
    exact List.map_congr_left fun e _ => peFill_entry ..
  have hcount : list.length = (splicePlan old r ins).length := List.length_map _
  have hmem : s10.mem = s7.mem ∧ s10.hub.scrubLines = s7.hub.scrubLines := by
    have hstay : ¬(hdVer hd ≠ 0 ∧ vsPins ov = 0) := by
      have hov : ov = vslot s a o := hsame.vslot a o
      rw [hov]
      rintro ⟨hv, hp⟩
      rcases hkeep with h | h
      · exact hv h
      · exact absurd hp (Nat.pos_iff_ne_zero.1 h)
    have h9 : s9 = s8 := if_neg hstay
    have h10 : s10.mem = s8.mem ∧ s10.hub = s8.hub := h9 ▸ localStore_mem ..
    have h8 : s8.mem = s7.mem ∧ s8.hub.scrubLines = s7.hub.scrubLines := addHead_mem a s7
    rw [h10.1, h10.2]
    exact h8
  refine ⟨j, ins, len, s6.tick.toNat, hj, by simpa using hr, (fillFresh_peFill ..), congrArg List.sum hfill, ?_⟩
  calc devNat s10 a 64 = devNat s7 a 64 := devNat_of_mem hmem a 64
    _ = hd' % 256 ^ 64 := hstored.devNat
    _ = _ := by rw [show hd' = newHead hd f j vr list.length len s6.tick.toNat src from rfl, hcount]

/-- The fields of the head that it publishes. -/
theorem splice_head {t : State} {ver : Nat} (hm : s.mem.wf = true) (h : splice f a src c off s = .ok t ver) (hw : Writable s a 64)
    (hkeep : hdVer (headAt s a) = 0 ∨ 0 < vsPins (vslot s a (hdSlot (headAt s a)))) :
    let r := spliceReq s c off
    let old := currentPieces s f a
    let x := devNat t a 64
    hdVer x = ver % 65536 ∧ hdBusy x = false ∧ vsState (vslot s a (hdSlot x)) = 0 ∧ (∀ j, j < hdSlot x → vsState (vslot s a j) ≠ 0)
      ∧ hdN x = old.length - r.nrem + r.nins ∧ hdLen x = ((splicePlan old r r.ins).map peFill).sum % 2 ^ 32 ∧ hdEunit x = hdEunit (headAt s a)
      ∧ hdArea x = hdArea (headAt s a) ∧ hdAnum x = hdAnum (headAt s a) ∧ hdFunc x = if hdVer (headAt s a) = 0 then f % 32 else hdFunc (headAt s a) := by
  intro r old x
  obtain ⟨j, ins, len, tick, hj, hr, hins, hlen, hx⟩ := (splice_publishes hm h).2 hw hkeep
  obtain ⟨hcount, hcap⟩ := length_splicePlan hr hins
  obtain ⟨hzero, hfirst⟩ : vsState (vslot s a j) = 0 ∧ j < 8 ∧ ∀ k, k < j → vsState (vslot s a k) ≠ 0 := by
    have h8 : vslots = List.range 8 := rfl
    rw [freeSlot, h8, List.find?_range_eq_some] at hj
    obtain ⟨hz, hmem, hbefore⟩ := hj
    exact ⟨by simpa using hz, by simpa using hmem, fun k hk => by simpa using hbefore k hk⟩
  obtain ⟨hlt, hver, hbusy, hslot, hn, hl, heunit, harea, hanum, hfunc⟩ :=
    newHead_fields (h := headAt s a) (f := f) (ver := ver) (len := len) (tick := tick) (src := src) hfirst.1 (hcount.trans_le hcap)
  rw [← hx.trans (Nat.mod_eq_of_lt hlt)] at hver hbusy hslot hn hl heunit harea hanum hfunc
  refine ⟨hver, hbusy, ?_, ?_, hn.trans hcount, ?_, heunit, harea, hanum, hfunc⟩
  · rw [hslot]; exact hzero
  · rw [hslot]; exact hfirst.2
  · rw [hl, hlen, splicePlan, splicePlan]
    simp only [List.map_append, hins, r]
    rfl

end

/-! ### A SPLICE at its turn -/

section
variable {c : Nat} {m : Cmd} {s : State} (hop : m.op = .splice) (hbegan : m.began ≠ 0) (hhead : headCause s m false = none)
  (hfree : m.aux = 1 ∨ hdBusy (headAt s m.ga.toNat) = false ∧ headTaken s m = false) (hcause : spliceCause s c m = none)
include hop hbegan hfree

/-- Nothing holds the SPLICE back from its head. -/
theorem perform_splice : (m.aux != 1 && (hdBusy (headAt s m.ga.toNat) || headTaken s m)) = false ∧ perform c m s = spliceTurn c m s := by
  have harrive : arrive c m s = (s, m) := if_neg hbegan
  refine ⟨?_, ?_⟩
  · rcases hfree with h | ⟨hb, ht⟩
    · simp [h]
    · simp [hb, ht]
  · rw [perform, hop]
    simp only [performSplice, harrive]

include hhead hcause

theorem splice_stat {code : Nat} (h : splice m.func m.ga.toNat (srcEngine c 2) c m.gb.toNat s = .stat code) :
    (m.sub = 0 → perform c m s = .done (answerSplice c m.gb.toNat code none (letHead c m s)))
    ∧ (m.sub = 1 → perform c m s = .susp (letHead c m s) { cls := 6, code := 0x10 + code, addr := Config.openAddr s.fresh }) := by
  obtain ⟨hgo, hturn⟩ := perform_splice hop hbegan hfree
  rw [hturn]
  simp only [spliceTurn, hhead, hgo, hcause, h, Bool.false_eq_true, if_false]
  exact ⟨fun hs => if_neg (by omega), fun hs => if_pos hs⟩

theorem splice_waits (h : splice m.func m.ga.toNat (srcEngine c 2) c m.gb.toNat s = .wait) :
    perform c m s = .wait (setBusy m.ga.toNat true (setCmd c m.id (fun x => { x with aux := 1 }) s)) := by
  obtain ⟨hgo, hturn⟩ := perform_splice hop hbegan hfree
  rw [hturn]
  simp only [spliceTurn, hhead, hgo, hcause, h, Bool.false_eq_true, if_false]

theorem splice_answers {t : State} {ver : Nat} (h : splice m.func m.ga.toNat (srcEngine c 2) c m.gb.toNat s = .ok t ver) :
    perform c m s = .done (answerSplice c m.gb.toNat 0 (some ver) t) := by
  obtain ⟨hgo, hturn⟩ := perform_splice hop hbegan hfree
  rw [hturn]
  simp only [spliceTurn, hhead, hgo, hcause, h, Bool.false_eq_true, if_false]

end

end Sys2Proof.Machine

/-! ## CPYA (R259, R260, R362) -/

namespace Sys2Proof.Machine

section
variable {c : Nat} {m : Cmd} {s : State}

/-! ### Offsets and sides -/

/-- The bytes of a run, and how far it lies along the strides of a side. -/
def Cmd.runBytes (m : Cmd) : Nat := bits (word m.es 2).toNat 31 0
def cpyaAlong (es : List (BitVec 64)) (dst : Bool) (i : Nat × Nat × Nat) : Int :=
  i.1 * cpyaStride es dst 1 + i.2.1 * cpyaStride es dst 2 + i.2.2 * cpyaStride es dst 3

theorem cpyaOff_eq (es : List (BitVec 64)) (dst : Bool) (base : Nat) (i : Nat × Nat × Nat) : cpyaOff es dst base 0 i = base + cpyaAlong es dst i := by
  simp only [cpyaOff, cpyaAlong, ixAt, List.map_cons, List.map_nil, List.sum_cons, List.sum_nil]
  norm_num
  ring

/-- A run that lies within a space. -/
theorem runOutside_within {limit n : Nat} {x : Int} (h0 : 0 ≤ x) (h : x + n ≤ limit) : runOutside limit n [x] = none := by
  simp [runOutside, not_lt.2 h0, not_lt.2 h]

section
variable (hind : cpyaInd m.es = false) (i : Nat × Nat × Nat)
include hind

/-- A run of a CPYA without a table within a space. -/
def RunWithin (c : Nat) (m : Cmd) (w : BitVec 64) (dst : Bool) (i : Nat × Nat × Nat) : Prop :=
  0 ≤ locOff w + cpyaAlong m.es dst i ∧ locOff w + cpyaAlong m.es dst i + m.runBytes ≤ spaceBytes c (locWin w)

theorem cpyaSides_within (hsub : m.sub = 2) (ha : RunWithin c m (word m.es 0) false i) (hb : RunWithin c m (word m.es 1) true i) :
    cpyaSides s c m i = .ok (some (.loc (locWin (word m.es 0)) (locOff (word m.es 0) + cpyaAlong m.es false i).toNat,
      .loc (locWin (word m.es 1)) (locOff (word m.es 1) + cpyaAlong m.es true i).toNat)) := by
  have hra := runOutside_within ha.1 ha.2
  have hrb := runOutside_within hb.1 hb.2
  rw [Cmd.runBytes] at hra hrb
  simp [cpyaSides, hind, hsub, cpyaDev, cpyaOff_eq, hra, hrb]

theorem cpyaSides_fromDevice (hsub : m.sub = 0) (hb : RunWithin c m (word m.es 1) true i) :
    cpyaSides s c m i = .ok (some (.dev m.h (devOff (word m.es 0) + cpyaAlong m.es false i).toNat,
      .loc (locWin (word m.es 1)) (locOff (word m.es 1) + cpyaAlong m.es true i).toNat)) := by
  have hrb := runOutside_within hb.1 hb.2
  rw [Cmd.runBytes] at hrb
  simp [cpyaSides, hind, hsub, cpyaDev, cpyaOff_eq, hrb]

theorem cpyaSides_toDevice (hsub : m.sub = 1) (ha : RunWithin c m (word m.es 0) false i) :
    cpyaSides s c m i = .ok (some (.loc (locWin (word m.es 0)) (locOff (word m.es 0) + cpyaAlong m.es false i).toNat,
      .dev m.h (devOff (word m.es 1) + cpyaAlong m.es true i).toNat)) := by
  have hra := runOutside_within ha.1 ha.2
  rw [Cmd.runBytes] at hra
  simp [cpyaSides, hind, hsub, cpyaDev, cpyaOff_eq, hra]

end

/-- A run that FILL leaves out. -/
theorem cpyaSides_skipped (hind : cpyaInd m.es = true) (hfill : cpyaFillb m.es = true) {i : Nat × Nat × Nat} {e : Nat} (he : m.claim[ixAt i (cpyaDim m.es)]? = some e)
    (hle : peFill e ≤ ixAt i (cpyaDim m.es - 1)) : cpyaSides s c m i = .ok none := by
  simp [cpyaSides, hind, hfill, cpyaEntry, he, hle]

/-! ### Runs in loop order -/

theorem cpyaLoop_skip {i : Nat × Nat × Nat} (h : cpyaSides s c m i = .ok none) (rest : List (Nat × Nat × Nat)) :
    cpyaLoop c m (i :: rest) s = cpyaLoop c m rest s := by simp only [cpyaLoop, h]

theorem cpyaLoop_run {i : Nat × Nat × Nat} {a b : Side} {t : State} (h : cpyaSides s c m i = .ok (some (a, b)))
    (hr : copyRun c m a b (bits (word m.es 2).toNat 31 0) s = .ok t []) (rest : List (Nat × Nat × Nat)) :
    cpyaLoop c m (i :: rest) s = cpyaLoop c m rest t := by simp only [cpyaLoop, h, hr]

/-- An indirect CPYA with the first entry of its table read. -/
def Cmd.withEntry (m : Cmd) (s : State) (e : Nat) (x : Cmd) : Cmd :=
  { x with claim := [e], runs := m.runs + (cpyaNext m).length, aux := s.cycle, remote := m.remote || entryFar s m.func e }

section
variable (hop : m.op = .cpya)
include hop

theorem cpya_performs (hind : cpyaInd m.es = false) (hruns : m.runs = 0) {t : State} {l : List Byte} (h : cpyaLoop c m (cpyaRuns m.es) s = .ok t l) :
    perform c m s = .done t := by
  have hnext : cpyaNext m = cpyaRuns m.es := by simp [cpyaNext, hind, hruns]
  rw [perform, hop]
  simp [performCpya, hind, hnext, h, Io.andThen, hruns]

/-! ### The table of an indirect CPYA -/

theorem cpya_readsFirst (hind : cpyaInd m.es = true) (hclaim : m.claim = []) (hn : 0 < cpyaEntries m.es) (hc : Clean s c false (cpyaTbl m.es + 8 * cpyaFirst m.es) 8) :
    perform c m s = .wait (setCmd c m.id (m.withEntry s (ofLeBytes (localRead s c false (cpyaTbl m.es + 8 * cpyaFirst m.es) 8))) s) := by
  rw [perform, hop]
  simp only [performCpya, hind, hclaim, List.isEmpty_nil, Bool.and_self, if_true, cpyaRead, List.length_nil, Nat.add_zero, hn, localIn_of_clean hc, Io.andThen,
    List.nil_append]
  rfl

theorem cpya_waits (hind : cpyaInd m.es = true) (hclaim : m.claim ≠ []) (hcycle : s.cycle < m.aux + 16) : perform c m s = .wait s := by
  have hne : m.claim.isEmpty = false := by simpa using hclaim
  rw [perform, hop]
  simp only [performCpya, hind, hne, Bool.and_false, Bool.false_eq_true, if_false, decide_eq_true hcycle, Bool.true_or, Bool.and_true, if_true]

end

end

end Sys2Proof.Machine

/-! ## What commands do when they perform (R50 to R275, R304, R368): O48 -/

namespace Sys2Proof.Machine

/-- Settles O48: each clause is the lemma of its command. -/
theorem copiesAndSignalsPerform : Obligations.CopiesAndSignalsPerform := by
  unfold Obligations.CopiesAndSignalsPerform
  intro c m s hw hm scratch clean sound fills stores le writable own
  refine ⟨fun hop => ?cpy, fun hop htwf => ?evsig, fun hop hs htags => ?fill, fun hop => ?cpyw, fun hop => ?rmw, fun hop => ?pgalloc,
    fun hop htwf => ?pgfree, fun hop hc => ?send, fun hop => ?drain, fun hop hr => ?cbind, fun hop => ?cbrev, fun hop h1 h2 => ?enc, fun hop => ?flapp,
    fun hop hbegan hhead hfree hcause => ?splice, fun hop hc hk hl ht => ?pin, fun hop hsub hc hk ht hp => ?unpin, fun hop hc htwf => ?share,
    fun hop => ?cpya⟩
  case cpy =>
    intro a b n
    refine ⟨fun h2 ha hb hc => cpy_within hop h2 ha hb hc hw, fun h0 hb hs => cpy_fromDevice hop h0 hb hs hw, fun h1 ha hc hs hk => ?_⟩
    obtain ⟨t, ht, hst⟩ := cpy_toDevice hop h1 ha hc hs hk hm
    exact ⟨t, ht, hst.getCore, hst.inside_map, hst.outside_map⟩
  case evsig =>
    exact ⟨_, perform_evsig hop, rfl, counter_addCounter_same _ _ _ htwf, fun f j hne => counter_addCounter_other _ htwf hne⟩
  case fill =>
    obtain ⟨t, hf, ht⟩ := probeFill_performs hop hw hs
    refine ⟨_, ht, (modCore_mem ..).1.trans hf.mem, (modCore_mem ..).2.trans hf.hub, fun i hi => ?_, fun y hy => ?_, fun n b hb => ?_⟩
    · simp only [scratch, Laws.getCore_modCore_same]
      exact hf.inside_map i hi
    · simp only [scratch, Laws.getCore_modCore_same]
      exact hf.outside_map y hy
    · rw [Laws.getCore_modCore_same, hf.tags]
      exact getLsbD_fillDone htags n hb
  case cpyw =>
    intro q a n hremote hwin
    refine ⟨fun h2 ha hc => cpyw_fillsSlot hop hremote hwin hw rfl ?_, fun h0 hs => cpyw_fillsSlot hop hremote hwin hw rfl ?_⟩
    · simp only [copySide, h2, show word m.es 0 = a from rfl, ha]
      exact localIn_of_clean hc
    · simp only [copySide, h0]
      exact devIn_of_sound (w := m.who (hTier m.h)) hs
  case rmw =>
    intro n x old b d new_ dst _ hs hk
    obtain ⟨u, t, ht, hst, hf⟩ := rmw_performs hop hw hm (n := n) rfl hs hk
    have hpow : 2 ^ (8 * n) = 256 ^ n := by rw [pow_mul]; norm_num
    have hnew : m.rmwNew s n = new_ := by
      simp only [Cmd.rmwNew, atomNew, hpow]
      rfl
    rw [hnew, leBytes_eq_map] at hst
    refine ⟨t, ht, ⟨fun i hi => (hf.devByte _).trans (hst.inside_map i hi), fun y hy => (hf.devByte y).trans (hst.outside_map y hy)⟩, hf.inside_map, fun y hy => ?_⟩
    exact (hf.outside_map y hy).trans (by rw [hst.getCore])
  case pgalloc => exact ⟨fun p l hp => pgalloc_page hop hw hp, fun hp => pgalloc_quota hop hw hp⟩
  case pgfree =>
    intro p
    refine ⟨fun hst hsh => ?_, fun hst => ⟨_, pgfree_other hop hst, rfl, rfl⟩⟩
    obtain ⟨hstate, hmem, hfree⟩ := quarantine_page p htwf
    exact ⟨_, pgfree_allocated hop hst hsh, hstate, hmem, hfree⟩
  case send =>
    refine ⟨fun hmsg haway => send_away hmsg hc haway, fun hhere hr => ?_⟩
    obtain ⟨t, ht, hmem, hinbox⟩ := send_local hop hc hhere hr
    exact ⟨t, _, ht, hmem, hinbox, rfl, rfl, rfl, rfl, fun i hi => record_byte _ hi⟩
  case drain => rw [perform, hop]
  case cbind =>
    intro n va l hl h x ht hs
    exact cbind_fills hop hw hr hl ht hs
  case cbrev =>
    refine ⟨fun h0 h2 => cbrev_stat hop hw h0 h2, fun h0 j p vp v hclaim hc he hh => ⟨fun hmis => cbrev_mismatch hop h0 hclaim hc he hh hmis, fun hmis hv => ?_⟩⟩
    obtain ⟨h1, h2, h3, h4, h5, h6⟩ := newHeader_fields m.ga (nextBookVer s m.func (bId m.ga)) s.tick.toNat (srcEngine c 1) s.tick.isLt
    exact ⟨_, h1, h2, h3, h4, h5, h6, cbrev_publishes hop h0 hclaim hc he hh hmis hv⟩
  case enc =>
    intro src dst x y g r row best hx hy hk
    obtain ⟨t, hst, ht⟩ := enc_performs (c := c) hop hm h1 h2 hx hy hk
    refine ⟨_, ht, fun j n hj hn => ?_, fun z hz => ?_, fun u hu hid => (unenc_iff hu hid).trans encFound_any⟩
    · exact (congrArg (packedIndex dst.w · n) (codedRow_setCmd ..)).trans (packedIndex_encBytes hst hj hn)
    · rw [devByte_setCmd]
      exact hst.outside z (by rw [length_encBytes]; exact hz)
  case flapp =>
    intro a key n l
    refine ⟨fun h => flapp_full hop hw h, fun h hbad ha hc => ?_⟩
    have hlen := length_localRead s c false (locOff a) (4096 * n)
    obtain ⟨hin, hout, hcore⟩ := flappDone_bytes (m := m) hm hbad hlen
    have hf := filled_putWord (c := c) (s := flappDone m s s (localRead s c false (locOff a) (4096 * n))) (by rw [hcore]; exact hw) m.gb.toNat (l.ptr % 2 ^ 48)
    obtain ⟨hlog, hlogs⟩ := flappDone_logs (m := m) (s := s) (localRead s c false (locOff a) (4096 * n))
    refine ⟨_, flapp_appends hop h hbad ha hc, (congrArg (fun u : Hub => tget {} u.logs key) hf.hub).trans hlog,
      fun k hk => (congrArg (fun u : Hub => tget {} u.logs k) hf.hub).trans (hlogs k hk), fun i hi => ?_, fun z hz => ?_, hf.inside_map⟩
    · refine (congrArg (fun u => Memory.byte u (l.base + 4096 * l.ptr + i)) hf.mem).trans ?_
      exact (hin i (hlen.symm ▸ hi)).trans (by simp [localRead, localByte, scratch])
    · exact (congrArg (fun u => Memory.byte u z) hf.mem).trans (hout z hz)
  case splice =>
    intro f a off hd r old plan fresh need taken out
    refine ⟨splice_range, splice_taken, splice_quota, splice_area, splice_noNeed, fun code hout => ?_, fun hout => ⟨_, ?_, rfl⟩,
      fun t ver hout => ⟨?_, (splice_publishes hm hout).1, splice_head hm hout⟩⟩
    · obtain ⟨h0, h1⟩ := splice_stat hop hbegan hhead hfree hcause hout
      exact ⟨h0, fun hs => ⟨_, h1 hs, rfl, rfl⟩⟩
    · exact splice_waits hop hbegan hhead hfree hcause hout
    · exact splice_answers hop hbegan hhead hfree hcause hout
  case pin =>
    intro a j x hwr
    obtain ⟨hlt, hstate, hcur, hver, hpins, hn, hlen, hlist⟩ := vsWith_fields (pins := vsPins x + 1) (vsCur x) (vslot_lt s a j) (vsState_lt x)
    obtain ⟨hy, hrec, hout, hown⟩ := pin_state (c := c) (x := x) hm hw hk ht hwr hlt
    refine ⟨_, pin_performs hop hc hk hl ht, ?_⟩
    intro y
    have hy : y = pinned x := hy
    rw [hy]
    exact ⟨hstate, hcur, hver, hn, hlen, hlist, hpins, hrec, hout, m.newPin x, hown, rfl, rfl, rfl, rfl⟩
  case unpin =>
    intro a j hj x h hwr
    obtain ⟨-, hstate, hcur, hver, hpins, hn, hlen, hlist⟩ := vsWith_fields (st := 1) (pins := vsPins x - 1) (vsCur x) (vslot_lt s a j) (by decide)
    obtain ⟨hy, hout, hown⟩ := unpin_state (c := c) (f := m.func) hm hk ht hj h hwr (fun y => { y with pins := y.pins.eraseP m.takes })
    refine ⟨_, unpin_performs hop hsub hc hp hj h, ?_⟩
    intro y
    have hy : y = unpinned x := hy
    have hlt := vsPins_lt x
    rw [hy]
    exact ⟨hstate, hcur, hver, hn, hlen, hlist, hpins.trans (Nat.mod_eq_of_lt (by omega)), hout, congrArg Context.pins hown⟩
  case share =>
    exact fun hh => ⟨_, share_performs hop hc hh, shareDone_spec htwf hw m.gb.toNat _⟩
  case cpya =>
    intro n lo hi along runs
    refine ⟨fun hind hr t l h => cpya_performs hop hind hr h, fun hind i _ => ?sides, fun i h => cpyaLoop_skip h, fun i a b h hc => ?within,
      fun i h a b hs hsound => ?fromDevice, fun i a h b hs hc hsound hk => ?toDevice, fun hind hclaim => ?first, cpya_waits hop,
      fun hind hfill i e he hle => cpyaSides_skipped hind hfill he hle⟩
    case sides =>
      intro side
      exact ⟨fun h2 ha0 ha1 hb0 hb1 => cpyaSides_within hind i h2 ⟨ha0, ha1⟩ ⟨hb0, hb1⟩, fun h0 hb0 hb1 => cpyaSides_fromDevice hind i h0 ⟨hb0, hb1⟩,
        fun h1 ha0 ha1 => cpyaSides_toDevice hind i h1 ⟨ha0, ha1⟩⟩
    case within =>
      obtain ⟨t, ht, hf⟩ := copyRun_loc_loc (m := m) (b := b) hw hc
      exact ⟨t, cpyaLoop_run h ht, hf.mem, hf.hub, hf.inside_map, hf.outside_map⟩
    case fromDevice =>
      obtain ⟨t, ht, hf⟩ := copyRun_dev_loc (m := m) (b := b) hw hsound
      exact ⟨t, cpyaLoop_run hs ht, hf.mem, hf.hub, hf.inside_map, hf.outside_map⟩
    case toDevice =>
      obtain ⟨t, ht, hst⟩ := copyRun_loc_dev (m := m) hm hc hsound hk
      exact ⟨t, cpyaLoop_run hs ht, hst.inside_map, hst.outside_map⟩
    case first =>
      intro x hn hc
      refine ⟨_, cpya_readsFirst hop hind hclaim hn hc, (modCore_mem ..).1, fun u hu hid => ?_⟩
      exact of_mem_setCmd (P := fun u => u.claim = [ofLeBytes ((List.range 8).map fun i => scratch s (x + i))] ∧ u.aux = s.cycle) (fun _ => ⟨rfl, rfl⟩) hu hid

end Sys2Proof.Machine

/-! ## A bundle of one syllable (R104, R105, R161, R325): O8 -/

namespace Sys2Proof.Machine

section
variable {w : Word} {i : Instr} {o : SlotOp} {s t u : State}

/-- A syllable with STOP, where the cache holds it, is a bundle by itself (R160). -/
theorem bundleAt_of_stop {co : Core} {f : Nat} {pc : BitVec 64} (hw : icSyll co f pc.toNat = some w) (hstop : stopOf w = true) :
    bundleAt co f pc = .whole [w] := by
  have h0 : icSyll co f (pc + 8 * BitVec.ofNat 64 0).toNat = some w := by simpa using hw
  unfold bundleAt readBundle readTemplate
  simp only [h0, hstop]
  rfl

/-- The one slot of a syllable that decodes. -/
def SlotOp.of (w : Word) (i : Instr) : SlotOp := ⟨(tagOf w).toNat, w, i⟩

theorem slotOps_single (hi : decodeSyll w = .ok i) : slotOps [w] = [SlotOp.of w i] := by
  simp [slotOps, hi, SlotOp.of]

/-- One slot cannot enter two operations into a queue (R277). -/
theorem pairBlock_single (pre : State) : pairBlock pre [o] = none := by
  have h1 (p : Instr → Bool) : decide (2 ≤ [o].countP fun o => p o.instr) = false := by
    have hle : [o].countP (fun o => p o.instr) ≤ 1 := List.countP_le_length
    exact decide_eq_false (by omega)
  unfold pairBlock
  simp only [h1, Bool.false_and, Bool.false_eq_true, if_false]

/-- A bundle of one slot that neither waits nor faults commits behind its effect (R325). -/
theorem trySlots_single (hc : issueCauses (asReleased (preBundle s)) [o] (isBranch o.instr) = [])
    (ht : exec o.instr (preBundle s) = .next t) (htb : t.ctx.block = none) (htf : t.ctx.frozen = none)
    (hu : exec o.instr (asReleased (preBundle s)) = .next u) (hub : u.ctx.block = none) :
    trySlots [o] s = .commit (commit (isBranch o.instr) t) := by
  have hstop : slotStop (preBundle s) o = none := by simp [slotStop, ht]
  have hblock : bundleBlock (asReleased (preBundle s)) [o] = none := by
    simp [bundleBlock, pairBlock_single, slotBlock, hu, hub]
  have hrun : runSlots [o] (preBundle s) = .next t := by simp [runSlots, ht, runRest]
  have hcause : bundleCause (issueCauses (asReleased (preBundle s)) [o] (isBranch o.instr)) = none := by rw [hc]; rfl
  simp [trySlots, hstop, hblock, hcause, hrun, htb, htf]

/-- What the context holds of the lengths of the bundle at its program counter, once the cache has what it needs: of a link's, those of the delay bundles too (R181). -/
def Fetched (s : State) (i : Instr) (c : Context) : Prop :=
  if isLink i = true then ∃ d1 d2, bundleLen s.core s.ctx.func.toNat (s.ctx.pc + 8) = some d1
    ∧ bundleLen s.core s.ctx.func.toNat (s.ctx.pc + 8 + .ofNat 64 d1) = some d2 ∧ c = { s.ctx with len := 8, delayLen := d1 + d2 }
  else c = { s.ctx with len := 8 }

/-- A syllable that decodes without a cause issues as one slot, the lengths it needs at hand. -/
theorem tryWords_single {c : Context} (hi : decodeSyll w = .ok i) (hd : decodeCauses s [w] = []) (hf : Fetched s i c) :
    tryWords [w] s = trySlots [SlotOp.of w i] { s with ctx := c } := by
  have hcause : bundleCause (decodeCauses s [w]) = none := by rw [hd]; rfl
  have hany : ([SlotOp.of w i].any fun o => isLink o.instr) = isLink i := by simp [SlotOp.of]
  unfold tryWords
  rw [hcause]
  simp only [slotOps_single hi, hany]
  unfold Fetched at hf
  split
  · next hl =>
    rw [if_pos hl] at hf
    obtain ⟨d1, d2, h1, h2, rfl⟩ := hf
    have h1' : bundleLen s.core s.ctx.func.toNat (s.ctx.pc + .ofNat 64 (8 * [w].length)) = some d1 := h1
    have h2' : bundleLen s.core s.ctx.func.toNat (s.ctx.pc + .ofNat 64 (8 * [w].length) + .ofNat 64 d1) = some d2 := h2
    rw [h1']
    dsimp only
    rw [h2']
    rfl
  · next hl =>
    rw [if_neg hl] at hf
    rw [hf]
    rfl

/-- Outside a team a core that may issue settles the attempt of its running context. -/
theorem issue_of_mayIssue (hteam : inTeam s = false) (h : mayIssue s = true) : issue s = settle s (tryIssue s) := by
  have hfree : issueFree s = settle s (tryIssue s) := by rw [issueFree, if_pos h]
  unfold issue
  unfold inTeam at hteam
  split
  · next t ht =>
    rw [ht] at hteam
    simp only [hteam, hfree]
    rfl
  · exact hfree

/-- A move of the agenda that names the core in focus issues there. -/
theorem step_run {rest : List Move} (ha : s.agenda = .run s.coreId :: rest) (hc : isCore s.coreId = true) :
    step s = issue { s with agenda := rest } := by
  have hfocus : focusCore s.coreId { s with agenda := rest } = { s with agenda := rest } := Laws.focusCore_self { s with agenda := rest }
  rw [step, nextMove, ha]
  dsimp only [runMove]
  rw [Laws.atCore_of hc, hfocus]

end

/-- Settles O8: the agenda's move issues the syllable at the program counter as a bundle of one slot, which commits. -/
theorem stepRunsDecodedInstruction : Obligations.StepRunsDecodedInstruction := by
  unfold Obligations.StepRunsDecodedInstruction
  intro s t u rest w i base pc f fetched c hf pre hagenda hcore hteam hmay hw hstop hi hd hcauses ht htb htf hu hub _
  have htry : tryIssue base = .commit (commit (isBranch i) t) := by
    rw [tryIssue, bundleAt_of_stop hw hstop]
    exact (tryWords_single hi hd hf).trans (trySlots_single hcauses ht htb htf hu hub)
  calc step s = issue base := step_run hagenda hcore
    _ = settle base (tryIssue base) := issue_of_mayIssue hteam hmay
    _ = .next (commit (isBranch i) t) := by rw [htry]; rfl

end Sys2Proof.Machine

/-! ## Due results land (R104, R173): O12 -/

namespace Sys2Proof.Machine

open Sys2Proof.Laws (tget_tset_same tget_tset_other twf_tset)

/-! ### Landings in a row -/

section
variable {α β : Type} {step : α → Flight → α} {ok : α → Prop} {sound : Flight → Prop} {d : Dest} {rd : α → β} {put : β → Flight → β}

/-- One destination of a landing: a result that names it is put there, and any other leaves it. -/
structure Lands (step : α → Flight → α) (ok : α → Prop) (sound : Flight → Prop) (d : Dest) (rd : α → β) (put : β → Flight → β) : Prop where
  keep : ∀ x f, ok x → ok (step x f)
  other : ∀ x f, ok x → sound f → f.dest ≠ d → rd (step x f) = rd x
  hit : ∀ x f, ok x → f.dest = d → rd (step x f) = put (rd x) f

/-- Exactly one result of the list is for the destination, and it is `f`. -/
def Once (l : List Flight) (d : Dest) (f : Flight) : Prop := ∃ a b, l = a ++ f :: b ∧ f.dest = d ∧ ∀ h ∈ a ++ b, h.dest ≠ d

theorem Lands.foldl_ok (h : Lands step ok sound d rd put) : ∀ (l : List Flight) {x : α}, ok x → ok (l.foldl step x)
  | [], _, hx => hx
  | f :: l, x, hx => h.foldl_ok l (h.keep x f hx)

/-- Results for other destinations leave this one. -/
theorem Lands.foldl_other (h : Lands step ok sound d rd put) : ∀ {l : List Flight} {x : α}, ok x → (∀ f ∈ l, sound f) → (∀ f ∈ l, f.dest ≠ d) →
    rd (l.foldl step x) = rd x
  | [], _, _, _, _ => rfl
  | f :: l, x, hx, hs, hd => by
    obtain ⟨hsf, hsl⟩ := List.forall_mem_cons.1 hs
    obtain ⟨hdf, hdl⟩ := List.forall_mem_cons.1 hd
    exact (h.foldl_other (h.keep x f hx) hsl hdl).trans (h.other x f hx hsf hdf)

/-- The one result for a destination is what stands there afterwards. -/
theorem Lands.foldl_once (h : Lands step ok sound d rd put) {l : List Flight} {x : α} {f : Flight} (hx : ok x) (hs : ∀ f ∈ l, sound f) (ho : Once l d f) :
    rd (l.foldl step x) = put (rd x) f := by
  obtain ⟨a, b, rfl, hf, hd⟩ := ho
  have ha : ∀ g ∈ a, sound g ∧ g.dest ≠ d := fun g hg => ⟨hs g (by simp [hg]), hd g (by simp [hg])⟩
  have hb : ∀ g ∈ b, sound g ∧ g.dest ≠ d := fun g hg => ⟨hs g (by simp [hg]), hd g (by simp [hg])⟩
  rw [List.foldl_append, List.foldl_cons, h.foldl_other (h.keep _ f (h.foldl_ok a hx)) (fun g hg => (hb g hg).1) fun g hg => (hb g hg).2,
    h.hit _ f (h.foldl_ok a hx) hf, h.foldl_other hx (fun g hg => (ha g hg).1) fun g hg => (ha g hg).2]

end

/-- The bits of a merge: the new ones where the mask is set. -/
theorem getLsbD_merge {w i : Nat} (old : BitVec w) (f : Flight) (hi : i < w) :
    (merge old f).getLsbD i = if f.mask.getLsbD i then f.val.getLsbD i else old.getLsbD i := by
  simp only [merge, BitVec.getLsbD_or, BitVec.getLsbD_and, BitVec.getLsbD_not, BitVec.getLsbD_setWidth, hi, decide_true, Bool.true_and]
  cases f.mask.getLsbD i <;> simp

/-! ### The register files -/

section
variable {w : Nat} {key : Dest → Option Nat} {d : Dest} {k : Nat}

/-- A result lands in a table whose keys the function gives; `none` is a destination outside the table or one that takes no write. -/
def landTab (key : Dest → Option Nat) (t : Tab (BitVec w)) (f : Flight) : Tab (BitVec w) := match key f.dest with
  | some k => tset 0 t k (merge (tget 0 t k) f)
  | none => t

/-- Landings in a table reach the key of their destination, where sound destinations have keys of their own. -/
theorem lands_landTab {sound : Flight → Prop} (hk : key d = some k) (hinj : ∀ f, sound f → key f.dest = some k → f.dest = d) :
    Lands (landTab (w := w) key) (fun t => twf 0 t = true) sound d (fun t => tget 0 t k) merge where
  keep t f ht := by
    unfold landTab
    split
    · exact twf_tset _ _ ht
    · exact ht
  other t f ht hs hd := by
    unfold landTab
    split
    · next j hj => exact tget_tset_other (fun h : k = j => hd (hinj f hs (h ▸ hj))) ht
    · rfl
  hit t f ht hf := by
    unfold landTab
    rw [hf, hk]
    exact tget_tset_same ht

/-- Keys of the files of the context. -/
@[simp] def Dest.gKey : Dest → Option Nat
  | .g r => if r = 0 then none else some r
  | _ => none
@[simp] def Dest.vKey : Dest → Option Nat
  | .v r sec => some (r * 8 + sec)
  | _ => none
@[simp] def Dest.mKey : Dest → Option Nat
  | .m r sec => if r = 0 then none else some (r * 8 + sec)
  | _ => none
@[simp] def Dest.wKey : Dest → Option Nat
  | .w r sec => some (r * 8 + sec)
  | _ => none
@[simp] def Dest.xpKey : Dest → Option Nat
  | .xp r => some r
  | _ => none
@[simp] def Dest.hKey : Dest → Option Nat
  | .h r => some r
  | _ => none
@[simp] def Dest.esKey : Dest → Option Nat
  | .es r => some r
  | _ => none

end

/-- The section of a per-section destination is one of the eight. -/
def Flight.SectionOk (f : Flight) : Prop := ∀ r sec, f.dest = .v r sec ∨ f.dest = .m r sec ∨ f.dest = .w r sec → sec < 8

section
variable (c : Context) (f : Flight)

/-- A result has landed in each file of the context. -/
structure FilesLanded (c' : Context) : Prop where
  g : c'.g = landTab Dest.gKey c.g f
  v : c'.v = landTab Dest.vKey c.v f
  m : c'.m = landTab Dest.mKey c.m f
  w : c'.w = landTab Dest.wKey c.w f
  xp : c'.xp = landTab Dest.xpKey c.xp f
  h : c'.h = landTab Dest.hKey c.h f
  es : c'.es = landTab Dest.esKey c.es f

/-- A result has landed in the special registers of the context, each of which one number names. -/
structure SpecsLanded (c' : Context) : Prop where
  tmpr : c'.tmpr = if f.dest = .spec 1 then f.val.setWidth 32 else c.tmpr
  rseed : c'.rseed = if f.dest = .spec 2 then f.val.setWidth 64 else c.rseed
  rcnt : c'.rcnt = if f.dest = .spec 3 then f.val.setWidth 32 else c.rcnt
  domain : c'.domain = if f.dest = .spec 9 then f.val.setWidth 64 else c.domain
  backoff : c'.backoff = if f.dest = .spec 12 then f.val.setWidth 32 else c.backoff
  savecfg : c'.savecfg = if f.dest = .spec 15 then f.val.setWidth 64 else c.savecfg

theorem Context.land_files : FilesLanded c f (c.land f) := by
  unfold Context.land
  cases hf : f.dest with
  | g r => by_cases hr : r = 0 <;> constructor <;> simp [landTab, hf, hr, Context.G]
  | p r => by_cases hr : r = 0 <;> constructor <;> simp [landTab, hf, hr]
  | m r sec => by_cases hr : r = 0 <;> constructor <;> simp [landTab, hf, hr, Context.M]
  | spec n => dsimp only; split_ifs <;> constructor <;> simp [landTab, hf]
  | v r sec => constructor <;> simp [landTab, hf, Context.V]
  | w r sec => constructor <;> simp [landTab, hf, Context.W]
  | xp r => constructor <;> simp [landTab, hf, Context.XP]
  | h r => constructor <;> simp [landTab, hf, Context.H]
  | es r => constructor <;> simp [landTab, hf, Context.ES]
  | shape r => constructor <;> simp [landTab, hf]

theorem Context.land_specs : SpecsLanded c f (c.land f) := by
  unfold Context.land
  cases hf : f.dest with
  | spec n => dsimp only; split_ifs <;> constructor <;> simp_all
  | g r => by_cases hr : r = 0 <;> constructor <;> simp [hf, hr]
  | p r => by_cases hr : r = 0 <;> constructor <;> simp [hf, hr]
  | m r sec => by_cases hr : r = 0 <;> constructor <;> simp [hf, hr]
  | _ => constructor <;> simp [hf]

/-- The predicates with the low bit of a result in the one that it names. -/
def landP (p : BitVec 16) (f : Flight) : BitVec 16 := match f.dest with
  | .p r => if r = 0 then p else if f.val.getLsbD 0 then p ||| ((1 : BitVec 16) <<< r) else p &&& ~~~((1 : BitVec 16) <<< r)
  | _ => p

theorem Context.land_p : (c.land f).p = landP c.p f := by
  unfold Context.land landP
  cases f.dest with
  | spec n => dsimp only; split_ifs <;> rfl
  | g r => dsimp only; split_ifs <;> rfl
  | p r => dsimp only; split <;> rfl
  | m r sec => dsimp only; split_ifs <;> rfl
  | _ => rfl

theorem getLsbD_one_shiftLeft {j r : Nat} (hr : r < 16) : ((1 : BitVec 16) <<< j).getLsbD r = decide (r = j) := by
  have h1 (k : Nat) : (1 : BitVec 16).getLsbD k = decide (k = 0) := by simp
  rw [BitVec.getLsbD_shiftLeft, h1, Bool.eq_iff_iff]
  simp only [hr, Bool.and_eq_true, Bool.not_eq_true', decide_eq_true_eq, decide_eq_false_iff_not, true_and]
  omega

/-- What a landing does to the predicates: P0 takes none, another takes the low bit (R173). -/
theorem lands_landP {r : Nat} (hr : r ≠ 0) (hr16 : r < 16) :
    Lands landP (fun _ => True) (fun _ => True) (.p r) (fun p => p.getLsbD r) fun _ f => f.val.getLsbD 0 where
  keep _ _ _ := trivial
  other p f _ _ hd := by
    unfold landP
    split
    · next j hj =>
      have hrj : r ≠ j := fun h => hd (h ▸ hj)
      split_ifs <;> simp only [BitVec.getLsbD_or, BitVec.getLsbD_and, BitVec.getLsbD_not, getLsbD_one_shiftLeft hr16, hrj] <;> simp [hr16]
    · rfl
  hit p f _ hf := by
    unfold landP
    rw [hf]
    dsimp only
    rw [if_neg hr]
    cases hv : f.val.getLsbD 0 <;> simp only [if_true, Bool.false_eq_true, if_false, BitVec.getLsbD_or, BitVec.getLsbD_and, BitVec.getLsbD_not, getLsbD_one_shiftLeft hr16] <;> simp

/-- Nothing of a context but these fields takes a result. -/
def Context.fixed (c : Context) : Context :=
  { c with g := [], p := 0, v := [], m := [], w := [], xp := [], h := [], es := [], tmpr := 0, rseed := 0, rcnt := 0, domain := 0, backoff := 0, savecfg := 0 }

theorem Context.land_fixed : (c.land f).fixed = c.fixed := by
  unfold Context.land
  cases f.dest with
  | spec n => dsimp only; split_ifs <;> rfl
  | g r => dsimp only; split_ifs <;> rfl
  | p r => dsimp only; split_ifs <;> rfl
  | m r sec => dsimp only; split_ifs <;> rfl
  | _ => rfl

end

/-! ### Every due result -/

section
variable (c : Context)

/-- A field of the context after every due result, where one landing acts on it as `step` does. -/
theorem landDue_field {β : Type} {rd : Context → β} {step : β → Flight → β} (h : ∀ c f, rd (c.land f) = step (rd c) f)
    (h0 : rd { c with flights := c.flights.filter fun f => f.cnt != 0 } = rd c) : rd c.landDue = c.due.foldl step (rd c) := by
  rw [Context.landDue, ← h0]
  exact (List.foldl_hom rd fun x f => (h x f).symm).symm

/-- What no landing changes stands after every due result. -/
theorem foldl_kept {α β : Type} {step : α → Flight → α} {rd : α → β} (h : ∀ x f, rd (step x f) = rd x) : ∀ (l : List Flight) (x : α), rd (l.foldl step x) = rd x
  | [], _ => rfl
  | f :: l, x => (foldl_kept h l (step x f)).trans (h x f)

/-- The context after its due results differs in these fields alone. -/
theorem landDue_eq : c.landDue = { c with
    g := c.landDue.g, p := c.landDue.p, v := c.landDue.v, m := c.landDue.m, w := c.landDue.w, xp := c.landDue.xp, h := c.landDue.h, es := c.landDue.es
    tmpr := c.landDue.tmpr, rseed := c.landDue.rseed, rcnt := c.landDue.rcnt, domain := c.landDue.domain, backoff := c.landDue.backoff
    savecfg := c.landDue.savecfg, flights := c.landDue.flights } := by
  have h : { c.landDue.fixed with flights := [] } = { c.fixed with flights := [] } :=
    congrArg (fun x : Context => { x with flights := [] }) (foldl_kept Context.land_fixed c.due { c with flights := c.flights.filter fun f => f.cnt != 0 })
  calc c.landDue = { ({ c.landDue.fixed with flights := [] } : Context) with
      g := c.landDue.g, p := c.landDue.p, v := c.landDue.v, m := c.landDue.m, w := c.landDue.w, xp := c.landDue.xp, h := c.landDue.h, es := c.landDue.es
      tmpr := c.landDue.tmpr, rseed := c.landDue.rseed, rcnt := c.landDue.rcnt, domain := c.landDue.domain, backoff := c.landDue.backoff
      savecfg := c.landDue.savecfg, flights := c.landDue.flights } := rfl
    _ = _ := by rw [h]; rfl

/-- Only results that are not due stay in flight. -/
theorem landDue_flights : c.landDue.flights = c.flights.filter fun f => f.cnt != 0 :=
  congrArg Context.flights (foldl_kept Context.land_fixed c.due { c with flights := c.flights.filter fun f => f.cnt != 0 })

end

/-! ### The registers of the core, and whole registers -/

section
variable {α : Type} {step : α → Flight → α} {w : Nat} {d : Dest} {rd : α → BitVec w}

/-- A register that one destination writes whole. -/
theorem lands_whole (h : ∀ x f, rd (step x f) = if f.dest = d then f.val.setWidth w else rd x) :
    Lands step (fun _ => True) (fun _ => True) d rd fun _ f => f.val.setWidth w where
  keep _ _ _ := trivial
  other x f _ _ hd := by rw [h, if_neg hd]
  hit x f _ hf := by rw [h, if_pos hf]

/-- Such a register after every due result: as it was where none names it, else the value of the one that does. -/
theorem whole_foldl (h : ∀ x f, rd (step x f) = if f.dest = d then f.val.setWidth w else rd x) (l : List Flight) (x : α) :
    ((∀ f ∈ l, f.dest ≠ d) → rd (l.foldl step x) = rd x) ∧ ∀ f, Once l d f → rd (l.foldl step x) = f.val.setWidth w :=
  ⟨fun hd => (lands_whole h).foldl_other trivial (fun _ _ => trivial) hd, fun _ ho => (lands_whole h).foldl_once trivial (fun _ _ => trivial) ho⟩

end

/-- What a landing does to the special registers of the core. -/
theorem Core.land_specs (k : Core) (f : Flight) : (k.land f).tshare = (if f.dest = .spec 13 then f.val.setWidth 64 else k.tshare)
    ∧ (k.land f).cachecfg = (if f.dest = .spec 14 then f.val.setWidth 64 else k.cachecfg) := by
  unfold Core.land
  cases f.dest with
  | spec n => simp only [Dest.spec.injEq]; split_ifs <;> simp_all
  | _ => simp

/-- Shape words are written whole (R177). -/
theorem lands_shape (r : Nat) : Lands Core.land (fun k => twf 0 k.shapes = true) (fun _ => True) (.shape r) (fun k => k.shape r) fun _ f => f.val.setWidth 64 where
  keep k f hk := by
    unfold Core.land
    cases f.dest with
    | shape t => exact twf_tset _ _ hk
    | spec n => dsimp only; split_ifs <;> exact hk
    | _ => exact hk
  other k f hk _ hd := by
    unfold Core.land Core.shape
    cases hf : f.dest with
    | shape t => exact tget_tset_other (fun h : r = t => hd (h ▸ hf)) hk
    | spec n => dsimp only; split_ifs <;> rfl
    | _ => rfl
  hit k f hk hf := by
    unfold Core.land Core.shape
    rw [hf]
    exact tget_tset_same hk

/-- Nothing of a core but these fields takes a result. -/
def Core.fixed (k : Core) : Core := { k with shapes := [], tshare := 0, cachecfg := 0 }

theorem Core.land_fixed (k : Core) (f : Flight) : (k.land f).fixed = k.fixed := by
  unfold Core.land
  cases f.dest with
  | spec n => dsimp only; split_ifs <;> rfl
  | _ => rfl

theorem Core.foldl_land_eq (k : Core) (l : List Flight) : l.foldl Core.land k = { k with
    shapes := (l.foldl Core.land k).shapes, tshare := (l.foldl Core.land k).tshare, cachecfg := (l.foldl Core.land k).cachecfg } :=
  congrArg (fun x : Core => { x with
    shapes := (l.foldl Core.land k).shapes, tshare := (l.foldl Core.land k).tshare, cachecfg := (l.foldl Core.land k).cachecfg }) (foldl_kept Core.land_fixed l k)

/-- A register of a table after landings in a row: as it was where none names it, else the bits of the mask of the one that does. -/
theorem masked_foldl {w : Nat} {key : Dest → Option Nat} {d : Dest} {k : Nat} {sound : Flight → Prop} {t : Tab (BitVec w)} {l : List Flight} (ht : twf 0 t = true)
    (hk : key d = some k) (hinj : ∀ f, sound f → key f.dest = some k → f.dest = d) (hs : ∀ f ∈ l, sound f) :
    ((∀ f ∈ l, f.dest ≠ d) → tget 0 (l.foldl (landTab key) t) k = tget 0 t k)
    ∧ ∀ f, Once l d f → ∀ i, i < w → (tget 0 (l.foldl (landTab key) t) k).getLsbD i = if f.mask.getLsbD i then f.val.getLsbD i else (tget 0 t k).getLsbD i :=
  have h := lands_landTab (w := w) hk hinj
  ⟨fun hd => h.foldl_other ht hs hd, fun f ho i hi => by rw [h.foldl_once ht hs ho, getLsbD_merge _ _ hi]⟩

section
variable (c : Context)

/-- A field that one landing acts on by a table, after every due result. -/
theorem due_masked {w : Nat} {rd : Context → Tab (BitVec w)} {key : Dest → Option Nat} {d : Dest} {k : Nat} (sound : Flight → Prop)
    (hf : ∀ c f, rd (c.land f) = landTab key (rd c) f) (h0 : rd { c with flights := c.flights.filter fun f => f.cnt != 0 } = rd c) (ht : twf 0 (rd c) = true)
    (hk : key d = some k) (hinj : ∀ f, sound f → key f.dest = some k → f.dest = d) (hs : ∀ f ∈ c.due, sound f) :
    ((∀ f ∈ c.due, f.dest ≠ d) → tget 0 (rd c.landDue) k = tget 0 (rd c) k)
    ∧ ∀ f, Once c.due d f → ∀ i, i < w → (tget 0 (rd c.landDue) k).getLsbD i = if f.mask.getLsbD i then f.val.getLsbD i else (tget 0 (rd c) k).getLsbD i := by
  rw [landDue_field c hf h0]
  exact masked_foldl ht hk hinj hs

/-- A special register of the context after every due result. -/
theorem due_whole {w : Nat} {rd : Context → BitVec w} {d : Dest} (hf : ∀ c f, rd (c.land f) = if f.dest = d then f.val.setWidth w else rd c)
    (h0 : rd { c with flights := c.flights.filter fun f => f.cnt != 0 } = rd c) :
    ((∀ f ∈ c.due, f.dest ≠ d) → rd c.landDue = rd c) ∧ ∀ f, Once c.due d f → rd c.landDue = f.val.setWidth w := by
  rw [Context.landDue, ← h0]
  exact whole_foldl hf _ _

end

/-- A key of a per-section file names its register and section. -/
theorem key_inj {r r' sec sec' : Nat} (hs : sec < 8) (hs' : sec' < 8) (h : r' * 8 + sec' = r * 8 + sec) : r' = r ∧ sec' = sec := by omega

section
variable {f : Flight} {r sec : Nat}

theorem dest_of_gKey (h : f.dest.gKey = some r) : f.dest = .g r := by
  cases hd : f.dest <;> simp_all

theorem dest_of_xpKey (h : f.dest.xpKey = some r) : f.dest = .xp r := by
  cases hd : f.dest <;> simp_all

theorem dest_of_hKey (h : f.dest.hKey = some r) : f.dest = .h r := by
  cases hd : f.dest <;> simp_all

theorem dest_of_esKey (h : f.dest.esKey = some r) : f.dest = .es r := by
  cases hd : f.dest <;> simp_all

theorem dest_of_vKey (hs : sec < 8) (hf : f.SectionOk) (h : f.dest.vKey = some (r * 8 + sec)) : f.dest = .v r sec := by
  cases hd : f.dest with
  | v r' sec' =>
    rw [hd, Dest.vKey, Option.some.injEq] at h
    obtain ⟨rfl, rfl⟩ := key_inj hs (hf r' sec' (.inl hd)) h
    rfl
  | _ => simp [hd] at h

theorem dest_of_mKey (hs : sec < 8) (hf : f.SectionOk) (h : f.dest.mKey = some (r * 8 + sec)) : f.dest = .m r sec := by
  cases hd : f.dest with
  | m r' sec' =>
    rw [hd, Dest.mKey] at h
    split at h
    · cases h
    · obtain ⟨rfl, rfl⟩ := key_inj hs (hf r' sec' (.inr (.inl hd))) (Option.some.inj h)
      rfl
  | _ => simp [hd] at h

theorem dest_of_wKey (hs : sec < 8) (hf : f.SectionOk) (h : f.dest.wKey = some (r * 8 + sec)) : f.dest = .w r sec := by
  cases hd : f.dest with
  | w r' sec' =>
    rw [hd, Dest.wKey, Option.some.injEq] at h
    obtain ⟨rfl, rfl⟩ := key_inj hs (hf r' sec' (.inr (.inr hd))) h
    rfl
  | _ => simp [hd] at h

end

/-- A predicate but P0 after every due result. -/
theorem due_pred (c : Context) {r : Nat} (hr : r ≠ 0) (hr16 : r < 16) :
    ((∀ f ∈ c.due, f.dest ≠ .p r) → c.landDue.P r = c.P r) ∧ ∀ f, Once c.due (.p r) f → c.landDue.P r = f.val.getLsbD 0 := by
  have hP : ∀ x : Context, x.P r = x.p.getLsbD r := fun x => by simp [Context.P, hr]
  have hl := lands_landP hr hr16
  rw [hP, hP, landDue_field c (rd := Context.p) Context.land_p rfl]
  exact ⟨fun hd => hl.foldl_other trivial (fun _ _ => trivial) hd, fun f ho => hl.foldl_once trivial (fun _ _ => trivial) ho⟩

/-- A shape word after every due result. -/
theorem due_shape (k : Core) {l : List Flight} (hk : twf 0 k.shapes = true) (r : Nat) :
    ((∀ f ∈ l, f.dest ≠ .shape r) → (l.foldl Core.land k).shape r = k.shape r) ∧ ∀ f, Once l (.shape r) f → (l.foldl Core.land k).shape r = f.val.setWidth 64 :=
  ⟨fun hd => (lands_shape r).foldl_other hk (fun _ _ => trivial) hd, fun _ ho => (lands_shape r).foldl_once hk (fun _ _ => trivial) ho⟩

/-- Settles O12: each register file is a table in which landings reach the key of their destination alone; the other registers are written whole. -/
theorem resultsLand : Obligations.ResultsLand := by
  unfold Obligations.ResultsLand
  intro s c k t c' k' once files masked whole
  refine ⟨?_, ?_, ?_, ?_, ?_, ?_, ?_, fun r hr hr16 => due_pred c hr hr16, ?_, ?_, ?_, ?_, ?_, ?_, ?_, ?_, fun hk r => due_shape k hk r, ?_, ?_, ?_,
    landDue_flights c, ?_, rfl⟩
  · intro ht r hr
    have hG : ∀ x : Context, x.G r = tget 0 x.g r := fun _ => if_neg hr
    rw [hG, hG]
    exact due_masked c (fun _ => True) (fun c f => (c.land_files f).g) rfl ht (show (Dest.g r).gKey = some r from if_neg hr) (fun f _ => dest_of_gKey) fun _ _ => trivial
  · intro ht hf r sec hs
    exact due_masked c Flight.SectionOk (fun c f => (c.land_files f).v) rfl ht rfl (fun f hf => dest_of_vKey hs hf) hf
  · intro ht hf r sec hr hs
    have hM : ∀ x : Context, x.M r sec = tget 0 x.m (r * 8 + sec) := fun _ => if_neg hr
    rw [hM, hM]
    exact due_masked c Flight.SectionOk (fun c f => (c.land_files f).m) rfl ht (show (Dest.m r sec).mKey = some (r * 8 + sec) from if_neg hr) (fun f hf => dest_of_mKey hs hf) hf
  · intro ht hf r sec hs
    exact due_masked c Flight.SectionOk (fun c f => (c.land_files f).w) rfl ht rfl (fun f hf => dest_of_wKey hs hf) hf
  · intro ht r
    exact due_masked c (fun _ => True) (fun c f => (c.land_files f).xp) rfl ht rfl (fun f _ => dest_of_xpKey) fun _ _ => trivial
  · intro ht r
    exact due_masked c (fun _ => True) (fun c f => (c.land_files f).h) rfl ht rfl (fun f _ => dest_of_hKey) fun _ _ => trivial
  · intro ht r
    exact due_masked c (fun _ => True) (fun c f => (c.land_files f).es) rfl ht rfl (fun f _ => dest_of_esKey) fun _ _ => trivial
  · exact due_whole c (fun c f => (c.land_specs f).tmpr) rfl
  · exact due_whole c (fun c f => (c.land_specs f).rseed) rfl
  · exact due_whole c (fun c f => (c.land_specs f).rcnt) rfl
  · exact due_whole c (fun c f => (c.land_specs f).domain) rfl
  · exact due_whole c (fun c f => (c.land_specs f).backoff) rfl
  · exact due_whole c (fun c f => (c.land_specs f).savecfg) rfl
  · exact whole_foldl (fun k f => (k.land_specs f).1) c.due k
  · exact whole_foldl (fun k f => (k.land_specs f).2) c.due k
  · simp [Context.G]
  · simp [c', Context.P]
  · simp [Context.M]
  · calc t = { s with ctx := c.landDue, core := c.due.foldl Core.land k } := rfl
      _ = _ := by rw [landDue_eq c, Core.foldl_land_eq]; rfl

end Sys2Proof.Machine

/-! ## Messages, waits, fences and barriers (R112 to R115, R120, R129, R138, R139, R271 to R273, R379, R388): O46 -/

namespace Sys2Proof.Machine

open Sys2Proof.Laws (chk_eq_nil await_eq_nil queues_of_issueOp issueOp_completes)

/-! ### Operations that pass or block -/

section
variable {slot : Nat} {guard : Bool} {waits : List Block} {causes : List Cause} {effect : Context → Context} {s : State} (hg : guard = true)
include hg

/-- An operation on the context alone that waits for nothing and raises nothing. -/
theorem issueCtx_passes (hw : waits = []) (hc : causes = []) : issueCtx slot guard waits causes effect s = .next { s with ctx := effect s.ctx } :=
  issueOp_completes hg hw hc

/-- An operation whose wait stands blocks its bundle (R105). -/
theorem issueCtx_blocks {b : Block} {ok : Bool} (ho : ok = false) : issueCtx slot guard (await ok b) causes effect s = .next (blockOn b s) := by
  rw [hg, ho]
  rfl

/-- A wait without a check passes once its condition holds, and blocks before. -/
theorem issueCtx_wait {b : Block} {ok : Bool} {p : Prop} [Decidable p] (ho : ok = true ↔ p) : issueCtx slot guard (await ok b) [] id s = .next (if p then s else blockOn b s) := by
  by_cases hp : p
  · rw [if_pos hp]
    exact issueCtx_passes hg (await_eq_nil (ho.2 hp)) rfl
  · rw [if_neg hp]
    exact issueCtx_blocks hg (Bool.eq_false_iff.2 fun h => hp (ho.1 h))

end

/-! ### Checks that raise nothing -/

section
variable {s : State}

/-- A scope within the limit, or lowered to it, raises nothing (R388). -/
theorem scopeCause_eq_nil {need value : Nat} (h : need ≤ fSclim s s.ctx.func.toNat ∨ fFpol s s.ctx.func.toNat = false) : scopeCause need value s = [] := by
  refine chk_eq_nil.2 ?_
  rcases h with h | h
  · simp [wider, h]
  · simp [h]

/-- Without a suspended command of the context nothing follows one (R379). -/
theorem followCause_eq_nil (h : ∀ m ∈ s.core.cmds, m.ctx = s.ctxId → m.cause = none) : followCause s = [] := by
  have hn : suspendedOf s.core s.ctxId = none :=
    List.find?_eq_none.2 fun m hm => by simpa using fun hx => h m hm hx
  rw [followCause, hn]

/-- Without a suspended access of a path of Table 7-2 a DRAIN follows none (R379). -/
theorem drainCause_eq_nil (h : ∀ m ∈ s.core.cmds, m.ctx = s.ctxId → m.cls.isSome = true ∨ m.remote = true → m.cause = none) : drainCause s = [] := by
  have hn : (s.core.cmds.find? fun m => m.ctx == s.ctxId && m.cause.isSome && (m.cls.isSome || m.remote)) = none := by
    refine List.find?_eq_none.2 fun m hm hx => ?_
    simp only [Bool.and_eq_true, Bool.or_eq_true, beq_iff_eq] at hx
    obtain ⟨⟨hctx, hcause⟩, hpath⟩ := hx
    rw [h m hm hctx hpath] at hcause
    cases hcause
  rw [drainCause, hn]

/-- A barrier of a level that no check stops (R379, R387, R388, R390). -/
structure BarrierOk (l : Nat) (s : State) : Prop where
  clear : ∀ m ∈ s.core.cmds, m.ctx = s.ctxId → m.cause = none
  allowed : levelScope l ≤ fSclim s s.ctx.func.toNat ∨ fFpol s s.ctx.func.toNat = false
  aligned : l = 5 → s.hub.aligned = true ∧ s.hub.step5Bad = []
  group : 4 ≤ l → groupBroken s s.ctx = false

theorem BarrierOk.causes {l : Nat} (h : BarrierOk l s) : barrierCauses l s = [] := by
  have h5 : (!(l == 5 && (!s.hub.aligned || !s.hub.step5Bad.isEmpty))) = true := by
    by_cases hl : l = 5
    · obtain ⟨ha, hb⟩ := h.aligned hl
      simp [ha, hb]
    · simp [hl]
  have h4 : (!(decide (4 ≤ l) && groupBroken s s.ctx)) = true := by
    by_cases hl : 4 ≤ l
    · simp [h.group hl]
    · simp [hl]
  rw [barrierCauses, followCause_eq_nil h.clear, scopeCause_eq_nil h.allowed, chk_eq_nil.2 h5, chk_eq_nil.2 h4]
  rfl

end

section
variable {o : EF} {s : State} (hg : sguard o.guard s.ctx = true)
include hg

/-! ### Waits -/

/-- EVWAIT (R120, R272). -/
theorem exec_evwait : let i := bits (s.ctx.G o.ga.toNat).toNat 11 0
    let thr : BitVec 16 := (s.ctx.G o.gb.toNat).setWidth 16
    exec (.evwait o) s = .next (if (tget 0 s.hub.counters (s.ctx.func.toNat * 4096 + i) - thr).toNat < 32768 then s else blockOn (.event i thr) s) := by
  intro i thr
  exact issueCtx_wait (slot := 7) hg decide_eq_true_iff

/-- TWAIT (R129). -/
theorem exec_twait : exec (.twait o) s = .next (if s.ctx.G o.ga.toNat ≤ s.tick then s else blockOn (.tick (s.ctx.G o.ga.toNat)) s) := 
  issueCtx_wait (slot := 7) hg decide_eq_true_iff

/-- SYNC outside a suspended command (R113; log entry 36). -/
theorem exec_sync (hc : ∀ m ∈ s.core.cmds, m.ctx = s.ctxId → m.cause = none) :
    exec (.sync o) s = .next (if isSupCore s.coreId = true ∨ s.ctx.release = .here then s else blockOn .sync s) := by
  have hx : exec (.sync o) s = execSync o s := rfl
  rw [hx, execSync, followCause_eq_nil hc]
  exact issueCtx_wait hg (by simp)

/-! ### Barriers -/

section
variable (hb : BarrierOk (levelOf o s) s)
include hb

/-- A BAR that the context is past, or has no part in, passes (R114). -/
theorem bar_passes (h : takesPart (levelOf o s) s = false ∨ s.ctx.release = .here) :
    exec (.bar o) s = .next { s with ctx := s.ctx.flag fFDOWN (wider (levelScope (levelOf o s)) s) } := by
  have hx : exec (.bar o) s = execBar o s := rfl
  rw [hx, execBar, hb.causes]
  exact issueCtx_passes hg (await_eq_nil (by simpa using h)) rfl

/-- Before its release it blocks. -/
theorem bar_blocks (hp : takesPart (levelOf o s) s = true) (hr : s.ctx.release ≠ .here) : exec (.bar o) s = .next (blockOn (.bar (levelOf o s)) s) := by
  have hx : exec (.bar o) s = execBar o s := rfl
  rw [hx, execBar, hb.causes]
  exact issueCtx_blocks hg (by simp [hp, hr])

/-- A STEP that the context is past, or has no part in and nothing to resolve, passes (R115, R52). -/
theorem step_passes (h : takesPart (levelOf o s) s = false ∧ stale s = false ∧ s.ctx.release = .no ∨ s.ctx.release = .here) :
    exec (.step o) s = .next { s with ctx := s.ctx.flag fFDOWN (wider (levelScope (levelOf o s)) s) } := by
  have hx : exec (.step o) s = execStep o s := rfl
  rw [hx, execStep, hb.causes]
  exact issueCtx_passes hg (await_eq_nil (by simpa [and_assoc] using h)) rfl

/-- One that waits for its release, or for its floating bindings, blocks. -/
theorem step_blocks (hp : takesPart (levelOf o s) s = true ∨ stale s = true) (hr : s.ctx.release ≠ .here) :
    exec (.step o) s = .next (blockOn (.step (levelOf o s)) s) := by
  have hx : exec (.step o) s = execStep o s := rfl
  rw [hx, execStep, hb.causes]
  refine issueCtx_blocks hg ?_
  rcases hp with hp | hp <;> simp [hp, hr]

end

/-! ### Fences and drains -/

/-- FENCE (R138). -/
theorem exec_fence (ha : o.scope.toNat ≤ fSclim s s.ctx.func.toNat ∨ fFpol s s.ctx.func.toNat = false) :
    exec (.fence o) s = .next { s with ctx := ({ s.ctx with
      fences := (s.ctx.fences.filter fun x => !x.ids.all (nearDone s.core)) ++ [⟨o.clb, outstanding s.core s.ctxId o.cla⟩] } : Context).flag fFDOWN (wider o.scope.toNat s) } := by
  have hx : exec (.fence o) s = execFence o s := rfl
  rw [hx, execFence]
  exact issueCtx_passes hg rfl (scopeCause_eq_nil ha)

/-- DRAIN (R139). -/
theorem queues_drain (he : queuedCmds s.core 5 < 16) (hq : qLocal (s.ctx.Q o.qc.toNat) = true)
    (ha : o.scope.toNat ≤ fSclim s s.ctx.func.toNat ∨ fFpol s s.ctx.func.toNat = false)
    (hp : ∀ m ∈ s.core.cmds, m.ctx = s.ctxId → m.cls.isSome = true ∨ m.remote = true → m.cause = none) :
    Queues (.drain o) s { s with ctx :=
        ({ s.ctx with drainRemote := outstandingRemote s.core s.ctxId, drainAll := outstandingAll s.core s.ctxId } : Context).flag fFDOWN (wider o.scope.toNat s) }
      .drain 5 (some o.qc.toNat) fun m => m.allHolds = outstandingAll s.core s.ctxId := by
  have hx : exec (.drain o) s = execDrain o s := rfl
  have hring : completionRing s (ringC o) = [] := completionRing_eq_nil hq
  refine queues_of_issueOp (hx.trans (by rw [execDrain])) hg (engineWait_eq_nil he)
    (by rw [hring, scopeCause_eq_nil ha, drainCause_eq_nil hp]; rfl) rfl ⟨rfl, rfl, rfl, rfl, rfl, rfl, rfl, rfl, rfl⟩

/-! ### Records and signals -/

/-- MSG (R271, R388). -/
theorem queues_msg (hq : qLocal (s.ctx.Q o.qc.toNat) = true) (he : queuedCmds s.core 4 < 16) (hr : (gB o s).toNat % 64 = 0 ∧ (gB o s).toNat + 64 ≤ 0x400000)
    (ha : bits (gA o s).toNat 19 8 = s.hub.package.toNat ∨ 2 ≤ fSclim s s.ctx.func.toNat) :
    Queues (.msg o) s s .msg 4 (some o.qc.toNat) fun m => m.ga = gA o s ∧ m.gb = gB o s ∧ m.at_ = atTick o s ∧ ∀ w ∈ outstandingWrites s.core s.ctxId, w ∈ m.holds := by
  refine queues_of_issueCmd hg rfl he ?_
    ⟨rfl, rfl, rfl, rfl, rfl, rfl, rfl, rfl, rfl, rfl, rfl, fun _ hw => List.mem_append_right _ hw⟩
  rw [completionRing_eq_nil (show qLocal (s.ctx.Q (ringC o)) = true from hq), privRecord_eq_nil hr.1 hr.2]
  refine chk_eq_nil.2 ?_
  rcases ha with ha | ha <;> simp [ha]

/-- TASK (R271, R125). -/
theorem queues_task (hq : qLocal (s.ctx.Q o.qc.toNat) = true) (he : queuedCmds s.core 4 < 16) (hr : (gB o s).toNat % 64 = 0 ∧ (gB o s).toNat + 64 ≤ 0x400000) :
    Queues (.task o) s s .task 4 (some o.qc.toNat) fun m => m.ga = gA o s ∧ m.gb = gB o s ∧ m.at_ = atTick o s ∧ m.aux = dieOf s.coreId
      ∧ ∀ w ∈ outstandingWrites s.core s.ctxId, w ∈ m.holds :=
  queues_of_issueCmd hg rfl he
    (by rw [completionRing_eq_nil (show qLocal (s.ctx.Q (ringC o)) = true from hq), privRecord_eq_nil hr.1 hr.2]; rfl)
    ⟨rfl, rfl, rfl, rfl, rfl, rfl, rfl, rfl, rfl, rfl, rfl, rfl, fun w hw => List.mem_append_right _ hw⟩

/-- EVSIG (R272). -/
theorem queues_evsig (he : queuedCmds s.core 5 < 16) :
    Queues (.evsig o) s s .evsig 5 none fun m => m.ga = gA o s ∧ m.gb = gB o s ∧ m.at_ = atTick o s ∧ ∀ w ∈ outstandingWrites s.core s.ctxId, w ∈ m.holds :=
  queues_of_issueOp rfl hg (engineWait_eq_nil he) rfl rfl
    ⟨rfl, rfl, rfl, rfl, rfl, rfl, rfl, rfl, rfl, rfl, rfl, fun _ hw => List.mem_append_right _ hw⟩

end

/-- Settles O46: each operation passes its checks, and then queues its command, takes its effect or waits. -/
theorem messagesWaitsAndBarriers : Obligations.MessagesWaitsAndBarriers := by
  unfold Obligations.MessagesWaitsAndBarriers
  intro o s hg r f ga gb at_ writes i thr l sc clear paths allowed flagged level whole
  have hok : whole → BarrierOk (levelOf o s) s := fun ⟨hc, ha, h5, h4⟩ => ⟨hc, ha, h5, h4⟩
  refine ⟨fun hq he hm hr => ⟨fun ha => queues_msg hg hq he ⟨hm, hr⟩ ha, queues_task hg hq he ⟨hm, hr⟩⟩, fun he => queues_evsig hg he, exec_evwait hg, exec_twait hg,
    fun ha => exec_fence hg ha, fun he hq ha hp => queues_drain hg he hq ha hp, fun hw h => bar_passes hg (hok hw) h, fun hw h => step_passes hg (hok hw) h,
    fun hw hp hr => ⟨bar_blocks hg (hok hw) hp hr, step_blocks hg (hok hw) (.inl hp) hr⟩, fun hw _ hs hr => step_blocks hg (hok hw) (.inr hs) hr,
    fun hc => exec_sync hg hc⟩

end Sys2Proof.Machine

/-! ## Which context runs next (R105, R106, R326): O56 -/

namespace Sys2Proof.Machine

open Sys2Proof.Laws (tget_tput_same tget_tput_other focusCore_self atCore_of)

/-! ### Making another context of the core in focus the running one -/

section
variable {s : State} {j k : Nat}

/-- A parked context is the one that the core in focus switches to. -/
theorem switchTo_ctx (h : k ≠ s.ctxId) : (switchTo k s).ctx = getCtx s s.coreId k := by
  simp [switchTo, h, getCtx, getCore, packedCore, tget_tput_other]

/-- Every other context keeps its registers over the switch, the one that leaves the focus included. -/
theorem getCtx_runReady (h : k ≠ s.ctxId) (hj : j ≠ k) : getCtx (runReady k s) s.coreId j = getCtx s s.coreId j := by
  by_cases hr : j = s.ctxId
  · simp [runReady, switchTo, h, getCtx, getCore, packedCore, hr, tget_tput_same, Ne.symm h]
  · simp [runReady, switchTo, h, getCtx, getCore, packedCore, hj, hr, tget_tput_other]

theorem runReady_ctx (h : k ≠ s.ctxId) : (runReady k s).ctx = { getCtx s s.coreId k with block := none, readySince := 0 } := by
  rw [runReady, switchTo_ctx h]

theorem switchTo_kept : (switchTo k s).ctxId = k ∧ (switchTo k s).mem = s.mem ∧ (switchTo k s).hub = s.hub ∧ (switchTo k s).coreId = s.coreId := by
  unfold switchTo
  split
  · next h => exact ⟨h.symm, rfl, rfl, rfl⟩
  · exact ⟨rfl, rfl, rfl, rfl⟩

end

/-! ### The order of the ready contexts -/

section
variable (s : State)

/-- The cycle since which a context of the core in focus is ready; 0 is one not noted. -/
def readyFrom (j : Nat) : Nat := (getCtx s s.coreId j).readySince

/-- A context of the core in focus stands in its order. -/
def Waits (j : Nat) : Prop := ready s s.coreId j = true ∧ readyFrom s j ≠ 0

/-- The next context is another one than the running one. -/
theorem nextReady_ne {s : State} {k : Nat} (h : nextReady s = some k) : k ≠ s.ctxId := by
  obtain ⟨-, hk⟩ := Option.filter_eq_some_iff.1 h
  simpa using hk

theorem mem_inLine {j : Nat} : j ∈ inLine s ↔ j ∈ switchOrder s.ctxId ∧ Waits s j := by
  simp [inLine, Waits, readyFrom]

/-- The test of the order, as a Bool. -/
def inLineTest (k : Nat) : Bool := ready s s.coreId k && (getCtx s s.coreId k).readySince != 0

theorem inLine_test {k : Nat} : inLineTest s k = true ↔ Waits s k := by
  simp [inLineTest, Waits, readyFrom]

/-- The first that waits stands first in line. -/
theorem inLine_of_split {a b : List Nat} {j : Nat} (hl : switchOrder s.ctxId = a ++ j :: b) (hj : Waits s j) (ha : ∀ i ∈ a, ¬ Waits s i) :
    inLine s = j :: b.filter (inLineTest s) := by
  have hnil : a.filter (inLineTest s) = [] := List.filter_eq_nil_iff.2 fun i hi ht => ha i hi ((inLine_test s).1 ht)
  calc inLine s = (switchOrder s.ctxId).filter (inLineTest s) := rfl
    _ = _ := by rw [hl, List.filter_append, hnil, List.nil_append, List.filter_cons_of_pos ((inLine_test s).2 hj)]

/-- Of a core's four contexts none of the order is the running one. -/
theorem ne_of_mem_switchOrder {s : State} {j : Nat} (_ : s.ctxId < 4) (h : j ∈ switchOrder s.ctxId) : j ≠ s.ctxId := by
  simp only [switchOrder, List.mem_cons, List.not_mem_nil, or_false] at h
  omega

/-- With none in the order, the running context at most goes on. -/
theorem nextReady_none (h : ∀ j ∈ switchOrder s.ctxId, ¬ Waits s j) : nextReady s = none := by
  have hl : inLine s = [] := List.eq_nil_iff_forall_not_mem.2 fun j hj => h j ((mem_inLine s).1 hj).1 ((mem_inLine s).1 hj).2
  unfold nextReady firstReady
  rw [hl]
  split_ifs with hown <;> simp

/-- The one that stands first is next, unless all became ready on one cycle since the last block. -/
theorem nextReady_first {j : Nat} {t : List Nat} (hl : inLine s = j :: t) (hj : j ≠ s.ctxId) (h : readyFrom s j ≤ s.core.blockAt ∨ ∃ i ∈ t, readyFrom s i ≠ readyFrom s j) :
    nextReady s = some j := by
  have hf : firstReady s = some j := by
    unfold firstReady
    rw [hl]
    refine if_neg fun ⟨_, hb, ha⟩ => ?_
    rcases h with h | ⟨i, hi, hne⟩
    · exact absurd hb (not_lt.2 h)
    · exact hne (beq_iff_eq.1 (List.all_eq_true.1 ha i (List.mem_append_left _ hi)))
  simp [nextReady, hf, hj]

/-- The least of a list, as a fold finds it. -/
theorem foldl_min_eq {j k : Nat} {t : List Nat} (hj : j ∈ k :: t) (h : ∀ i ∈ k :: t, j ≤ i) : t.foldl min k = j :=
  Option.some.inj (List.min?_cons'.symm.trans (List.min?_eq_some_iff.2 ⟨hj, h⟩))

/-- Those that all became ready on one cycle since the last block go by CTXID. -/
theorem nextReady_least {j : Nat} (hw : j ∈ inLine s) (hj : j ≠ s.ctxId) (hb : s.ctx.block = none) (hs : s.core.blockAt < readyFrom s j)
    (h : ∀ i ∈ inLine s, readyFrom s i = readyFrom s j ∧ j ≤ i) : nextReady s = some j := by
  have hf : firstReady s = some j := by
    unfold firstReady
    cases hl : inLine s with
    | nil => simp [hl] at hw
    | cons k t =>
      have hall : ∀ i ∈ k :: t, readyFrom s i = readyFrom s j ∧ j ≤ i := hl ▸ h
      have hk := (hall k List.mem_cons_self).1
      have hmin : t.foldl min k = j := foldl_min_eq (hl ▸ hw) fun i hi => (hall i hi).2
      simp only [hb, Option.isSome_none, Bool.false_and, Bool.false_eq_true, if_false, List.append_nil]
      refine (if_pos ⟨?_, (hs.trans_eq hk.symm : _ < readyFrom s k), List.all_eq_true.2 fun i hi => ?_⟩).trans (by rw [hmin])
      · exact ((mem_inLine s).1 (hl ▸ List.mem_cons_self)).2.2
      · exact beq_iff_eq.2 ((hall i (List.mem_cons_of_mem _ hi)).1.trans hk.symm)
  simp [nextReady, hf, hj]

end

/-! ### Ageing -/

section
variable (s : State)

/-- A context of the order that has been ready and has not run for 4,096 cycles (R106). -/
def Aged (k : Nat) : Prop := readyFrom s k ≠ 0 ∧ readyFrom s k - 1 + 4096 ≤ s.cycle ∧ ready s s.coreId k = true

theorem aged_iff {k : Nat} : Aged s k ↔ Waits s k ∧ readyFrom s k + 4095 ≤ s.cycle := by
  unfold Aged Waits
  constructor
  · rintro ⟨h0, hc, hr⟩
    exact ⟨⟨hr, h0⟩, by omega⟩
  · rintro ⟨⟨hr, h0⟩, hc⟩
    exact ⟨h0, by omega, hr⟩

/-- One step of the search for the oldest. -/
def older (m : Option Nat) (k : Nat) : Option Nat :=
  if readyFrom s k ≠ 0 ∧ readyFrom s k - 1 + 4096 ≤ s.cycle ∧ ready s s.coreId k then
    (match m with
      | some j => if readyFrom s k < readyFrom s j then some k else m
      | none => some k)
  else m

theorem oldestAged_eq : oldestAged s = (switchOrder s.ctxId).foldl (older s) none := rfl

/-- A step takes an aged context in place of none or of a younger one. -/
theorem older_spec (m : Option Nat) (k : Nat) : (older s m k = none → m = none ∧ ¬ Aged s k)
    ∧ ∀ j, older s m k = some j → (m = some j ∨ j = k ∧ Aged s k) ∧ (∀ i, m = some i → readyFrom s j ≤ readyFrom s i) ∧ (Aged s k → readyFrom s j ≤ readyFrom s k) := by
  unfold older
  by_cases ha : Aged s k
  · rw [if_pos (show readyFrom s k ≠ 0 ∧ _ from ha)]
    cases m with
    | none => exact ⟨nofun, fun j h => by simp_all⟩
    | some i =>
      by_cases hlt : readyFrom s k < readyFrom s i
      · simp only [hlt, if_true]
        exact ⟨nofun, fun j h => by cases h; simp_all; omega⟩
      · simp only [hlt, if_false]
        exact ⟨nofun, fun j h => by cases h; simp_all⟩
  · rw [if_neg (show ¬ (readyFrom s k ≠ 0 ∧ _) from ha)]
    exact ⟨fun h => ⟨h, ha⟩, fun j h => ⟨.inl h, fun i hi => by rw [h] at hi; cases hi; exact le_rfl, fun hk => absurd hk ha⟩⟩

/-- The search finds none exactly where none is aged, and else an aged context than which no aged one is older. -/
theorem foldl_older (l : List Nat) (m : Option Nat) : (l.foldl (older s) m = none → m = none ∧ ∀ i ∈ l, ¬ Aged s i)
    ∧ ∀ j, l.foldl (older s) m = some j → (m = some j ∨ j ∈ l ∧ Aged s j) ∧ (∀ i, m = some i → readyFrom s j ≤ readyFrom s i)
      ∧ ∀ i ∈ l, Aged s i → readyFrom s j ≤ readyFrom s i := by
  induction l generalizing m with
  | nil => exact ⟨fun h => ⟨h, by simp⟩, fun j h => ⟨.inl h, fun i hi => by rw [← Option.some.inj (h.symm.trans hi)], by simp⟩⟩
  | cons k l ih =>
    obtain ⟨ihn, ihs⟩ := ih (older s m k)
    obtain ⟨hn, hs⟩ := older_spec s m k
    refine ⟨fun h => ?_, fun j h => ?_⟩
    · obtain ⟨ho, hl⟩ := ihn h
      exact ⟨(hn ho).1, List.forall_mem_cons.2 ⟨(hn ho).2, hl⟩⟩
    · obtain ⟨hj, hle, hl⟩ := ihs j h
      cases hm : older s m k with
      | none =>
        obtain ⟨rfl, hk⟩ := hn hm
        obtain ⟨hjl, hja⟩ := hj.resolve_left fun he => by rw [hm] at he; cases he
        exact ⟨.inr ⟨List.mem_cons_of_mem _ hjl, hja⟩, nofun, List.forall_mem_cons.2 ⟨fun ha => absurd ha hk, hl⟩⟩
      | some i =>
        obtain ⟨hi, hmi, hki⟩ := hs i hm
        have hji := hle i hm
        refine ⟨?_, fun i' hi' => hji.trans (hmi i' hi'), List.forall_mem_cons.2 ⟨fun ha => hji.trans (hki ha), hl⟩⟩
        rcases hj with he | ⟨hjl, hja⟩
        · cases he.symm.trans hm
          rcases hi with hi | ⟨rfl, hka⟩
          · exact .inl hi
          · exact .inr ⟨List.mem_cons_self, hka⟩
        · exact .inr ⟨List.mem_cons_of_mem _ hjl, hja⟩

theorem oldestAged_none (h : oldestAged s = none) {i : Nat} (hi : i ∈ switchOrder s.ctxId) (hw : Waits s i) : s.cycle < readyFrom s i + 4095 :=
  lt_of_not_ge fun hc => ((foldl_older s _ none).1 h).2 i hi ((aged_iff s).2 ⟨hw, hc⟩)

theorem oldestAged_some {j : Nat} (h : oldestAged s = some j) : j ∈ switchOrder s.ctxId ∧ Waits s j ∧ readyFrom s j + 4095 ≤ s.cycle
    ∧ ∀ i ∈ switchOrder s.ctxId, Waits s i → readyFrom s i + 4095 ≤ s.cycle → readyFrom s j ≤ readyFrom s i := by
  obtain ⟨hj, -, hl⟩ := (foldl_older s _ none).2 j h
  obtain ⟨hm, ha⟩ := hj.resolve_left nofun
  obtain ⟨hw, hc⟩ := (aged_iff s).1 ha
  exact ⟨hm, hw, hc, fun i hi hwi hci => hl i hi ((aged_iff s).2 ⟨hwi, hci⟩)⟩

end

/-! ### The steps -/

section
variable {c k : Nat} {s : State} (hc : isCore c = true)
include hc

theorem contextSwitch_eq (hn : nextReady (focusCore c s) = some k) :
    exec (.contextSwitch c) s = .next (inFocus c (fun u => if maySwitch (focusCore c s) then runReady k u else u) s) := by
  have hx : exec (.contextSwitch c) s = execContextSwitch c s := rfl
  rw [hx, execContextSwitch, atCore_of hc]
  simp only [inFocus, hn]

/-- The core in focus switches to the next ready context, and every other one keeps its registers. -/
theorem contextSwitch_self (he : c = s.coreId) (hn : nextReady s = some k) (hm : maySwitch s = true) : exec (.contextSwitch c) s = .next (runReady k s) := by
  subst he
  rw [contextSwitch_eq hc (by rwa [focusCore_self]), focusCore_self, hm]
  simp only [inFocus, if_true, focusCore_self]
  have hid : (runReady k s).coreId = s.coreId := switchTo_kept.2.2.2
  rw [← hid, focusCore_self]

/-- AGING_SWITCH at a bundle boundary (R106). -/
theorem agingSwitch_eq (ho : oldestAged (focusCore c s) = some k) (hl : (focusCore c s).ctx.life = .running) (hb : (focusCore c s).ctx.block = none)
    (hf : (focusCore c s).ctx.frozen = none) (hd : (focusCore c s).ctx.delay = 0) (ht : inTeam (focusCore c s) = false) :
    exec (.agingSwitch c) s = .next (inFocus c (fun u =>
      if (focusCore c s).core.agedIn then u
      else
        let v := runReady k { u with core := { u.core with freeAt := max u.core.freeAt u.cycle + 2, blockAt := u.cycle } }
        { v with core := { v.core with agedIn := true } }) s) := by
  have hx : exec (.agingSwitch c) s = execAgingSwitch c s := rfl
  rw [hx, execAgingSwitch, atCore_of hc]
  cases ha : (focusCore c s).core.agedIn <;> simp [inFocus, ho, hl, hb, hf, hd, ht, ha]

end

/-- TEAM_RESUME, where the team stands frozen on its cores and nothing halts a member (R108). -/
theorem teamResume_resumes {t : Nat} {x : TaskSt} {s : State} (ht : taskOf s t = some x) (hteam : x.team = true) (hp : teamPlaced s x = true)
    (hany : x.places.any (fun p => frozenWithTeam (memberCtx s x p)) = true) (hall : ∀ p ∈ x.places, (memberCtx s x p).frozen = none ∧ halts s p.1 p.2 = false) :
    exec (.teamResume t) s = .next (resumeTeam x s) := by
  have hx : exec (.teamResume t) s = execTeamResume t s := rfl
  have hfree : x.places.all (fun p => (memberCtx s x p).frozen.isNone && !halts s p.1 p.2) = true :=
    List.all_eq_true.2 fun p hm => by simp [hall p hm]
  rw [hx, execTeamResume, ht]
  simp only [hteam, hp, hany, hfree, Bool.and_self, if_true]

/-- Settles O56: the search for the next and for the oldest context, taken apart along the order of the core. -/
theorem switching : Obligations.Switching := by
  unfold Obligations.Switching
  intro c k s hc
  refine ⟨fun hn hm => ?_, fun hn hm => ?_, fun he hn hm => ?_, ?_, ?_, ?_⟩
  · rw [contextSwitch_eq hc hn, hm]
    rfl
  · rw [contextSwitch_eq hc hn, hm]
    rfl
  · subst he
    obtain ⟨hctx, hmem, hhub, -⟩ := switchTo_kept (s := s) (k := k)
    exact ⟨runReady k s, contextSwitch_self hc rfl hn hm, hctx, runReady_ctx (nextReady_ne hn), fun j hj => getCtx_runReady (nextReady_ne hn) hj, hmem, hhub⟩
  · intro f ho hl hb hf hd ht
    rw [agingSwitch_eq hc ho hl hb hf hd ht]
    exact ⟨fun ha => by rw [show (focusCore c s).core.agedIn = false from ha]; rfl, fun ha => by rw [show (focusCore c s).core.agedIn = true from ha]; rfl⟩
  · intro since waits line h4
    have hne : ∀ j ∈ line, j ≠ s.ctxId := fun j hj => ne_of_mem_switchOrder h4 hj
    refine ⟨nextReady_none s, ?_, ?_, fun j hj => oldestAged_some s hj, fun hn i hi hw => oldestAged_none s hn hi hw⟩
    · intro a j b hl hj ha h
      refine nextReady_first s (inLine_of_split s hl hj ha) (hne j (hl ▸ by simp)) (h.imp_right ?_)
      rintro ⟨i, hi, hwi, hs⟩
      exact ⟨i, List.mem_filter.2 ⟨hi, (inLine_test s).2 hwi⟩, hs⟩
    · intro j hj hw hb hs h
      exact nextReady_least s ((mem_inLine s).2 ⟨hj, hw⟩) (hne j hj) hb hs fun i hi => h i ((mem_inLine s).1 hi).1 ((mem_inLine s).1 hi).2
  · intro t x ht hteam hp hany hall
    exact teamResume_resumes ht hteam hp hany hall

end Sys2Proof.Machine

/-! ## Records on their way to hardware queues (R123, R143, R271, R315, R324, R389): O53 -/

namespace Sys2Proof.Machine

open Sys2Proof.Laws (tget_tput_same atCtx_of)

/-! ### Records that a host writes -/

/-- A record changed in place leaves the window as long as it was. -/
theorem length_modHostRec (test : HostRec → Bool) (g : HostRec → HostRec) : ∀ l, (modHostRec test (fun r => some (g r)) l).length = l.length
  | [] => rfl
  | r :: t => by
    unfold modHostRec
    split
    · rfl
    · exact congrArg (· + 1) (length_modHostRec test g t)

section
variable {q : Nat} {r : BitVec 512} {s : State}

/-- A record that comes again: its response was negative (R315). -/
def comesAgain (q : Nat) (r : BitVec 512) (x : HostRec) : Bool := x.queue == q && x.lr == r && x.nacked

/-- The state with the window written and the record on its way. -/
def sentFrom (q : Nat) (r : BitVec 512) (l : List HostRec) (s : State) : State :=
  modHub (fun h => { h with hostRecs := l, inbox := h.inbox ++ [{ sender := .host q, queue := q, lr := r }] }) s

theorem launchRecordWrite_eq (hq : q < 256) : exec (.launchRecordWrite q r) s = .next (match hostWrite q r s.hub.hostRecs with
    | some l => sentFrom q r l s
    | none => s) := by
  have hx : exec (.launchRecordWrite q r) s = execLaunchRecordWrite q r s := rfl
  rw [hx, execLaunchRecordWrite, if_pos hq]
  rfl

theorem launchRecordWrite_of_some (hq : q < 256) {l : List HostRec} (h : hostWrite q r s.hub.hostRecs = some l) : exec (.launchRecordWrite q r) s = .next (sentFrom q r l s) := by
  rw [launchRecordWrite_eq hq, h]

theorem launchRecordWrite_of_none (hq : q < 256) (h : hostWrite q r s.hub.hostRecs = none) : exec (.launchRecordWrite q r) s = .next s := by
  rw [launchRecordWrite_eq hq, h]

theorem hostWrite_again {l : List HostRec} (h : l.any (comesAgain q r) = true) :
    hostWrite q r l = some (modHostRec (comesAgain q r) (fun x => some { x with nacked := false }) l) := if_pos h

theorem hostWrite_new {l : List HostRec} (h : l.any (comesAgain q r) = false) (hl : l.countP (fun x => x.queue == q) < 8) :
    hostWrite q r l = some (l ++ [{ queue := q, lr := r }]) :=
  (if_neg (Bool.eq_false_iff.1 h)).trans (if_pos hl)

theorem hostWrite_full {l : List HostRec} (h : l.any (comesAgain q r) = false) (hl : 8 ≤ l.countP (fun x => x.queue == q)) : hostWrite q r l = none :=
  (if_neg (Bool.eq_false_iff.1 h)).trans (if_neg (not_lt.2 hl))

end

/-! ### Reads through the page table -/

namespace SameDev

variable {s t : State} (h : SameDev s t)
include h

theorem rangeCovers (f z : Nat) : ∀ fuel a, rangeCovers t f z fuel a = rangeCovers s f z fuel a
  | 0, _ => rfl
  | fuel + 1, a => by simp only [Machine.rangeCovers, rangeOf, h.ranges, rangeCovers f z fuel]

theorem judgePte (f l e : Nat) : judgePte t f l e = judgePte s f l e := by
  have hr (a n : Nat) : rangeOk t f a n = rangeOk s f a n := h.rangeCovers ..
  unfold Machine.judgePte
  simp only [hr]

theorem pteAt (table i : Nat) : pteAt t table i = pteAt s table i := h.devNat ..

theorem pteStep (f l table i : Nat) : pteStep t f l table i = pteStep s f l table i := by
  rw [Machine.pteStep, Machine.pteStep, h.lineBad, h.pteAt, h.judgePte]

variable (hf : t.hub.funcs = s.hub.funcs)
include hf

omit h in
theorem fblk (f hi lo : Nat) : fblk t f hi lo = fblk s f hi lo := by rw [Machine.fblk, hf, Machine.fblk]

theorem walk (f va : Nat) : walk t f va = walk s f va := by simp only [Machine.walk, h.pteStep, SameDev.fblk hf]

theorem vphys (f va : Nat) : vphys t f va = vphys s f va := by rw [Machine.vphys, Machine.vphys, h.walk hf]

theorem vread (f va n : Nat) : vread t f va n = vread s f va n := by
  have hb (a : Nat) : anyBad t a n = anyBad s a n := by simp only [anyBad, h.lineBad]
  have hd (a : Nat) : Machine.devNat t a n = Machine.devNat s a n := h.devNat a n
  unfold Machine.vread
  simp only [h.vphys hf, hb, hd]

/-- Whether a record can run is read from device memory (R383). -/
theorem runnable (r : BitVec 512) : runnable t r = runnable s r := by
  simp only [Machine.runnable, progEntry, groupEntry, h.vread hf, SameDev.fblk hf]

end SameDev

/-! ### Acceptance -/

section
variable {q : Nat} {x : Inbound} {s : State}

theorem queue_of_firstTo (h : firstTo s q = some x) : x.queue = q := by
  simpa using List.find?_some h

theorem queueRecordAccept_eq : exec (.queueRecordAccept q) s = execQueueRecordAccept q s := rfl

theorem negativeAcknowledgement_eq : exec (.negativeAcknowledgement q) s = execNegativeAcknowledgement q s := rfl

/-- Before bring-up is complete, and with none on its way, no record is accepted or acknowledged (R324). -/
theorem queueRecord_stays (h : s.hub.bringUp < 8 ∨ firstTo s q = none) : exec (.queueRecordAccept q) s = .next s ∧ exec (.negativeAcknowledgement q) s = .next s := by
  rw [queueRecordAccept_eq, negativeAcknowledgement_eq, execQueueRecordAccept, execNegativeAcknowledgement]
  cases hf : firstTo s q with
  | none => exact ⟨rfl, rfl⟩
  | some x =>
    have hb : s.hub.bringUp < 8 := h.resolve_right (by simp [hf])
    refine ⟨by simp [hb], ?_⟩
    cases hs : x.sender <;> simp [hs, not_le.2 hb]

section
variable (hf : firstTo s q = some x) (hb : 8 ≤ s.hub.bringUp)
include hf hb

theorem queueRecordAccept_refuses (hr : refuses s x = true) : exec (.queueRecordAccept q) s = .next (refuse x s) := by
  rw [queueRecordAccept_eq, execQueueRecordAccept, hf]
  simp [not_lt.2 hb, hr]

omit hb in
theorem queueRecordAccept_drops (hr : refuses s x = false) (hd : drops s x = true) : exec (.queueRecordAccept q) s = .next s := by
  rw [queueRecordAccept_eq, execQueueRecordAccept, hf]
  simp [hr, hd]

theorem queueRecordAccept_accepts (hr : refuses s x = false) (hd : drops s x = false) : exec (.queueRecordAccept q) s = .next (accept x s) := by
  rw [queueRecordAccept_eq, execQueueRecordAccept, hf]
  simp [not_lt.2 hb, hr, hd]

/-- A record that its queue drops is negatively acknowledged; one of a graph node waits instead (R143). -/
theorem negativeAcknowledgement_nacks (hr : refuses s x = false) (hd : drops s x = true) (hg : ∀ g, x.sender ≠ .graph g) :
    exec (.negativeAcknowledgement q) s = .next (nack x s) := by
  rw [negativeAcknowledgement_eq, execNegativeAcknowledgement, hf]
  cases hs : x.sender with
  | graph g => exact absurd hs (hg g)
  | host p => simp [hb, hr, hd]
  | ctx c k t => simp [hb, hr, hd]

end

/-- What the queue holds of a record that it accepts (R123). -/
def acceptedRec (s : State) (x : Inbound) : QRec := ⟨lrWithVf x.lr (qcVf (queueOf s x.queue)), (queueOf s x.queue).seq + 1, x.home, x.graph⟩

/-- The state with the record at the end of its queue. -/
def queuedRec (x : Inbound) (s : State) : State :=
  modQueue x.queue (fun q => { q with seq := q.seq + 1, recs := q.recs ++ [acceptedRec s x], dropping := q.dropping.filter fun y => y.sender != x.sender })
    (takeInbound x s)

theorem queueOf_modQueue (f : Queue → Queue) : queueOf (modQueue q f s) q = f (queueOf s q) := tget_tput_same ..

theorem queueOf_queuedRec : (queueOf (queuedRec x s) x.queue).recs = (queueOf s x.queue).recs ++ [acceptedRec s x]
    ∧ (queueOf (queuedRec x s) x.queue).seq = (queueOf s x.queue).seq + 1 := by
  rw [queuedRec, queueOf_modQueue]
  exact ⟨rfl, rfl⟩

theorem sameDev_queuedRec : SameDev s (queuedRec x s) := ⟨rfl, rfl, rfl, rfl, rfl, rfl⟩

/-- A head that can run stays. -/
theorem settleHead_of_runnable {r : QRec} {t : List QRec} {n : Nat} (h : (queueOf s q).recs = r :: t) (hr : runnable s r.lr = true) : settleHead q n s = s := by
  cases n with
  | zero => rfl
  | succ n =>
    rw [settleHead, h]
    exact if_pos hr

/-- A host's record that the queue accepts stands at its end, where the queue's head can run. -/
theorem accept_host {p : Nat} (hs : x.sender = .host p)
    (hh : ∀ h ∈ ((queueOf s x.queue).recs ++ [acceptedRec s x]).head?, runnable s h.lr = true) : accept x s = endHost x (queuedRec x s) := by
  have hset : (if (queueOf s x.queue).recs.isEmpty then settleHead x.queue 1 (queuedRec x s) else queuedRec x s) = queuedRec x s := by
    split
    · next he =>
      have hrecs : (queueOf s x.queue).recs = [] := List.isEmpty_iff.1 he
      have hrun : runnable (queuedRec x s) (acceptedRec s x).lr = true := (sameDev_queuedRec.runnable rfl _).trans (hh _ (by simp [hrecs]))
      exact settleHead_of_runnable (t := []) (by rw [queueOf_queuedRec.1, hrecs]; rfl) hrun
    · rfl
  unfold accept
  split
  · next h => rw [hs] at h; cases h
  · exact congrArg (endHost x) hset
  · next h => rw [hs] at h; cases h

end

/-- REPLAY, where a context that stands at the place may resend (R389). -/
theorem replay_resends {c k q t : Nat} {s : State} (hc : isCore c = true) (hk : k < 4) (ht : (tasksAt s c k).find? (mayReplay s c k q) = some t) :
    exec (.replay c k q) s = .next (resend c k q t s) := by
  have hx : exec (.replay c k q) s = execReplay c k q s := rfl
  rw [hx, execReplay, atCtx_of hc hk, ht]

/-- Settles O53: the window's cases of a host's record, and the fate of the first record on its way. -/
theorem queueRecords : Obligations.QueueRecords := by
  unfold Obligations.QueueRecords
  intro q r s
  refine ⟨fun hq => ⟨fun ha hl => launchRecordWrite_of_some hq (hostWrite_new ha hl), fun ha hl => launchRecordWrite_of_none hq (hostWrite_full ha hl), fun ha => ?_⟩,
    fun hq => ?_, queueRecord_stays, fun x hf hb => ⟨queueRecordAccept_refuses hf hb, fun hr hd => ⟨queueRecordAccept_drops hf hr hd,
      negativeAcknowledgement_nacks hf hb hr hd⟩, fun hr hd => ⟨?_, queueRecordAccept_accepts hf hb hr hd⟩⟩, fun c k t hc hk ht => replay_resends hc hk ht⟩
  · exact ⟨_, launchRecordWrite_of_some hq (hostWrite_again ha), length_modHostRec _ _ _, rfl, rfl⟩
  · have hx : exec (.launchRecordWrite q r) s = execLaunchRecordWrite q r s := rfl
    rw [hx, execLaunchRecordWrite, if_neg (not_lt.2 hq)]
  · obtain rfl := queue_of_firstTo hf
    intro recs hs hh
    rw [queueRecordAccept_accepts hf hb hr hd, accept_host hs hh]
    exact ⟨_, rfl, queueOf_queuedRec.1, queueOf_queuedRec.2, rfl, rfl⟩

end Sys2Proof.Machine

/-! ## Results and engines (R104, R129, R255, R327, R375, R380, R391): O47 -/

namespace Sys2Proof.Machine

open Sys2Proof.Laws (atCore_of atCtx_of getCore_modCore_same getCore_modCore_other getCtx_modCtx_same tget_tput_other)

/-! ### Contexts and commands under a change of one -/

section
variable {c k d j : Nat} {s : State}

/-- A change of a context leaves the others. -/
theorem getCtx_modCtx_other (h : d ≠ c ∨ j ≠ k) (f : Context → Context) : getCtx (modCtx c k f s) d j = getCtx s d j := by
  have hn : ¬(d = c ∧ j = k) := fun he => h.elim (absurd he.1) (absurd he.2)
  unfold modCtx
  split
  · next hf =>
    obtain ⟨rfl, rfl⟩ := hf
    simp only [getCtx, if_neg hn]
    rfl
  · have hsame : (modCore c (fun co => { co with parked := tput co.parked k (f (tget (resetContext c) co.parked k)) }) s).coreId = s.coreId
        ∧ (modCore c (fun co => { co with parked := tput co.parked k (f (tget (resetContext c) co.parked k)) }) s).ctxId = s.ctxId
        ∧ (modCore c (fun co => { co with parked := tput co.parked k (f (tget (resetContext c) co.parked k)) }) s).ctx = s.ctx := by
      unfold modCore
      split <;> exact ⟨rfl, rfl, rfl⟩
    obtain ⟨h1, h2, h3⟩ := hsame
    rw [getCtx, getCtx, h1, h2, h3]
    by_cases hd : d = c
    · rw [hd, getCore_modCore_same, tget_tput_other _ _ _ _ (fun he => hn ⟨hd, he⟩)]
    · rw [getCore_modCore_other hd]

/-- A change of a context leaves every command. -/
theorem cmds_modCtx (f : Context → Context) : (getCore (modCtx c k f s) d).cmds = (getCore s d).cmds := by
  unfold modCtx
  split
  · rfl
  · by_cases hd : d = c
    · rw [hd, getCore_modCore_same]
    · rw [getCore_modCore_other hd]

theorem cmds_setCmd (id : Nat) (f : Cmd → Cmd) : (getCore (setCmd c id f s) c).cmds = (getCore s c).cmds.map fun m => if m.id = id then f m else m := by
  rw [setCmd, getCore_modCore_same]

theorem setCmd_kept (id : Nat) (f : Cmd → Cmd) : (setCmd c id f s).mem = s.mem ∧ (setCmd c id f s).hub = s.hub := by
  unfold setCmd modCore
  split <;> exact ⟨rfl, rfl⟩

/-- A change of a command's owner that keeps its queues, handles and bindings leaves every command. -/
theorem modOwner_cmds {m : Cmd} {f : Context → Context} (hf : ∀ x, x.q = (f x).q ∧ x.h = (f x).h ∧ x.b = (f x).b) :
    (getCore (modOwner c m f s) d).cmds = (getCore s d).cmds := by
  unfold modOwner modOwnerAt
  split
  · exact cmds_modCtx _
  · rw [modSaved_of_kept _ hf]
    rfl

/-- A command that is found has the identity by which it was found. -/
theorem findCmd_id {id : Nat} {m : Cmd} (h : findCmd s c id = some m) : m.id = id := by
  simpa using List.find?_some h

end

/-! ### Results -/

/-- The registers of a core that results land in are none of its contexts. -/
theorem foldl_land_parked (l : List Flight) (k : Core) : (l.foldl Core.land k).parked = k.parked := by rw [Core.foldl_land_eq]

section
variable {c k : Nat} {s : State}

/-- Due results land in their context, and in the registers of its core. -/
theorem landOf_spec : getCtx (landOf c k s) c k = (getCtx s c k).landDue ∧ (landOf c k s).mem = s.mem ∧ (landOf c k s).hub = s.hub
    ∧ ∀ d j, d ≠ c ∨ j ≠ k → getCtx (landOf c k s) d j = getCtx s d j := by
  have hsame : SameContexts (modCtx c k Context.landDue s) (landOf c k s) := .modCore c _ fun _ => foldl_land_parked _ _
  obtain ⟨hmem, hhub⟩ := modCtx_mem c k Context.landDue s
  have hcore : (landOf c k s).mem = (modCtx c k Context.landDue s).mem ∧ (landOf c k s).hub = (modCtx c k Context.landDue s).hub := by
    unfold landOf modCore
    dsimp only
    split <;> exact ⟨rfl, rfl⟩
  exact ⟨(hsame.ctx c k).trans (getCtx_modCtx_same ..), hcore.1.trans hmem, hcore.2.trans hhub, fun d j h => (hsame.ctx d j).trans (getCtx_modCtx_other h _)⟩

end

/-! ### Starts -/

section
variable {c e : Nat} {m : Cmd} {s : State}

theorem startNext_of_some (h : nextCmd (getCore s c) e = some m) (timed : Bool) : startNext c e timed s =
    if (match m.at_ with
      | some t => timed && decide (t ≤ s.tick)
      | none => !timed) && mayStart s c m then startCmd c m s else s := by
  rw [startNext, h] <;> rfl

/-- A command of no other kind only starts. -/
theorem startCmd_cmds (h1 : m.op ≠ .cbrev) (h2 : m.op ≠ .cpyw) (h3 : m.op ≠ .pgalloc) :
    (getCore (startCmd c m s) c).cmds = (getCore s c).cmds.map fun x => if x.id = m.id then { m with phase := .started } else x := by
  simp only [startCmd, h1, h2, h3, if_false, cmds_setCmd]

/-- A page for the function is one of the free list, which it leaves. -/
theorem takePage_of_eligible {f : Nat} (h : eligible s f ≠ []) : ∃ p ∈ s.hub.free, ∃ t, takePage f s = some (p, t) ∧ t.hub.free = s.hub.free.erase p
    ∧ (getCore t c).cmds = (getCore s c).cmds := by
  have hlt : Config.pagePick s.fresh % (eligible s f).length < (eligible s f).length := Nat.mod_lt _ (List.length_pos_iff.2 h)
  obtain ⟨p, hp⟩ : ∃ p, (eligible s f)[Config.pagePick s.fresh % (eligible s f).length]? = some p := ⟨_, List.getElem?_eq_getElem hlt⟩
  have ht : takePage f s = some (p, setDesc p (mkDesc 1 f 0 0) (State.bump { s with hub := { s.hub with free := s.hub.free.erase p } })) := by
    unfold takePage
    simp only [hp]
  exact ⟨p, (List.mem_filter.1 (List.mem_of_getElem? hp)).1, _, ht, rfl, rfl⟩

/-- Which free pages may go to a function is the hub's to say. -/
theorem eligible_of_hub {t : State} (h : t.hub = s.hub) {f : Nat} : eligible t f = eligible s f := by
  have hr (fuel z a : Nat) : rangeCovers t f z fuel a = rangeCovers s f z fuel a := by
    induction fuel generalizing a with
    | zero => rfl
    | succ fuel ih => simp only [rangeCovers, rangeOf, h, ih]
  simp only [eligible, rangeOk, hr, h]

/-- An allocation that starts within the quota takes its page (R83). -/
theorem startCmd_pgalloc (hop : m.op = .pgalloc) (hs : mayStart s c m = true) (hq : withinQuota s m.ga.toNat 1 = true) :
    ∃ p ∈ s.hub.free, (startCmd c m s).hub.free = s.hub.free.erase p
      ∧ (getCore (startCmd c m s) c).cmds = (getCore s c).cmds.map fun x => if x.id = m.id then { m with phase := .started, claim := [p] } else x := by
  have hel : eligible s m.ga.toNat ≠ [] := by
    have hp : pageThere s m = true := by
      unfold mayStart at hs
      exact (Bool.and_eq_true _ _ ▸ hs).2
    simpa [pageThere, hop, hq] using hp
  let m' : Cmd := { m with phase := .started }
  let u := setCmd c m.id (fun _ => m') s
  obtain ⟨hmem, hhub⟩ : u.mem = s.mem ∧ u.hub = s.hub := setCmd_kept ..
  have helu : eligible u m.ga.toNat ≠ [] := by rwa [eligible_of_hub hhub]
  have hqu : withinQuota u m.ga.toNat 1 = true := by rwa [withinQuota, ownedPages, fQuota, fblk, hhub]
  obtain ⟨p, hp, t, ht, hfree, hcmds⟩ := takePage_of_eligible (c := c) helu
  have htake : takePgalloc c m' u = setCmd c m.id (fun x => { x with claim := [p] }) t := by
    rw [takePgalloc, if_pos hqu, show takePage m'.ga.toNat u = some (p, t) from ht]
  have hstart : startCmd c m s = setCmd c m.id (fun x => { x with claim := [p] }) t := by
    have h1 : m.op ≠ .cbrev := by simp [hop]
    have h2 : m.op ≠ .cpyw := by simp [hop]
    rw [← htake]
    simp only [startCmd, if_neg h1, if_neg h2, if_pos hop]
    rfl
  refine ⟨p, hhub ▸ hp, ?_, ?_⟩
  · rw [hstart, (setCmd_kept ..).2, hfree, hhub]
  · rw [hstart, cmds_setCmd, hcmds, cmds_setCmd, List.map_map]
    refine List.map_congr_left fun x _ => ?_
    by_cases hx : x.id = m.id <;> simp [m', hx]

end

/-! ### The turn of a command -/

section
variable {c id : Nat} {m : Cmd} {s : State} (hf : findCmd s c id = some m)
include hf

/-- A started command of a kind performs once it has come to its turn. -/
theorem turn_performs {kinds : List Op} (hp : m.phase = .started) (hk : m.op ∈ kinds) (hm : m.sources = [] ∨ m.cycle + 6 ≤ s.cycle) (hn : mustFollow s c m = false) :
    turn c id kinds s = settleRefs c (onStore c m.func (fun u => conclude c m (perform c m u)) s) := by
  have hmat : mature s m = true := by simpa [mature] using hm
  rw [turn, hf]
  exact if_pos (by simp [hk, hp, hmat, hn])

/-- Before that it stays. -/
theorem turn_stays {kinds : List Op} (h : (m.sources ≠ [] ∧ s.cycle < m.cycle + 6) ∨ mustFollow s c m = true) : turn c id kinds s = s := by
  rw [turn, hf]
  refine if_neg fun ht => ?_
  simp only [Bool.and_eq_true, Bool.not_eq_true', mature, Bool.or_eq_true, List.isEmpty_iff, decide_eq_true_eq] at ht
  obtain ⟨⟨-, hmat⟩, hn⟩ := ht
  rcases h with ⟨hs, hlt⟩ | h
  · exact hmat.elim hs (not_le.2 hlt)
  · exact absurd (hn.symm.trans h) nofun

end

/-- The steps in which commands perform, each with its kinds. -/
def turns (c id : Nat) : List (Instr × List Op) :=
  [(.engineCompletion c id, [.cpy, .cpya, .cpyw, .flapp, .share, .pgalloc, .pgfree, .msg, .task, .rmw, .evsig, .drain]),
    (.cbindArrayLands c id, [.cbind]), (.cbrevPublish c id, [.cbrev]), (.encComplete c id, [.enc]), (.splicePerform c id, [.splice]),
    (.pinPerform c id, [.pin]), (.unpinDrop c id, [.unpin]), (.probeFillLands c id, [.probeFill])]

/-- Each is the turn of a command of its kinds. -/
theorem exec_turns {c id : Nat} {m : Cmd} {s : State} (hc : isCore c = true) (hf : findCmd s c id = some m) (hp : m.phase = .started) {p : Instr × List Op}
    (h : p ∈ turns c id) (hop : m.op ∈ p.2) : exec p.1 s = .next (turn c id p.2 s) := by
  simp only [turns, List.mem_cons, List.not_mem_nil, or_false] at h
  rcases h with rfl | rfl | rfl | rfl | rfl | rfl | rfl | rfl
  · have hret : m.op ≠ .slotReturn := fun he => by simp [he] at hop
    have hx : exec (.engineCompletion c id) s = execEngineCompletion c id s := rfl
    rw [hx, execEngineCompletion, atCore_of hc, hf]
    simp only [hret, hp, reduceCtorEq, if_false]
    rfl
  all_goals exact atCore_of hc _ _

/-! ### Suspended commands -/

section
variable {c id : Nat} {m : Cmd} {s : State} (hc : isCore c = true) (hf : findCmd s c id = some m)
include hc hf

theorem discardCommand_suspended (h : m.cause ≠ none) : exec (.discardCommand c id) s = .next (onStore c m.func (discardCmd c m) s) := by
  have hx : exec (.discardCommand c id) s = execDiscardCommand c id s := rfl
  rw [hx, execDiscardCommand, atCore_of hc, hf]
  simp only [Option.isSome_iff_ne_none.2 h, if_true]

theorem discardCommand_running (h : m.cause = none) : exec (.discardCommand c id) s = .next s := by
  have hx : exec (.discardCommand c id) s = execDiscardCommand c id s := rfl
  rw [hx, execDiscardCommand, atCore_of hc, hf]
  simp [h]

theorem resumeCommand_suspended (h : m.cause ≠ none) : exec (.resumeCommand c id) s = .next (setCmd c id Cmd.again s) := by
  have hx : exec (.resumeCommand c id) s = execResumeCommand c id s := rfl
  rw [hx, execResumeCommand, atCore_of hc, resumeCmd, hf]
  simp [Option.isSome_iff_ne_none.2 h]

/-! ### Records and returns to other packages -/

/-- The completion step of a command that is found. -/
theorem engineCompletion_eq : exec (.engineCompletion c id) s =
    .next (if m.op = .slotReturn then returnAway c m s else if m.phase = .sent then acceptedAway c m s else turn c id plainOps s) := by
  have hx : exec (.engineCompletion c id) s = execEngineCompletion c id s := rfl
  rw [hx, execEngineCompletion, atCore_of hc, hf]

theorem engineCompletion_return (h : m.op = .slotReturn) : exec (.engineCompletion c id) s =
    .next (if carried s c id = false ∧ mayReturn s c m = true ∧ returnBehind s c m = false then leave c m s else s) := by
  rw [engineCompletion_eq hc hf, if_pos h, returnAway, findCmd_id hf]
  simp only [Bool.and_eq_true, Bool.not_eq_true', and_assoc]

section
variable (hp : m.phase = .sent) (hop : m.op = .msg) (haway : bits m.ga.toNat 19 8 ≠ s.hub.package.toNat)
include hp hop haway

theorem engineCompletion_away : exec (.engineCompletion c id) s =
    .next (if earlierMsg s c m then (if !m.behind && droppedBefore s c m then nackAway c m false s else s)
      else if m.at_.all (decide <| · ≤ s.tick) then peerAnswers c m s
      else s) := by
  have hret : m.op ≠ .slotReturn := by simp [hop]
  rw [engineCompletion_eq hc hf, if_neg hret, if_pos hp, acceptedAway, if_pos ⟨hop, hp, haway⟩]

/-- Behind an earlier record it is dropped with it, or waits (R143). -/
theorem engineCompletion_behind (he : earlierMsg s c m = true) :
    exec (.engineCompletion c id) s = .next (if m.behind = false ∧ droppedBefore s c m = true then nackAway c m false s else s) := by
  rw [engineCompletion_away hc hf hp hop haway, if_pos he]
  simp only [Bool.and_eq_true, Bool.not_eq_true']

/-- Before its tick it waits. -/
theorem engineCompletion_early (he : earlierMsg s c m = false) {T : BitVec 64} (hT : m.at_ = some T) (hlt : s.tick < T) : exec (.engineCompletion c id) s = .next s := by
  rw [engineCompletion_away hc hf hp hop haway, he, hT]
  simp [BitVec.not_le.2 hlt]

/-- Then the other package answers. -/
theorem engineCompletion_answered (he : earlierMsg s c m = false) (hT : ∀ T, m.at_ = some T → T ≤ s.tick) : exec (.engineCompletion c id) s = .next (peerAnswers c m s) := by
  have hall : m.at_.all (decide <| · ≤ s.tick) = true := by
    cases h : m.at_ with
    | none => rfl
    | some T => simpa using hT T h
  rw [engineCompletion_away hc hf hp hop haway, he, hall]
  rfl

end

/-! ### Failed requests -/

theorem endToEndRetry_stays (h : m.remote = false ∨ inFlight s c m = false) (ok : Bool) : exec (.endToEndRetry c id ok) s = .next s := by
  have hx : exec (.endToEndRetry c id ok) s = execEndToEndRetry c id ok s := rfl
  rw [hx, execEndToEndRetry, atCore_of hc, hf]
  rcases h with h | h <;> simp [h]

theorem endToEndRetry_eq (hr : m.remote = true) (hi : inFlight s c m = true) (ok : Bool) : exec (.endToEndRetry c id ok) s = .next (
    if ok then correctError (srcEngine c m.unit) 6 (farAddress s c m) (Config.openSyndrome s.fresh) (State.bump (setCmd c id (fun x => { x with retries := 0 }) s))
    else if 3 ≤ m.retries + 1 then failRequest c m { cls := 8, code := 6, addr := destPackage s c m } s
    else setCmd c id (fun x => { x with retries := x.retries + 1 }) s) := by
  have hx : exec (.endToEndRetry c id ok) s = execEndToEndRetry c id ok s := rfl
  rw [hx, execEndToEndRetry, atCore_of hc, hf]
  simp only [hr, hi, Bool.and_self, if_true]

theorem cxlTimeout_eq (hp : m.phase = .started) : exec (.cxlTimeout c id) s = .next (endRequest c (· == 2) 4 m s) := by
  have hx : exec (.cxlTimeout c id) s = execCxlTimeout c id s := rfl
  rw [hx, execCxlTimeout, onStarted, atCore_of hc, hf]
  simp [hp]

end

/-- A negative acknowledgement of the first of the records leaves it to come again after BACKOFF, and those behind it with it (R143, R389). -/
theorem nackAway_spec {c : Nat} {m : Cmd} {s : State} (hr : m.refused < 63) :
    (nackAway c m true (comeAgain c m s.bump)).mem = s.mem ∧ (getCore (nackAway c m true (comeAgain c m s.bump)) c).cmds = (getCore s c).cmds.map fun x =>
      if x.id = m.id then { x with refused := x.refused + 1, behind := false, at_ := some (s.tick + m.backoff.setWidth 64) }
      else if x.op = .msg ∧ x.ctx = m.ctx ∧ bits x.ga.toNat 19 0 = bits m.ga.toNat 19 0 ∧ m.id < x.id then { x with behind := false } else x := by
  have hkept : ∀ x : Context, x.q = (x.flag fNACK true).q ∧ x.h = (x.flag fNACK true).h ∧ x.b = (x.flag fNACK true).b := fun _ => ⟨rfl, rfl, rfl⟩
  have hagain : (comeAgain c m s.bump).mem = s.mem ∧ (comeAgain c m s.bump).tick = s.tick := by
    unfold comeAgain modCore
    dsimp only
    split <;> exact ⟨rfl, rfl⟩
  have hcmds := modOwner_cmds (c := c) (d := c) (m := m) (s := comeAgain c m s.bump) hkept
  have hmem := (modOwner_of_kept (c := c) (m := m) (s := comeAgain c m s.bump) hkept).1
  unfold nackAway
  simp only [show ¬ 64 ≤ m.refused + 1 by omega, if_false]
  refine ⟨(setCmd_kept ..).1.trans (hmem.trans hagain.1), ?_⟩
  rw [cmds_setCmd, hcmds, hagain.2, comeAgain, getCore_modCore_same]
  simp only [List.map_map]
  refine List.map_congr_left fun x _ => ?_
  by_cases hx : x.id = m.id
  · simp [hx]
  · by_cases hl : x.op = .msg ∧ x.ctx = m.ctx ∧ bits x.ga.toNat 19 0 = bits m.ga.toNat 19 0 ∧ m.id < x.id
    · simp [hx, hl]
    · simp [hx, hl, and_assoc]

/-- Settles O47: each step of an engine, by the case of its command. -/
theorem engineSteps : Obligations.EngineSteps := by
  unfold Obligations.EngineSteps
  refine ⟨fun c s hc => ⟨?_, ?_, ?_, fun m => startCmd_cmds, ?_, ?_⟩, fun c id m s hc hf => ⟨?_, ?_, ?_⟩⟩
  · intro k hk
    exact ⟨landOf c k s, atCtx_of hc hk _ _, landOf_spec⟩
  · intro e m hn
    have h1 : exec (.engineCommandStart c e) s = .next (startNext c e false s) := atCore_of hc _ _
    have h2 : exec (.timedCommandStart c e) s = .next (startNext c e true s) := atCore_of hc _ _
    rw [h1, h2, startNext_of_some hn, startNext_of_some hn]
    refine ⟨fun hs => by simp [hs], fun hs => ⟨fun ha => by simp [hs, ha], fun T ha => by simp [hs, ha]⟩⟩
  · intro m hn hop
    have h1 : exec (.pgallocPageTaken c m.id) s = .next (startAlloc c m.id s) := atCore_of hc _ _
    rw [h1, startAlloc, hn]
    exact ⟨fun hs => by simp [hs], fun hs => ⟨by simp [hs, hop], startCmd_pgalloc hop hs⟩⟩
  · intro id m hf hp p hmem hop
    rw [exec_turns hc hf hp hmem hop]
    exact ⟨fun hm hn => by rw [turn_performs hf hp hop hm hn], fun h => by rw [turn_stays hf h]⟩
  · intro id m hf
    refine ⟨fun h => ⟨discardCommand_suspended hc hf h, _, resumeCommand_suspended hc hf h, (setCmd_kept ..).1, (setCmd_kept ..).2, cmds_setCmd ..⟩,
      discardCommand_running hc hf, engineCompletion_return hc hf, fun hp hop haway => ⟨engineCompletion_behind hc hf hp hop haway,
        fun he ⟨T, hT, hlt⟩ => engineCompletion_early hc hf hp hop haway he hT hlt, fun he hT => ⟨_, engineCompletion_answered hc hf hp hop haway he hT, ?_, ?_, ?_⟩⟩⟩
    · intro h
      rw [peerAnswers, h]
      rfl
    · intro h
      rw [peerAnswers, h]
      rfl
    · intro h hr
      rw [peerAnswers, h]
      exact nackAway_spec hr
  · exact fun h => ⟨endToEndRetry_stays hc hf h true, endToEndRetry_stays hc hf h false⟩
  · intro hr hi
    rw [endToEndRetry_eq hc hf hr hi, endToEndRetry_eq hc hf hr hi]
    exact ⟨rfl, fun h => by simp [show ¬ 3 ≤ m.retries + 1 by omega], fun h => by simp [show 3 ≤ m.retries + 1 by omega]⟩
  · intro hp
    rw [cxlTimeout_eq hc hf hp, endRequest]
    exact ⟨fun a ha => by rw [ha], fun ha => by rw [ha]⟩

end Sys2Proof.Machine

/-! ## Tasks, graphs and calls (R103, R121, R124, R125, R127, R128, R216, R382, R383, R387): O54 -/

namespace Sys2Proof.Machine

/-! ### Placement -/

section
variable {s : State}

/-- A place that a record may take: an idle context of a core of the package. -/
def IdlePlace (s : State) (p : Nat × Nat) : Prop := p.1 < 192 ∧ p.2 < 4 ∧ (getCtx s p.1 p.2).life = .idle

theorem freeOn_idle {c prio k : Nat} (h : k ∈ freeOn s c prio) : k < 4 ∧ (getCtx s c k).life = .idle := by
  unfold freeOn at h
  split at h
  · cases h
  · obtain ⟨hk, hi⟩ := List.mem_filter.1 h
    rw [Bool.and_eq_true, beq_iff_eq] at hi
    simp only [List.mem_cons, List.not_mem_nil, or_false] at hk
    exact ⟨by omega, hi.1⟩

/-- What a core offers is an idle context of its own. -/
theorem offer_idle {team : Bool} {prio c : Nat} {p : Nat × Nat} (hc : c < 192) (h : offer s team prio c = some p) : IdlePlace s p := by
  unfold offer at h
  dsimp only at h
  split at h
  · cases h
  · obtain ⟨k, hk, rfl⟩ := Option.map_eq_some_iff.1 h
    obtain ⟨hk4, hi⟩ := freeOn_idle (List.mem_of_mem_head? hk)
    exact ⟨hc, hk4, hi⟩

theorem lt_of_mem_coresOf {cl c : Nat} (hcl : cl < 48) (h : c ∈ coresOf cl) : c < 192 := by
  simp only [coresOf, List.mem_cons, List.not_mem_nil, or_false] at h
  omega

theorem lt_of_mem_clustersOf {d cl : Nat} (hd : d < 4) (h : cl ∈ clustersOf d) : cl < 48 := by
  obtain ⟨i, hi, rfl⟩ := List.mem_map.1 h
  rw [List.mem_range] at hi
  omega

theorem lt_of_mem_diesFrom {home d : Nat} (h : d ∈ diesFrom s home) : d < 4 := by
  obtain ⟨i, -, rfl⟩ := List.mem_map.1 (List.mem_filter.1 h).1
  exact Nat.mod_lt _ (by norm_num)

/-- What a list of partial results holds where each is found. -/
theorem forall_of_mapM_eq_some {α β : Type} {f : α → Option β} {P : β → Prop} : ∀ {l : List α} {r : List β}, (∀ a ∈ l, ∀ b, f a = some b → P b) → l.mapM f = some r → ∀ b ∈ r, P b
  | [], r, _, h => by
    cases h
    simp
  | a :: l, r, hf, h => by
    rw [List.mapM_cons] at h
    obtain ⟨b, hb, h⟩ := Option.bind_eq_some_iff.1 h
    obtain ⟨r', hr', h⟩ := Option.bind_eq_some_iff.1 h
    cases h
    exact List.forall_mem_cons.2 ⟨hf a List.mem_cons_self b hb, forall_of_mapM_eq_some (fun x hx => hf x (List.mem_cons_of_mem _ hx)) hr'⟩

theorem clusterOffer_idle {f prio cl : Nat} {team : Bool} {l : List (Nat × Nat)} (hcl : cl < 48) (h : clusterOffer s f team prio cl = some l) : ∀ p ∈ l, IdlePlace s p := by
  unfold clusterOffer at h
  split at h
  · exact forall_of_mapM_eq_some (fun c hc p hp => offer_idle (lt_of_mem_coresOf hcl hc) hp) h
  · cases h

/-- The whole clusters that a record of many cores takes. -/
def pickClusters (s : State) (r : BitVec 512) (prio : Nat) (ds : List Nat) : Option (List (Nat × Nat)) :=
  let l := (ds.flatMap clustersOf).filterMap (clusterOffer s (lrVf r) (lrTeam r) prio)
  if lrNcore r / 4 ≤ l.length then some (l.take (lrNcore r / 4)).flatten else none

theorem pickClusters_idle {r : BitVec 512} {prio : Nat} {ds : List Nat} {l : List (Nat × Nat)} (hd : ∀ d ∈ ds, d < 4) (h : pickClusters s r prio ds = some l) :
    ∀ p ∈ l, IdlePlace s p := by
  unfold pickClusters at h
  dsimp only at h
  split at h
  · cases h
    intro p hp
    obtain ⟨x, hx, hpx⟩ := List.mem_flatten.1 hp
    obtain ⟨cl, hcl, hoff⟩ := List.mem_filterMap.1 (List.mem_of_mem_take hx)
    obtain ⟨d, hdd, hcd⟩ := List.mem_flatMap.1 hcl
    exact clusterOffer_idle (lt_of_mem_clustersOf (hd d hdd) hcd) hoff p hpx
  · cases h

/-- The core that a record of one core takes. -/
def pickCore (s : State) (r : BitVec 512) (prio cl : Nat) : Option (List (Nat × Nat)) :=
  if clusterOk s cl (lrVf r) then ((coresOf cl).findSome? (offer s (lrTeam r) prio)).map fun p => [p] else none

theorem pickCore_idle {r : BitVec 512} {prio cl : Nat} {l : List (Nat × Nat)} (hcl : cl < 48) (h : pickCore s r prio cl = some l) : (∀ p ∈ l, IdlePlace s p) ∧ l.length = 1 := by
  unfold pickCore at h
  split at h
  · obtain ⟨p, hp, rfl⟩ := Option.map_eq_some_iff.1 h
    obtain ⟨c, hc, hoff⟩ := List.exists_of_findSome?_eq_some hp
    exact ⟨by simpa using offer_idle (lt_of_mem_coresOf hcl hc) hoff, rfl⟩
  · cases h

theorem placement_eq (r : BitVec 512) (prio home : Nat) : placement s r prio home =
    if lrShape r = 0 then (diesFrom s home).findSome? fun d => (clustersOf d).findSome? (pickCore s r prio)
    else if lrTeam r then (diesFrom s home).findSome? fun d => pickClusters s r prio [d] else pickClusters s r prio (diesFrom s home) := rfl

/-- A record goes on idle contexts of cores of the package alone, one for a record of one core (R103, R125). -/
theorem placement_idle {r : BitVec 512} {prio home : Nat} {l : List (Nat × Nat)} (h : placement s r prio home = some l) :
    (∀ p ∈ l, IdlePlace s p) ∧ (lrShape r = 0 → l.length = 1) := by
  rw [placement_eq] at h
  split_ifs at h with hs ht
  · obtain ⟨d, hd, hd'⟩ := List.exists_of_findSome?_eq_some h
    obtain ⟨cl, hcl, hcl'⟩ := List.exists_of_findSome?_eq_some hd'
    obtain ⟨hi, hl⟩ := pickCore_idle (lt_of_mem_clustersOf (lt_of_mem_diesFrom hd) hcl) hcl'
    exact ⟨hi, fun _ => hl⟩
  · obtain ⟨d, hd, hd'⟩ := List.exists_of_findSome?_eq_some h
    exact ⟨pickClusters_idle (by simpa using lt_of_mem_diesFrom hd) hd', fun h0 => absurd h0 hs⟩
  · exact ⟨pickClusters_idle (fun d hd => lt_of_mem_diesFrom hd) h, fun h0 => absurd h0 hs⟩

end

/-! ### Dispatch, completion and abandonment -/

section
variable {s : State}

/-- Without a ready head DISPATCH places nothing. -/
theorem dispatchRun_idle (h : readyHeads s = []) : (dispatchRun s).1.1 = s := by
  rw [dispatchRun, h]
  rfl

section
variable {t : Nat} {x : TaskSt} (ht : taskOf s t = some x)
include ht

theorem taskComplete_eq : exec (.taskComplete t) s = .next (if !x.finished && taskDone s x then finishTask x s else s) := by
  have hx : exec (.taskComplete t) s = execTaskComplete t s := rfl
  rw [hx, execTaskComplete, ht]

/-- The state of an abandoned task's end: its members are stopped, and so are its graphs. -/
def abandoned (t : Nat) (x : TaskSt) (s : State) : State :=
  modHub (fun h => { h with graphs := h.graphs.map fun g => if g.task = t then { g with stopped := true, ready := [] } else g })
    (x.places.foldl (fun s p => stopMember x p s) s)

/-- An abandoned task ends at the tick, whatever its members left (R382, R387). -/
theorem abandonTask_eq (he : x.ended = none) : exec (.abandonTask t) s =
    .next (breakGroup x (modTask t (fun y => { y with ended := some (1, (abandoned t x s).tick) }) (abandoned t x s))) := by
  have hx : exec (.abandonTask t) s = execAbandonTask t s := rfl
  rw [hx, execAbandonTask, ht]
  simp only [he, Option.isSome_none, Bool.false_eq_true, if_false]
  rfl

end

theorem breakGroup_kept (x : TaskSt) : (breakGroup x s).hub.tasks = s.hub.tasks ∧ (breakGroup x s).tick = s.tick := by
  unfold breakGroup
  split <;> exact ⟨rfl, rfl⟩

theorem mem_bgBroken_breakGroup {x : TaskSt} (h : lrGroup x.lr ≠ 0) : x.func * 64 + lrGroup x.lr ∈ (breakGroup x s).hub.bgBroken := by
  rw [breakGroup, if_neg h]
  exact List.mem_cons_self

/-- A task changed is the one that the change makes. -/
theorem of_mem_modTask {t : Nat} {f : TaskSt → TaskSt} {y : TaskSt} {P : TaskSt → Prop} (hf : ∀ x, P (f x)) (hy : y ∈ (modTask t f s).hub.tasks) (hid : y.id = t) : P y := by
  obtain ⟨x, -, rfl⟩ := List.mem_map.1 hy
  by_cases hx : x.id = t
  · rw [if_pos hx]
    exact hf x
  · rw [if_neg hx] at hid
    exact absurd hid hx

/-! ### Calls -/

/-- SVC_REPLY: the reply goes into the ring's next slot, and then PROD advances (R216). -/
theorem svcReply_eq {die : Nat} {reply : BitVec 512} {x : Call} (h : nextCall s die [] s.hub.calls = some x) : exec (.svcReply die reply) s = .next
    (modTaskCtx x.core x.ctxId x.task (fun y => y.setQ x.ring (qAdvProd (y.Q x.ring) 1)) (modHub (fun h => { h with calls := h.calls.erase x })
      (onStore x.core (taskCtx s x.core x.ctxId x.task).func.toNat
        (localOut x.core (qWin (callRing s x)) (qSlot (callRing s x) (qProd (callRing s x))) (leBytes reply.toNat 64)) s))) := by
  have hx : exec (.svcReply die reply) s = execSvcReply die reply s := rfl
  rw [hx, execSvcReply, h]

/-! ### Task graphs -/

section
variable {g n h : Nat} {x : Graph} (hg : graphOf s g = some x) (hn : n ∈ x.ready) (hh : nodeHeader s x n = some h)

theorem graphOf_id (hg : graphOf s g = some x) : x.id = g := by
  simpa using List.find?_some hg

include hg hn hh

/-- A ready node of its kind acts on the state in which it is no longer ready. -/
theorem nodeActs_acts {kind : Nat} {act : Graph → Nat → State → State} (h5 : ¬ 5 ≤ ndKind h) (hk : ndKind h = kind) :
    nodeActs g n kind act s = .next (act x h (modGraph g (fun y => { y with ready := y.ready.erase n }) s)) := by
  subst hk
  rw [nodeActs, hg]
  simp only [List.contains_iff_mem.2 hn, hh, h5, Bool.not_true, Bool.false_eq_true, if_true, if_false]

/-- One of KIND 5 to 7 stops the graph, whatever the step (R383). -/
theorem nodeActs_stops {kind : Nat} {act : Graph → Nat → State → State} (h5 : 5 ≤ ndKind h) : nodeActs g n kind act s = .next (stopGraph x s) := by
  rw [nodeActs, hg]
  simp only [List.contains_iff_mem.2 hn, hh, h5, Bool.not_true, Bool.false_eq_true, if_true, if_false]

end

theorem sameDev_modGraph (g : Nat) (f : Graph → Graph) : SameDev s (modGraph g f s) := ⟨rfl, rfl, rfl, rfl, rfl, rfl⟩

section
variable {g n h : Nat} {x : Graph} (hg : graphOf s g = some x) (hn : n ∈ x.ready) (hh : nodeHeader s x n = some h)
include hg hn hh

/-- A launch node sends its record to the graph's queue and lives (R128). -/
theorem graphLaunchNode_sends (hk : ndKind h = 0) {r : Nat} (hr : vread s x.func (x.array.toNat + 128 * n + 64) 64 = some r) :
    exec (.graphLaunchNode g n) s = .next (modGraph g (fun y => { y with live := n :: y.live })
      (modHub (fun h => { h with inbox := h.inbox ++ [{ sender := .graph g, queue := x.queue, lr := .ofNat 512 r, graph := some (g, n) }] })
        (modGraph g (fun y => { y with ready := y.ready.erase n }) s))) := by
  have hx : exec (.graphLaunchNode g n) s = execGraphLaunchNode g n s := rfl
  have hru := ((sameDev_modGraph g (fun y => { y with ready := y.ready.erase n })).vread rfl ..).trans hr
  rw [hx, execGraphLaunchNode, nodeActs_acts hg hn hh (by omega) hk, hru]

/-- A join node counts the arrivals in its own header, and passes control on with the last (R128). -/
theorem graphJoinNode_counts (hk : ndKind h = 4) {a : Nat} {w : Bool} (hp : vphys s x.func (x.array.toNat + 128 * n + 48) = some (a, w)) :
    exec (.graphJoinNode g n) s = .next (
      let u := modGraph g (fun y => { y with ready := y.ready.erase n }) s
      let k := (bits h 399 384 + 1) % 65536
      if k = bits h 23 8 then readyAll g [ndSucc h 0] (devPut u a 0 2) else devPut u a k 2) := by
  have hx : exec (.graphJoinNode g n) s = execGraphJoinNode g n s := rfl
  have hpu := ((sameDev_modGraph g (fun y => { y with ready := y.ready.erase n })).vphys rfl ..).trans hp
  rw [hx, execGraphJoinNode, nodeActs_acts hg hn hh (by omega) hk, hpu]

end

/-- A node that chooses makes the successor ready that its condition word names (R128). -/
theorem chooseNode_eq {pick : Nat → Nat → Option Nat} {x : Graph} {h v : Nat} (hv : ndCond s x h = some v) : chooseNode pick x h s = readyAll x.id [pick h v] s := by
  rw [chooseNode, hv]

end

/-- Settles O54: placement searches idle contexts, and each other step is its one case. -/
theorem tasksGraphsAndCalls : Obligations.TasksGraphsAndCalls := by
  unfold Obligations.TasksGraphsAndCalls
  refine ⟨fun s => ⟨rfl, fun h => ?_, fun r prio home l h => placement_idle h, fun t x ht => ⟨fun hf hd => ?_, fun h => ?_, fun he => ?_⟩, fun die reply x h => svcReply_eq h⟩,
    fun g n h x s hg hn hh => ?_⟩
  · have hx : exec .dispatch s = .next (dispatchRun s).1.1 := rfl
    rw [hx, dispatchRun_idle h]
  · rw [taskComplete_eq ht, hf, hd]
    rfl
  · rw [taskComplete_eq ht]
    rcases h with h | h <;> simp [h]
  · refine ⟨_, abandonTask_eq ht he, fun y hy hid => ?_, mem_bgBroken_breakGroup⟩
    obtain ⟨htasks, htick⟩ := breakGroup_kept (s := modTask t (fun y => { y with ended := some (1, (abandoned t x s).tick) }) (abandoned t x s)) x
    rw [htasks] at hy
    rw [htick]
    exact of_mem_modTask (P := fun y => y.ended = some (1, (abandoned t x s).tick)) (fun _ => rfl) hy hid
  · intro u picks
    have hu : SameDev s u := sameDev_modGraph ..
    have hid := graphOf_id hg
    have hpick (kind : Nat) (pick : Nat → Nat → Option Nat) (h5 : ¬ 5 ≤ ndKind h) (hk : ndKind h = kind) (v : Nat) (hv : ndCond s x h = some v) :
        nodeActs g n kind (chooseNode pick) s = .next (readyAll g [pick h v] u) := by
      rw [nodeActs_acts hg hn hh h5 hk, chooseNode_eq ((hu.vread rfl ..).trans hv), hid]
    refine ⟨fun h5 i hi => ?_, fun hk r hr => ?_, fun hk v hv => ?_, fun hk v hv => ?_, fun hk => hpick 3 _ (by omega) hk, fun hk a w hp => ?_⟩
    · simp only [List.mem_cons, List.not_mem_nil, or_false] at hi
      rcases hi with rfl | rfl | rfl | rfl | rfl
      · have hx : exec (.graphLaunchNode g n) s = execGraphLaunchNode g n s := rfl
        rw [hx, execGraphLaunchNode, nodeActs_stops hg hn hh h5]
      · exact nodeActs_stops hg hn hh h5
      · exact nodeActs_stops hg hn hh h5
      · exact nodeActs_stops hg hn hh h5
      · have hx : exec (.graphJoinNode g n) s = execGraphJoinNode g n s := rfl
        rw [hx, execGraphJoinNode, nodeActs_stops hg hn hh h5]
    · exact graphLaunchNode_sends hg hn hh hk hr
    · exact (hpick 1 _ (by omega) hk v hv).trans (by rw [ite_not])
    · exact (hpick 2 _ (by omega) hk v hv).trans (by rw [ite_not])
    · exact graphJoinNode_counts hg hn hh hk hp

end Sys2Proof.Machine

/-! ## Functions, queues and management writes (R86, R110, R123, R315, R317, R318, R324, R336, R373, R390): O59 -/

namespace Sys2Proof.Machine

open Sys2Proof.Laws (getCore_modCore_same getCtx_modCtx_same tget_tput_same tget_tput_other)

/-! ### Fields of a block -/

section
variable {x m : Nat} {hi lo : Nat}

theorem bits_and (x m hi lo : Nat) : bits (x &&& m) hi lo = bits x hi lo &&& bits m hi lo := by
  simp only [bits, Nat.shiftRight_and_distrib, Nat.and_mod_two_pow]

/-- A mask whose field is all ones keeps the field. -/
theorem bits_and_ones (h : bits m hi lo = 2 ^ (hi + 1 - lo) - 1) : bits (x &&& m) hi lo = bits x hi lo := by
  rw [bits_and, h, Nat.and_two_pow_sub_one_eq_mod, Nat.mod_eq_of_lt (bits_lt ..)]

/-- One whose field is zero clears it. -/
theorem bits_and_zero (h : bits m hi lo = 0) : bits (x &&& m) hi lo = 0 := by rw [bits_and, h, Nat.and_zero]

/-- Bit 0 as a field. -/
theorem bits_zero_eq_one {w : Nat} {b : BitVec w} (h : b.getLsbD 0 = true) : bits b.toNat 0 0 = 1 := (bits_one_iff ..).2 h

end

/-- A value but the default is what a table then holds at its key, in canonical form or not. -/
theorem tget_tset_of_ne {α : Type} [DecidableEq α] {d v : α} (hv : v ≠ d) (k : Nat) : ∀ t : Tab α, tget d (tset d t k v) k = v
  | [] => by simp [tset, tget, hv]
  | (j, w) :: t => by
    unfold tset
    split_ifs with h1 h2
    · simp [tget]
    · simp [tget]
    · simp only [tget, if_neg h1, if_neg h2]
      exact tget_tset_of_ne hv k t

section
variable {f : Nat} {s : State}

/-- A block that is not zero stands as it was written. -/
theorem fblk_setBlock {b : BitVec 1024} (hb : b ≠ 0) (hi lo : Nat) : fblk (setBlock f b s) f hi lo = bits b.toNat hi lo :=
  congrArg (fun x : BitVec 1024 => bits x.toNat hi lo) (tget_tset_of_ne hb f s.hub.funcs)

/-- A block with EN is not zero. -/
theorem ne_zero_of_en {b : BitVec 1024} (h : bits b.toNat 0 0 = 1) : b ≠ 0 := by
  rintro rfl
  simp [bits] at h

/-! ### Steps of bring-up -/

theorem completeStep_acts {n : Nat} {act : State → State} (h : ∀ cause, s.hub.bringFail ≠ some (n, cause)) :
    completeStep n act s = modHub (fun h => { h with bringUp := max h.bringUp n }) (act s) := by
  rcases Laws.completeStep_cases n act s with ⟨c, hc, -⟩ | h'
  · exact absurd hc (h c)
  · exact h'

theorem completeStep_fails {n c : Nat} {act : State → State} (h : s.hub.bringFail = some (n, c)) :
    completeStep n act s = { s with hub := { s.hub with status := .ofNat 64 (n + c % 256 * 256), bringFail := none } } := by
  rw [completeStep, h]
  simp only [if_true, place_eq_mul, Nat.reducePow]
  rfl

/-! ### Enabling and updating a function -/

section
variable (hf : f ≤ 16)
include hf

theorem atFunc_of (g : State → State) : atFunc f g s = .next (g s) := if_pos hf

variable {blk : BitVec 1024}

/-- The block that enabling writes: its fields, the reserved bits zero. -/
def enabledBlock (blk : BitVec 1024) : BitVec 1024 := .ofNat 1024 (blk.toNat &&& blockMask)

omit hf in
theorem toNat_enabledBlock (blk : BitVec 1024) : (enabledBlock blk).toNat = blk.toNat &&& blockMask := by
  rw [enabledBlock, BitVec.toNat_ofNat, Nat.mod_eq_of_lt (lt_of_le_of_lt Nat.and_le_left blk.isLt)]

theorem functionEnable_takes (hb : broughtTo s 6 = true) (he : fEnabled s f = false) (hen : blk.getLsbD 0 = true) (hsc : bits blk.toNat 2 1 ≠ 3) :
    exec (.functionEnable f blk) s = .next (completeStep 7 (setBlock f (enabledBlock blk)) s) := by
  have hx : exec (.functionEnable f blk) s = execFunctionEnable f blk s := rfl
  rw [hx, execFunctionEnable, atFunc_of hf]
  simp [hb, he, blkEn, hen, hsc, enabledBlock]

theorem functionEnable_early (hb : broughtTo s 6 = false) : exec (.functionEnable f blk) s = .next s := by
  have hx : exec (.functionEnable f blk) s = execFunctionEnable f blk s := rfl
  rw [hx, execFunctionEnable, atFunc_of hf]
  simp [hb]

/-- Enabling a function writes its block (R317). -/
theorem functionEnable_spec (hb : broughtTo s 6 = true) (he : fEnabled s f = false) (hen : blk.getLsbD 0 = true) (hsc : bits blk.toNat 2 1 ≠ 3)
    (hfail : ∀ cause, s.hub.bringFail ≠ some (7, cause)) : ∃ t, exec (.functionEnable f blk) s = .next t
      ∧ fEnabled t f = true ∧ fSclim t f = bits blk.toNat 2 1 ∧ fFpol t f = blk.getLsbD 3 ∧ fQuota t f = bits blk.toNat 47 16 ∧ fblk t f 15 8 = bits blk.toNat 15 8
      ∧ fblk t f 7 4 = 0 ∧ t.hub.bringUp = max s.hub.bringUp 7 ∧ t.mem = s.mem ∧ t.ctx = s.ctx := by
  let t := modHub (fun h => { h with bringUp := max h.bringUp 7 }) (setBlock f (enabledBlock blk) s)
  have h0 : bits (enabledBlock blk).toNat 0 0 = 1 := by
    rw [toNat_enabledBlock, bits_and_ones (by decide +kernel), bits_zero_eq_one hen]
  have hblk (hi lo : Nat) : fblk t f hi lo = bits (blk.toNat &&& blockMask) hi lo := by
    rw [← toNat_enabledBlock]
    exact fblk_setBlock (ne_zero_of_en h0) hi lo
  have hkeep (hi lo : Nat) (h : bits blockMask hi lo = 2 ^ (hi + 1 - lo) - 1) : fblk t f hi lo = bits blk.toNat hi lo := (hblk hi lo).trans (bits_and_ones h)
  refine ⟨t, ?_, ?_, hkeep 2 1 (by decide +kernel), ?_, hkeep 47 16 (by decide +kernel), hkeep 15 8 (by decide +kernel), (hblk 7 4).trans (bits_and_zero (by decide +kernel)), rfl, rfl, rfl⟩
  · rw [functionEnable_takes hf hb he hen hsc, completeStep_acts hfail]
  · rw [fEnabled, hkeep 0 0 (by decide +kernel), bits_zero_eq_one hen]
    rfl
  · rw [fFpol, hkeep 3 3 (by decide +kernel), Bool.eq_iff_iff, beq_iff_eq, bits_one_iff]
    rfl

/-- The block that an update writes. -/
def updatedBlock (old new : Nat) : Nat := bits old 7 0 + place (bits new 15 8) 8 8 + place (bits new 47 16) 16 32 + (old >>> 48) <<< 48

omit hf in
theorem fields_of_sum {a b c d : Nat} (ha : a < 256) (hb : b < 256) (hc : c < 4294967296) : (a + b * 256 + c * 65536 + d * 281474976710656) / 256 % 256 = b
    ∧ (a + b * 256 + c * 65536 + d * 281474976710656) / 65536 % 4294967296 = c ∧ (a + b * 256 + c * 65536 + d * 281474976710656) % 256 = a
    ∧ (a + b * 256 + c * 65536 + d * 281474976710656) / 281474976710656 = d := by omega

omit hf in
theorem updatedBlock_eq (old new : Nat) :
    updatedBlock old new = bits old 7 0 + bits new 15 8 * 256 + bits new 47 16 * 65536 + old / 281474976710656 * 281474976710656 := by
  have hb : bits new 15 8 < 2 ^ 8 := bits_lt ..
  have hc : bits new 47 16 < 2 ^ 32 := bits_lt ..
  unfold updatedBlock
  simp only [place_of_lt _ hb, place_of_lt _ hc, Nat.shiftLeft_eq, Nat.shiftRight_eq_div_pow, Nat.reducePow]

omit hf in
/-- Each of its fields. -/
theorem bits_updatedBlock (old new : Nat) : bits (updatedBlock old new) 15 8 = bits new 15 8 ∧ bits (updatedBlock old new) 47 16 = bits new 47 16
    ∧ bits (updatedBlock old new) 7 0 = bits old 7 0 ∧ ∀ hi lo, 48 ≤ lo → bits (updatedBlock old new) hi lo = bits old hi lo := by
  obtain ⟨h15, h47, h7, h48⟩ := fields_of_sum (d := old / 281474976710656) (bits_lt old 7 0) (bits_lt new 15 8) (bits_lt new 47 16)
  rw [← updatedBlock_eq] at h15 h47 h7 h48
  refine ⟨(bits_eq_div_mod ..).trans h15, (bits_eq_div_mod ..).trans h47, (bits_eq_div_mod ..).trans ?_, fun hi lo hlo => ?_⟩
  · rw [pow_zero, Nat.div_one]
    exact h7
  · obtain ⟨k, rfl⟩ := Nat.exists_eq_add_of_le hlo
    rw [bits_eq_div_mod, bits_eq_div_mod, pow_add, ← Nat.div_div_eq_div_mul, ← Nat.div_div_eq_div_mul, show 2 ^ 48 = 281474976710656 from rfl, h48]

omit hf in
/-- Numbers with the same quotient lie below the same multiples. -/
theorem lt_mul_of_div_eq {a b k n : Nat} (hn : 0 < n) (h : a / n = b / n) (hb : b < k * n) : a < k * n := by
  rw [← Nat.div_lt_iff_lt_mul hn] at hb ⊢
  rwa [h]

omit hf in
theorem updatedBlock_lt {old : Nat} (new : Nat) (h : old < 2 ^ 1024) : updatedBlock old new < 2 ^ 1024 := by
  obtain ⟨-, -, -, h48⟩ := fields_of_sum (d := old / 281474976710656) (bits_lt old 7 0) (bits_lt new 15 8) (bits_lt new 47 16)
  rw [← updatedBlock_eq] at h48
  rw [pow_add 2 976 48] at h ⊢
  exact lt_mul_of_div_eq (by norm_num) (by simpa only [Nat.reducePow] using h48) h

/-- Updating an enabled function changes WEIGHT and QUOTA alone (R317). -/
theorem functionUpdate_spec (he : fEnabled s f = true) (hen : blk.getLsbD 0 = true) : ∃ t, exec (.functionUpdate f blk) s = .next t
    ∧ fblk t f 15 8 = bits blk.toNat 15 8 ∧ fQuota t f = bits blk.toNat 47 16 ∧ fblk t f 7 0 = fblk s f 7 0
    ∧ ∀ hi lo, 48 ≤ lo → hi < 1024 → fblk t f hi lo = fblk s f hi lo := by
  let old := (tget 0 s.hub.funcs f).toNat
  let b : BitVec 1024 := .ofNat 1024 (updatedBlock old blk.toNat)
  obtain ⟨h15, h47, h7, h48⟩ := bits_updatedBlock old blk.toNat
  have hb : b.toNat = updatedBlock old blk.toNat := by
    rw [BitVec.toNat_ofNat, Nat.mod_eq_of_lt (updatedBlock_lt _ (BitVec.isLt _))]
  have h0 : bits b.toNat 0 0 = 1 := by
    have hold : bits old 0 0 = 1 := beq_iff_eq.1 he
    have h := congrArg (· % 2) h7
    simp only [bits_eq_div_mod] at h hold ⊢
    rw [hb]
    omega
  have hblk (hi lo : Nat) : fblk (setBlock f b s) f hi lo = bits (updatedBlock old blk.toNat) hi lo := hb ▸ fblk_setBlock (ne_zero_of_en h0) hi lo
  refine ⟨setBlock f b s, ?_, (hblk _ _).trans h15, (hblk _ _).trans h47, (hblk _ _).trans h7, fun hi lo hlo _ => (hblk hi lo).trans (h48 hi lo hlo)⟩
  have hx : exec (.functionUpdate f blk) s = execFunctionUpdate f blk s := rfl
  rw [hx, execFunctionUpdate, atFunc_of hf]
  simp only [he, blkEn, hen, Bool.and_self, if_true]
  rfl

end

end

/-! ### Queues, remote rings and registers -/

section
variable {q : Nat} {w : BitVec 64} {s : State} (hq : q < 256)
include hq

theorem queueConfigWrite_eq : exec (.queueConfigWrite q w) s = .next (
    if broughtTo s 7 then
      (if w.getLsbD 0 then completeStep 8 (modQueue q fun x => { x with conf := w.setWidth 32 &&& 0x3FF }) s
        else modQueue q (fun x => { x with conf := w.setWidth 32 &&& 0x3FF }) s)
    else if broughtTo s 6 then modQueue q (fun x => { x with conf := w.setWidth 32 &&& 0x3FE }) s
    else s) := if_pos hq

omit hq in
/-- What is complete to a step is complete to those before. -/
theorem broughtTo_of_le {m n : Nat} (hmn : m ≤ n) (h : broughtTo s n = true) : broughtTo s m = true := by
  simp only [broughtTo, Bool.and_eq_true, decide_eq_true_eq] at h ⊢
  exact ⟨h.1, hmn.trans h.2⟩

/-- Before step 6 the queue stays as it is (R324). -/
theorem queueConfigWrite_early (hb : broughtTo s 6 = false) : exec (.queueConfigWrite q w) s = .next s := by
  have h7 : broughtTo s 7 = false := Bool.eq_false_iff.2 fun h => Bool.false_ne_true (hb.symm.trans (broughtTo_of_le (by norm_num) h))
  rw [queueConfigWrite_eq hq, h7, hb]
  rfl

theorem queueConfigWrite_fails {cause : Nat} (h7 : broughtTo s 7 = true) (hw : w.getLsbD 0 = true) (hfail : s.hub.bringFail = some (8, cause)) :
    exec (.queueConfigWrite q w) s = .next { s with hub := { s.hub with status := .ofNat 64 (8 + cause % 256 * 256), bringFail := none } } := by
  rw [queueConfigWrite_eq hq, h7, hw, ← completeStep_fails hfail]
  rfl

/-- A queue's configuration is the word with its reserved bits, and before step 7 its EN, read as 0; its records and the other queues stay (R123, R324). -/
theorem queueConfigWrite_spec (h6 : broughtTo s 6 = true) (hfail : w.getLsbD 0 = false ∨ broughtTo s 7 = false ∨ ∀ cause, s.hub.bringFail ≠ some (8, cause)) :
    ∃ t, exec (.queueConfigWrite q w) s = .next t ∧ (queueOf t q).conf = w.setWidth 32 &&& (if broughtTo s 7 then 0x3FF else 0x3FE)
      ∧ (queueOf t q).recs = (queueOf s q).recs ∧ (queueOf t q).seq = (queueOf s q).seq ∧ ∀ r, r ≠ q → queueOf t r = queueOf s r := by
  have hset (conf : BitVec 32) (u : State) (hu : u.hub.queues = (modQueue q (fun x => { x with conf := conf }) s).hub.queues) :
      (queueOf u q).conf = conf ∧ (queueOf u q).recs = (queueOf s q).recs ∧ (queueOf u q).seq = (queueOf s q).seq ∧ ∀ r, r ≠ q → queueOf u r = queueOf s r := by
    have hqu : queueOf u q = { queueOf s q with conf := conf } := by
      rw [queueOf, hu]
      exact queueOf_modQueue _
    exact ⟨by rw [hqu], by rw [hqu], by rw [hqu], fun r hr => by rw [queueOf, hu]; exact tget_tput_other _ _ _ _ hr _⟩
  rw [queueConfigWrite_eq hq]
  cases h7 : broughtTo s 7 with
  | false =>
    simp only [h6, if_true, Bool.false_eq_true, if_false]
    exact ⟨_, rfl, hset _ _ rfl⟩
  | true =>
    simp only [if_true]
    cases hw : w.getLsbD 0 with
    | false => exact ⟨_, rfl, hset _ _ rfl⟩
    | true =>
      have hf := (hfail.resolve_left (by simp [hw])).resolve_left (by simp [h7])
      simp only [if_true, completeStep_acts hf]
      exact ⟨_, rfl, hset _ _ rfl⟩

end

section
variable {s : State}

/-- An entry of the function's table is written where it stands (R318). -/
theorem remoteRingEntryWrite_eq {f i a : Nat} {v : Bool} {e : BitVec 128} (hf : f ≤ 16) (hi : i < fblk s f 528 512)
    (hp : vphys s f (fblk s f 511 448 + 16 * i) = some (a, v)) : exec (.remoteRingEntryWrite f i e) s = .next (devPut s a (e.toNat &&& 0x1FFFFF0FFF0003) 16) := by
  have hx : exec (.remoteRingEntryWrite f i e) s = execRemoteRingEntryWrite f i e s := rfl
  rw [hx, execRemoteRingEntryWrite, atFunc_of hf, if_pos hi, hp]

theorem manage_range_early (hb : broughtTo s 3 = false) (i : Nat) (r : BitVec 256) : manage (.range i r) s = s := by
  show writeRange i r s = s
  simp [writeRange, hb]

theorem manage_startSup_early (hb : broughtTo s 2 = false) (c k f : Nat) (pc : BitVec 64) : manage (.startSup c k f pc) s = s := by
  show startSup c k f pc s = s
  simp [startSup, hb]

theorem manage_package_fails {cause : Nat} (n : BitVec 12) (h5 : broughtTo s 5 = true) (h6 : s.hub.bringUp < 6) (hfail : s.hub.bringFail = some (6, cause)) :
    exec (.managementWrite (.package n)) s = .next { s with hub := { s.hub with status := .ofNat 64 (6 + cause % 256 * 256), bringFail := none } } := by
  have hx : exec (.managementWrite (.package n)) s = .next (assignPackage n s) := rfl
  rw [hx, assignPackage, if_pos ⟨h5, h6⟩, completeStep_fails hfail]

/-- A register of a core that the supervisor writes. -/
theorem getCore_manageCore {c : Nat} (hc : isCore c = true) (g : Core → Core) : getCore (manageCore c g s) c = g (getCore s c) := by
  rw [manageCore, if_pos hc, getCore_modCore_same]

/-- A register of a context that the supervisor writes. -/
theorem getCtx_manageCtx {c k : Nat} (hc : isCore c = true) (hk : k < 4) (g : Context → Context) : getCtx (manageCtx c k g s) c k = g (getCtx s c k) := by
  rw [manageCtx, if_pos (by simp [hc, hk]), getCtx_modCtx_same]

/-! ### Bytes of physical memory -/

/-- A store of cells leaves every other byte, whatever the device does with the cells. -/
theorem devByte_devWrite_outside (hw : s.mem.wf = true) {a x : Nat} {bs : List Byte} (hx : x < a ∨ a + bs.length ≤ x) : devByte (devWrite s a bs) x = devByte s x := by
  have hm := (Laws.clearWhole_mem a bs.length s).1
  rw [devWrite, Laws.devByte_devStore_other _ _ (by rw [hm]; exact hw) fun p hp hpx => ?_, devByte_clearWhole]
  obtain ⟨i, hi, hb⟩ := mem_cellsOf.1 hp
  have := (List.getElem?_eq_some_iff.1 hb).1
  omega

/-- So does one line by line. -/
theorem devByte_devPieces_outside {x : Nat} : ∀ {l : List (Nat × Nat)} {a n : Nat}, Tiles l a n → ∀ {bs : List Byte} {s : State}, bs.length = n → s.mem.wf = true →
    x < a ∨ a + n ≤ x → devByte (devPieces l bs s) x = devByte s x := by
  intro l a n hl
  induction hl with
  | nil a => intros; rfl
  | @cons a k n l hk hl ih =>
    intro bs s hn hw hx
    have hlen : (bs.take k).length = k := by rw [List.length_take]; omega
    have hstep : ∀ u : State, u = s ∨ u = devWrite s a (bs.take k) → u.mem.wf = true ∧ devByte u x = devByte s x := by
      rintro u (rfl | rfl)
      · exact ⟨hw, rfl⟩
      · exact ⟨Laws.wf_devWrite _ _ hw, devByte_devWrite_outside hw (by rw [hlen]; omega)⟩
    obtain ⟨hw', hb⟩ := hstep (if k = 64 ∨ (lineBad s a).isNone then devWrite s a (bs.take k) else s) (by split <;> simp)
    rw [devPieces, ih (by rw [List.length_drop]; omega) hw' (by omega), hb]

/-- A write to flash leaves its bytes (R86; log entry 74). -/
theorem mem_devStore_flash : ∀ {l : List (Nat × Byte)} {s : State}, (∀ p ∈ l, lineTier s p.1 = 1) → (devStore s l).mem = s.mem
  | [], _, _ => rfl
  | p :: l, s, h => by
    obtain ⟨hp, hl⟩ := List.forall_mem_cons.1 h
    have hs : devByteWrite s p.1 p.2 = s := if_pos hp
    show (devStore (devByteWrite s p.1 p.2) l).mem = s.mem
    rw [hs]
    exact mem_devStore_flash hl

theorem mem_devPieces_flash : ∀ {l : List (Nat × Nat)} {a n : Nat}, Tiles l a n → ∀ {bs : List Byte} {s : State}, bs.length = n →
    (∀ i, i < n → lineTier s (a + i) = 1) → (devPieces l bs s).mem = s.mem := by
  intro l a n hl
  induction hl with
  | nil a => intros; rfl
  | @cons a k n l hk hl ih =>
    intro bs s hn ht
    have hd := devKept_devWrite s a (bs.take k)
    have hm : (devWrite s a (bs.take k)).mem = s.mem := by
      refine (mem_devStore_flash fun p hp => ?_).trans (Laws.clearWhole_mem ..).1
      obtain ⟨i, hi, hb⟩ := mem_cellsOf.1 hp
      have hik := (List.getElem?_eq_some_iff.1 hb).1
      rw [List.length_take] at hik
      rw [(devKept_clearWhole ..).lineTier, ← hi]
      exact ht i (by omega)
    have hstep : ∀ u : State, u = s ∨ u = devWrite s a (bs.take k) → u.mem = s.mem ∧ ∀ y, lineTier u y = lineTier s y := by
      rintro u (rfl | rfl)
      · exact ⟨rfl, fun _ => rfl⟩
      · exact ⟨hm, hd.lineTier⟩
    obtain ⟨hmem, htier⟩ := hstep (if k = 64 ∨ (lineBad s a).isNone then devWrite s a (bs.take k) else s) (by split <;> simp)
    rw [devPieces, ih (by rw [List.length_drop]; omega) (fun i hi => ?_), hmem]
    rw [htier, Nat.add_assoc]
    exact ht (k + i) (by omega)

/-- A management write of bytes (R315). -/
theorem manage_mem_spec (pa : Nat) (bs : List Byte) (hw : s.mem.wf = true) :
    ((∀ i, i < bs.length → keepsByte s (pa + i) = true ∧ lineBad s (pa + i) = none) → devRead (manage (.mem pa bs) s) pa bs.length = bs)
    ∧ ((∀ i, i < bs.length → lineTier s (pa + i) = 1) → (manage (.mem pa bs) s).mem = s.mem)
    ∧ ∀ x, x < pa ∨ pa + bs.length ≤ x → devByte (manage (.mem pa bs) s) x = devByte s x := by
  have hx : manage (.mem pa bs) s = devMerge pa bs s := rfl
  have htiles := tiles_lineChunks (u := 64) (by decide) pa bs.length
  rw [hx]
  refine ⟨fun h => ?_, fun h => mem_devPieces_flash htiles rfl h, fun x hx => devByte_devPieces_outside htiles rfl hw hx⟩
  have hst := stored_devMerge hw h
  exact List.ext_getElem (by simp [devRead]) fun i hi _ => by simpa [devRead] using hst.inside i (by simpa [devRead] using hi)

/-! ### Copying a page -/

theorem lt_of_mem_twfFrom {α : Type} [DecidableEq α] {d : α} {p : Nat × α} : ∀ {t : Tab α} {j : Nat}, twfFrom d (some j) t = true → p ∈ t → j < p.1
  | (i, w) :: t, j, h, hp => by
    obtain ⟨hj, -, ht⟩ := Laws.twfFrom_cons.1 h
    have hji : j < i := hj j rfl
    rcases List.mem_cons.1 hp with rfl | hp
    · exact hji
    · exact hji.trans (lt_of_mem_twfFrom ht hp)

/-- An entry of a table in canonical form is what its key reads. -/
theorem tget_of_mem {α : Type} [DecidableEq α] {d v : α} {k : Nat} : ∀ {t : Tab α} {b : Option Nat}, twfFrom d b t = true → (k, v) ∈ t → tget d t k = v
  | (j, w) :: t, b, h, hm => by
    obtain ⟨-, -, ht⟩ := Laws.twfFrom_cons.1 h
    rcases List.mem_cons.1 hm with he | hm
    · cases he
      simp [tget]
    · have hlt : j < k := lt_of_mem_twfFrom ht hm
      rw [tget, if_neg (by omega), if_neg (by omega)]
      exact tget_of_mem ht hm

/-- A key without an entry reads the default. -/
theorem tget_of_forall_ne {α : Type} {d : α} {k : Nat} : ∀ {t : Tab α}, (∀ p ∈ t, p.1 ≠ k) → tget d t k = d
  | [], _ => rfl
  | (j, w) :: t, h => by
    obtain ⟨hj, ht⟩ := List.forall_mem_cons.1 h
    unfold tget
    rw [if_neg hj.symm, tget_of_forall_ne ht, ite_self]

/-- Bytes of one page stored in another, by their places in it, onto a table that is zero there: each place of the page reads as in the first. -/
theorem byte_store_page {m z : Memory} {a b i : Nat} (hm : m.wf = true) (hz : z.wf = true) (hi : i < 65536) (h0 : z.byte (b * 65536 + i) = 0) :
    (z.store ((m.filter fun p => p.1 / 65536 == a).map fun p => (b * 65536 + p.1 % 65536, p.2))).byte (b * 65536 + i) = m.byte (a * 65536 + i) := by
  have hcell : ∀ p ∈ (m.filter fun p => p.1 / 65536 == a).map (fun p => (b * 65536 + p.1 % 65536, p.2)), p.1 = b * 65536 + i → (a * 65536 + i, p.2) ∈ m := by
    intro p hp hk
    obtain ⟨x, hx, rfl⟩ := List.mem_map.1 hp
    obtain ⟨hxm, hxa⟩ := List.mem_filter.1 hx
    have hxa : x.1 / 65536 = a := by simpa using hxa
    dsimp only at hk ⊢
    have hxk : x.1 = a * 65536 + i := by omega
    rwa [← hxk]
  by_cases h : ∃ v, (a * 65536 + i, v) ∈ m
  · obtain ⟨v, hv⟩ := h
    have hread : m.byte (a * 65536 + i) = v := tget_of_mem hm hv
    refine (tget_tsetMany_of_mem hz (v := v) ?_ fun p hp hk => ?_).trans hread.symm
    · refine List.mem_map.2 ⟨(a * 65536 + i, v), List.mem_filter.2 ⟨hv, ?_⟩, ?_⟩
      · simp [show (a * 65536 + i) / 65536 = a by omega]
      · simp [show (a * 65536 + i) % 65536 = i by omega]
    · exact (tget_of_mem hm (hcell p hp hk)).symm.trans hread
  · have hread : m.byte (a * 65536 + i) = 0 := tget_of_forall_ne fun p hp hk => h ⟨p.2, hk ▸ hp⟩
    refine ((tget_tsetMany_of_ne hz fun p hp hk => ?_).trans h0).trans hread.symm
    exact h ⟨p.2, hcell p hp hk⟩

section
variable {a b : Nat}

/-- A line with an error is one of its page's bad lines. -/
theorem mem_badOf {s : State} (hs : s.hub.scrubLines = []) {l : Nat} (hl : l / 1024 = a) (h : l ∈ s.hub.poison ∨ l ∈ s.hub.badLines) : l ∈ badOf s a := by
  simp [badOf, hs, hl, or_comm, h]

variable (hab : a ≠ b) (hw : s.mem.wf = true) (hs : s.hub.scrubLines = [])

/-- The memory behind a page copy: the page written is scrubbed, zeroed and filled. -/
def copiedMem (a b : Nat) (m : Memory) : Memory :=
  (((m.zero (b * 65536) 65536).zero (b * 65536) 65536).store
    (((m.zero (b * 65536) 65536).filter fun p => p.1 / 65536 == a).map fun p => (b * 65536 + p.1 % 65536, p.2)))

theorem byte_copiedMem {m : Memory} (hab : a ≠ b) (hm : m.wf = true) {i : Nat} (hi : i < 65536) : (copiedMem a b m).byte (b * 65536 + i) = m.byte (a * 65536 + i) := by
  have h1 := Laws.wf_zero (b * 65536) 65536 hm
  rw [copiedMem, byte_store_page h1 (Laws.wf_zero _ _ h1) hi (Laws.byte_zero_inside (by omega) h1), Laws.byte_zero_outside (by omega) hm]

theorem byte_copiedMem_outside {m : Memory} (hm : m.wf = true) {x : Nat} (hx : x / 65536 ≠ b) : (copiedMem a b m).byte x = m.byte x := by
  have h1 := Laws.wf_zero (b * 65536) 65536 hm
  rw [copiedMem, Laws.byte_store_outside _ (Laws.wf_zero _ _ h1) fun p hp hk => ?_, Laws.byte_zero_outside (by omega) h1, Laws.byte_zero_outside (by omega) hm]
  obtain ⟨y, -, rfl⟩ := List.mem_map.1 hp
  dsimp only at hk
  omega

include hs in
theorem copyFrame_mem : (copyFrame a b (scrubPage b s)).mem = copiedMem a b s.mem ∧ (copyFrame a b (scrubPage b s)).hub.scrubLines = [] := by
  have hs1 : (scrubPage b s).hub.scrubLines = [] := by simp [scrubPage, modHub, hs]
  have hcells : (pageCells (scrubPage b s) a).map (fun x => (b * 65536 + x.1, x.2))
      = ((s.mem.zero (b * 65536) 65536).filter fun p => p.1 / 65536 == a).map fun p => (b * 65536 + p.1 % 65536, p.2) := by
    have hm1 : (scrubPage b s).mem = s.mem.zero (b * 65536) 65536 := rfl
    simp [pageCells, hs1, hm1, Function.comp_def]
  refine ⟨?_, hs1⟩
  rw [copiedMem, ← hcells]
  rfl

include hab hw hs

/-- A page copy carries every byte, and poison with each poisoned line (R373). -/
theorem copyPage_spec (ha : dState (desc s a) = 1) (hb : dState (desc s b) = 1) : let t := manage (.copyPage a b) s
    (∀ i, i < 65536 → devByte t (b * 65536 + i) = devByte s (a * 65536 + i)) ∧ (∀ x, x / 65536 ≠ b → devByte t x = devByte s x)
    ∧ ∀ l, l < 1024 → a * 1024 + l ∈ s.hub.poison ∨ a * 1024 + l ∈ s.hub.badLines → a * 1024 + l ∈ t.hub.poison ∧ b * 1024 + l ∈ t.hub.poison := by
  have hx : manage (.copyPage a b) s = copyFrame a b (scrubPage b s) := if_pos ⟨hab, ha, hb⟩
  obtain ⟨hmem, hscrub⟩ := copyFrame_mem (a := a) (b := b) hs
  rw [hx]
  refine ⟨fun i hi => ?_, fun x hx => ?_, fun l hl hbad => ?_⟩
  · simp [devByte, hscrub, hs, hmem, byte_copiedMem hab hw hi]
  · simp [devByte, hscrub, hs, hmem, byte_copiedMem_outside hw hx]
  · have hpage : (a * 1024 + l) / 1024 = a := by omega
    have hs1 : (scrubPage b s).hub.scrubLines = [] := by simp [scrubPage, modHub, hs]
    have hbad1 : a * 1024 + l ∈ (scrubPage b s).hub.poison ∨ a * 1024 + l ∈ (scrubPage b s).hub.badLines := by
      simpa [scrubPage, modHub, hpage, hab] using hbad
    have hm := mem_badOf hs1 hpage hbad1
    have hp : (copyFrame a b (scrubPage b s)).hub.poison = badOf (scrubPage b s) a ++ (badOf (scrubPage b s) a).map (fun x => b * 1024 + x % 1024)
        ++ (scrubPage b s).hub.poison.filter fun x => x / 1024 != a && x / 1024 != b := rfl
    rw [hp]
    refine ⟨List.mem_append_left _ (List.mem_append_left _ hm), List.mem_append_left _ (List.mem_append_right _ (List.mem_map.2 ⟨_, hm, ?_⟩))⟩
    omega

end

end

/-! ### What stands of functions and tasks -/

theorem devKept_vpieces (f : Nat) : ∀ (l : List (Nat × Nat)) (bs : List Byte) (s : State), DevKept s (vpieces f l bs s)
  | [], _, s => .refl s
  | (va, n) :: l, bs, s => by
    unfold vpieces
    split
    · exact (devKept_devPieces ..).trans (devKept_vpieces f l _ _)
    · exact devKept_vpieces f l _ _

theorem devKept_refreshSave (x : Context) (s : State) : DevKept s (refreshSave x s) :=
  ((devKept_vpieces _ _ _ _).trans (devKept_vpieces _ _ _ _)).trans (devKept_vpieces _ _ _ _)

/-- The functions' blocks and the tasks stay. -/
structure KeepsTasks (s t : State) : Prop where
  funcs : t.hub.funcs = s.hub.funcs
  tasks : t.hub.tasks = s.hub.tasks

namespace KeepsTasks

theorem refl (s : State) : KeepsTasks s s := ⟨rfl, rfl⟩

theorem trans {s t u : State} (h : KeepsTasks s t) (k : KeepsTasks t u) : KeepsTasks s u := ⟨k.funcs.trans h.funcs, k.tasks.trans h.tasks⟩

theorem of_hub {s t : State} (h : t.hub = s.hub) : KeepsTasks s t := ⟨by rw [h], by rw [h]⟩

theorem of_dev {s t : State} (h : DevKept s t) : KeepsTasks s t := ⟨(congrArg Hub.funcs h.hub :), (congrArg Hub.tasks h.hub :)⟩

/-- A fold of steps that keep them. -/
theorem foldl {α : Type} {g : State → α → State} (h : ∀ s a, KeepsTasks s (g s a)) (l : List α) : ∀ s, KeepsTasks s (l.foldl g s) := by
  induction l with
  | nil => exact refl
  | cons a l ih => exact fun s => (h s a).trans (ih _)

theorem modCore (c : Nat) (g : Core → Core) (s : State) : KeepsTasks s (modCore c g s) := of_hub (modCore_mem ..).2

theorem modSaved (test : Saved → Bool) (g : Context → Context) (s : State) : KeepsTasks s (modSaved test g s) := by
  refine trans (t := modHub (fun h => { h with saved := h.saved.map fun v => if test v then { v with ctx := g v.ctx } else v }) s) ⟨rfl, rfl⟩ (foldl (fun s p => ?_) _ _)
  split
  · exact refl s
  · exact of_dev (devKept_refreshSave ..)

theorem modOwner (c : Nat) (m : Cmd) (g : Context → Context) (s : State) : KeepsTasks s (modOwner c m g s) := by
  unfold Machine.modOwner modOwnerAt
  split
  · exact of_hub (modCtx_mem ..).2
  · exact modSaved ..

/-! Reports. -/

theorem writeThrough (s : State) (f va r src die what : Nat) : KeepsTasks s (writeThrough s f va r src die what) := by
  unfold Machine.writeThrough
  split
  · split
    · exact of_dev (devKept_devWrite ..)
    · exact ⟨rfl, rfl⟩
  · exact ⟨rfl, rfl⟩

theorem dropStandIn (die : Nat) (test : Nat → Bool) (s : State) : KeepsTasks s (dropStandIn die test s) := by
  unfold Machine.dropStandIn
  dsimp only
  split <;> exact ⟨rfl, rfl⟩

theorem fqMove (f n : Nat) (p : Nat × Bool) (s : State) : KeepsTasks s (fqMove f n p s).1 := by
  unfold Machine.fqMove
  dsimp only
  split_ifs
  · exact writeThrough ..
  · exact (dropStandIn ..).trans (writeThrough ..)
  · exact ⟨rfl, rfl⟩

theorem fqMoveDown (f : Nat) (l : List (Nat × Bool)) : ∀ (n : Nat) (s : State), KeepsTasks s (fqMoveDown f n l s).1 := by
  induction l with
  | nil => exact fun _ s => refl s
  | cons p l ih => exact fun n s => (fqMove ..).trans (ih (n - 1) _)

theorem report (src f die : Nat) (pc : BitVec 64) (c : Cause) (s : State) : KeepsTasks s (report src f die pc c s) := by
  have hput (n r : Nat) : KeepsTasks s (fqPut f n r s).1 := by
    unfold fqPut
    dsimp only
    split
    · exact (fqMoveDown ..).trans (fqMove ..)
    · exact fqMoveDown ..
  exact (hput ..).trans ⟨rfl, rfl⟩

/-! Records. -/

theorem suspendCmd (c : Nat) (m : Cmd) (e : Cause) (s : State) : KeepsTasks s (suspendCmd c m e s) := by
  unfold Machine.suspendCmd
  exact trans (of_hub (setCmd_kept ..).2) (report ..)

theorem holdBack (c : Nat) (m : Cmd) (q : Nat) (s : State) : KeepsTasks s (holdBack c m q s) := by
  unfold Machine.holdBack
  refine trans ?_ (modOwner ..)
  exact ⟨rfl, rfl⟩

theorem suspendSend (c : Nat) (m : Cmd) (q code : Nat) (s : State) : KeepsTasks s (suspendSend c m q code s) := by
  unfold Machine.suspendSend
  exact (suspendCmd ..).trans (holdBack ..)

theorem nack (x : Inbound) (s : State) : KeepsTasks s (nack x s) := by
  unfold Machine.nack
  dsimp only
  refine trans (t := modQueue x.queue (fun q => if q.dropping.any fun y => y.sender == x.sender then q else { q with dropping := x :: q.dropping }) (takeInbound x s)) ⟨rfl, rfl⟩ ?_
  split
  · split
    · exact refl _
    · split
      · exact (modOwner ..).trans (suspendSend ..)
      · exact (modOwner ..).trans (modOwner ..)
  · exact ⟨rfl, rfl⟩
  · exact refl _

end KeepsTasks

/-! ### Contexts under changes of every core -/

/-- A change of every entry of a table that keeps a part of each keeps that part of every read. -/
theorem tget_map_part {α β : Type} {π : α → β} {g : Nat → α → α} (h : ∀ c x, π (g c x) = π x) (d : α) (k : Nat) : ∀ t : Tab α,
    π (tget d (t.map fun p => (p.1, g p.1 p.2)) k) = π (tget d t k)
  | [] => rfl
  | (j, w) :: t => by
    simp only [List.map_cons, tget]
    split_ifs
    · rfl
    · exact h ..
    · exact tget_map_part h d k t

section
variable {s : State} {d j : Nat}

theorem getCtx_of_sameBut {t : State} (h : Laws.SameBut s t) : getCtx t d j = getCtx s d j := by
  simp only [getCtx, getCore, h.coreId, h.ctxId, h.ctx, h.core, h.cores]

theorem getCtx_mapCores {g : Nat → Core → Core} (h : ∀ c k, (g c k).parked = k.parked) : getCtx (mapCores g s) d j = getCtx s d j := by
  have hp : (getCore (mapCores g s) d).parked = (getCore s d).parked := by
    by_cases hd : d = s.coreId
    · simpa only [getCore, mapCores, hd, if_true] using h ..
    · simpa only [getCore, mapCores, hd, if_false] using tget_map_part (π := Core.parked) h ..
  have hg : getCtx (mapCores g s) d j = if d = s.coreId ∧ j = s.ctxId then s.ctx else tget (resetContext d) (getCore (mapCores g s) d).parked j := rfl
  rw [hg, hp, getCtx]

/-- A change of every context that keeps a part of each. -/
theorem getCtx_mapCtxs_part {β : Type} {π : Context → β} {g : Nat → Nat → Context → Context} (h : ∀ c k x, π (g c k x) = π x) :
    π (getCtx (mapCtxs g s) d j) = π (getCtx s d j) := by
  have hp (c : Nat) (k : Core) : π (tget (resetContext d) (k.parked.map fun p => (p.1, g c p.1 p.2)) j) = π (tget (resetContext d) k.parked j) :=
    tget_map_part (h c) ..
  have hg : getCtx (mapCtxs g s) d j = if d = s.coreId ∧ j = s.ctxId then g s.coreId s.ctxId s.ctx else tget (resetContext d) (getCore (mapCtxs g s) d).parked j := rfl
  rw [hg, getCtx]
  split_ifs with hf
  · exact h ..
  · by_cases hd : d = s.coreId
    · simpa only [getCore, mapCtxs, hd, if_true] using hp ..
    · simpa only [getCore, mapCtxs, hd, if_false] using
        tget_map_part (π := fun k : Core => π (tget (resetContext d) k.parked j)) (g := fun c k => { k with parked := k.parked.map fun p => (p.1, g c p.1 p.2) }) hp ..

/-- A context that the state does not hold is idle. -/
theorem idle_of_not_mem (hj : j < 4) (h : (d, j) ∉ ctxIds s) : (getCtx s d j).life = .idle := by
  have hd : d ∉ coreIds s := fun hd => h (List.mem_flatMap.2 ⟨d, hd, List.mem_map.2 ⟨j, by simp; omega, rfl⟩⟩)
  rw [coreIds, List.mem_cons, not_or] at hd
  obtain ⟨hne, hmem⟩ := hd
  have hcore : getCore s d = resetCore d := by
    rw [getCore, if_neg hne]
    exact tget_of_forall_ne fun p hp hk => hmem (List.mem_filter.2 ⟨List.mem_map.2 ⟨p, hp, hk⟩, by simp [hne]⟩)
  rw [getCtx, if_neg fun hf => hne hf.1, hcore]
  rfl

end

/-! ### Resetting a function -/

section
variable {f : Nat} {s : State} {d j : Nat}

/-- A context is not the function's, or is idle. -/
def ClearOf (f : Nat) (x : Context) : Prop := x.life ≠ .idle → x.func.toNat ≠ f

/-- Operations that leave the matrix queue leave the contexts. -/
theorem parked_dropQueued (k : Core) (test : MEntry → Bool) : (k.dropQueued test).parked = k.parked := by
  unfold Core.dropQueued Core.forgetDrains
  dsimp only
  split <;> rfl

/-- A context of the function leaves its place. -/
def vacate (s : State) (p : Nat × Nat) : State :=
  modCore p.1 (fun k => k.dropQueued fun e => e.ctx == p.2) (modCtx p.1 p.2 (Context.vacated p.1) (keepBubble p.1 p.2 s))

theorem vacate_kept (p : Nat × Nat) : (vacate s p).mem = s.mem ∧ (vacate s p).hub = s.hub := by
  have hb : (keepBubble p.1 p.2 s).mem = s.mem ∧ (keepBubble p.1 p.2 s).hub = s.hub := by
    rcases Laws.keepBubble_cases p.1 p.2 s with h | h <;> rw [h]
    · exact ⟨rfl, rfl⟩
    · exact modCore_mem ..
  exact ⟨(modCore_mem ..).1.trans ((modCtx_mem ..).1.trans hb.1), (modCore_mem ..).2.trans ((modCtx_mem ..).2.trans hb.2)⟩

theorem getCtx_keepBubble (c k : Nat) : getCtx (keepBubble c k s) d j = getCtx s d j := by
  rcases Laws.keepBubble_cases c k s with h | h <;> rw [h]
  exact (SameContexts.modCore c s).ctx d j

theorem getCtx_vacate (p : Nat × Nat) : getCtx (vacate s p) d j = getCtx (modCtx p.1 p.2 (Context.vacated p.1) (keepBubble p.1 p.2 s)) d j :=
  (SameContexts.modCore _ _ fun _ => parked_dropQueued ..).ctx d j

theorem life_vacate (p : Nat × Nat) : (getCtx (vacate s p) p.1 p.2).life = .idle := by
  rw [getCtx_vacate, getCtx_modCtx_same]
  rfl

theorem getCtx_vacate_other {p : Nat × Nat} (hp : (d, j) ≠ p) : getCtx (vacate s p) d j = getCtx s d j := by
  have hne : d ≠ p.1 ∨ j ≠ p.2 := by
    rw [← not_and_or]
    exact fun hc => hp (Prod.ext hc.1 hc.2)
  rw [getCtx_vacate, getCtx_modCtx_other hne, getCtx_keepBubble]

theorem foldl_vacate_kept : ∀ (l : List (Nat × Nat)) (s : State), (l.foldl vacate s).mem = s.mem ∧ (l.foldl vacate s).hub = s.hub
  | [], _ => ⟨rfl, rfl⟩
  | p :: l, s => by
    obtain ⟨hm, hh⟩ := foldl_vacate_kept l (vacate s p)
    exact ⟨hm.trans (vacate_kept p).1, hh.trans (vacate_kept p).2⟩

/-- Once the listed contexts have left, none is the function's, where those not listed were not. -/
theorem clearOf_foldl_vacate (hj : j < 4) : ∀ {l : List (Nat × Nat)} {s : State}, (∀ d j, j < 4 → (d, j) ∉ l → ClearOf f (getCtx s d j)) →
    ClearOf f (getCtx (l.foldl vacate s) d j)
  | [], _, h => h d j hj (by simp)
  | p :: l, s, h => clearOf_foldl_vacate (s := vacate s p) hj fun d j hj hl => by
    by_cases hp : (d, j) = p
    · subst hp
      exact fun hi => absurd (life_vacate (s := s) (d, j)) hi
    · rw [getCtx_vacate_other hp]
      exact h d j hj (by simp [hp, hl])

/-- What the cores hold of a function is gone (R336). -/
def clearedCore (f : Nat) (k : Core) : Core :=
  { k with
    cmds := k.cmds.filter (fun m => m.func != f)
    refDrops := k.refDrops.filter (fun r => r.func != f)
    tlb := k.tlb.filter (fun e => e.func != f)
    icache := k.icache.filter fun l => l.1 != f }

/-- The contexts of a function that are not idle. -/
def heldBy (f : Nat) (s : State) : List (Nat × Nat) :=
  (ctxIds s).filter fun p => (getCtx s p.1 p.2).func.toNat == f && (getCtx s p.1 p.2).life != .idle

/-- The contexts of the function after the reset of its contexts, and what else that does. -/
theorem resetContexts_spec (f : Nat) (s : State) : (∀ d j, j < 4 → ClearOf f (getCtx (resetContexts f s) d j)) ∧ (resetContexts f s).mem = s.mem
    ∧ (resetContexts f s).hub.funcs = s.hub.funcs ∧ (resetContexts f s).hub.tasks = s.hub.tasks.filter (fun t => t.func != f)
    ∧ (resetContexts f s).hub.saved = s.hub.saved.filter (fun v => v.ctx.func.toNat != f) ∧ (resetContexts f s).hub.reserve = s.hub.reserve := by
  let u := mapCores (fun _ k => clearedCore f k) s
  let v := (heldBy f u).foldl vacate u
  obtain ⟨hm, hh⟩ := foldl_vacate_kept (heldBy f u) u
  have hclear : ∀ d j, j < 4 → ClearOf f (getCtx v d j) := fun d j hj => clearOf_foldl_vacate hj fun d j hj hl hi hf => by
    by_cases hmem : (d, j) ∈ ctxIds u
    · exact hl (List.mem_filter.2 ⟨hmem, by simp [hi, hf]⟩)
    · exact hi (idle_of_not_mem hj hmem)
  have hhub : v.hub = s.hub := hh
  have hv : (resetContexts f s).hub.funcs = v.hub.funcs ∧ (resetContexts f s).hub.tasks = v.hub.tasks.filter (fun t => t.func != f)
    ∧ (resetContexts f s).hub.saved = v.hub.saved.filter (fun v => v.ctx.func.toNat != f) ∧ (resetContexts f s).hub.reserve = v.hub.reserve := ⟨rfl, rfl, rfl, rfl⟩
  rw [hhub] at hv
  exact ⟨hclear, hm, hv⟩

/-- A change of saved contexts is one of the hub and of device memory. -/
theorem sameBut_modSaved (test : Saved → Bool) (g : Context → Context) (s : State) : Laws.SameBut s (modSaved test g s) := by
  have hfold : ∀ (l : List (Context × Context)) (u : State),
      Laws.SameBut u (l.foldl (fun s p => if p.1.q = p.2.q ∧ p.1.h = p.2.h ∧ p.1.b = p.2.b then s else refreshSave p.2 s) u) := by
    intro l
    induction l with
    | nil => exact .refl
    | cons p l ih =>
      refine fun u => .trans ?_ (ih _)
      dsimp only
      split
      · exact .refl u
      · exact (devKept_refreshSave ..).same
  exact .trans (t := modHub (fun h => { h with saved := h.saved.map fun v => if test v then { v with ctx := g v.ctx } else v }) s)
    ⟨rfl, rfl, rfl, rfl, rfl, rfl, rfl, rfl, rfl, rfl⟩ (hfold _ _)

/-- Handles that become invalid change no context's life and function, and with no context saved no byte of memory. -/
theorem dropHandles_spec (test : BitVec 64 → Bool) (s : State) : (∀ d j, ClearOf f (getCtx s d j) → ClearOf f (getCtx (dropHandles test s) d j))
    ∧ KeepsTasks s (dropHandles test s) ∧ (s.hub.saved = [] → (dropHandles test s).mem = s.mem ∧ (dropHandles test s).hub.reserve = s.hub.reserve) := by
  let u := mapCores (fun _ k => { k with tlb := k.tlb.filter fun e => !test e.handle }) (mapCtxs (fun _ _ c => c.dropHandles test) s)
  have hd : dropHandles test s = modSaved (fun _ => true) (fun x => x.dropHandles test) u := rfl
  have hpart (d j : Nat) : (getCtx (dropHandles test s) d j).life = (getCtx s d j).life ∧ (getCtx (dropHandles test s) d j).func = (getCtx s d j).func := by
    have hu : getCtx u d j = getCtx (mapCtxs (fun _ _ c => c.dropHandles test) s) d j := getCtx_mapCores fun _ _ => rfl
    rw [hd, getCtx_of_sameBut (sameBut_modSaved ..), hu]
    exact ⟨getCtx_mapCtxs_part (π := Context.life) fun _ _ _ => rfl, getCtx_mapCtxs_part (π := Context.func) fun _ _ _ => rfl⟩
  refine ⟨fun d j h => ?_, ?_, fun hs => ?_⟩
  · rw [ClearOf, (hpart d j).1, (hpart d j).2]
    exact h
  · exact hd ▸ KeepsTasks.trans (t := u) ⟨rfl, rfl⟩ (.modSaved ..)
  · have hu : u.hub.saved = [] := hs
    rw [hd, modSaved, hu]
    exact ⟨rfl, rfl⟩

/-- What the reserve zone forgets of a function. -/
def withoutReserve (f : Nat) (s : State) : State :=
  let gone := s.hub.reserve.filter fun r => r.1 == f
  modHub (fun h => { h with
    reserve := h.reserve.filter (fun r => r.1 != f)
    heads := h.heads.filter (fun a => !gone.any fun r => reservePfn f r.2 == a / 65536)
    prepared := h.prepared.filter fun p => !gone.any fun r => reservePfn f r.2 == p.1 }) s

/-- Its pages there are zeroed. -/
theorem emptyReserve_eq (f : Nat) (s : State) : emptyReserve f s =
    (s.hub.reserve.filter fun r => r.1 == f).foldl (fun s r => { s with mem := Memory.zero s.mem (reservePfn f r.2 * 65536) 65536 }) (withoutReserve f s) := rfl

theorem foldl_zero_eq (f : Nat) : ∀ (l : List (Nat × Nat)) (u : State),
    ∃ m, l.foldl (fun s r => { s with mem := Memory.zero s.mem (reservePfn f r.2 * 65536) 65536 }) u = { u with mem := m } ∧ (l = [] → m = u.mem)
  | [], u => ⟨u.mem, rfl, fun _ => rfl⟩
  | r :: l, u => by
    obtain ⟨m, hm, -⟩ := foldl_zero_eq f l { u with mem := Memory.zero u.mem (reservePfn f r.2 * 65536) 65536 }
    exact ⟨m, hm, nofun⟩

/-- The reserve zone's pages of a function are bytes and marks alone. -/
theorem emptyReserve_spec (f : Nat) (s : State) : Laws.SameBut s (emptyReserve f s) ∧ KeepsTasks s (emptyReserve f s)
    ∧ ((∀ r ∈ s.hub.reserve, r.1 ≠ f) → (emptyReserve f s).mem = s.mem) := by
  obtain ⟨m, hm, hnil⟩ := foldl_zero_eq f (s.hub.reserve.filter fun r => r.1 == f) (withoutReserve f s)
  rw [emptyReserve_eq, hm]
  exact ⟨⟨rfl, rfl, rfl, rfl, rfl, rfl, rfl, rfl, rfl, rfl⟩, ⟨rfl, rfl⟩, fun h => hnil (List.filter_eq_nil_iff.2 fun r hr => by simpa using h r hr)⟩

/-- The function's pages and counters go, and its contexts stay as they are. -/
theorem resetPages_spec (f : Nat) (s : State) : (∀ d j, ClearOf f (getCtx s d j) → ClearOf f (getCtx (resetPages f s) d j)) ∧ KeepsTasks s (resetPages f s)
    ∧ (∀ i, i < 4096 → counter (resetPages f s) f i = 0) ∧ (s.hub.saved = [] → (∀ r ∈ s.hub.reserve, r.1 ≠ f) → (resetPages f s).mem = s.mem) := by
  let u := dropHandles (fun h => bits h.toNat 11 7 == f) s
  let v := emptyReserve f u
  obtain ⟨hclear, htasks, hsaved⟩ := dropHandles_spec (f := f) (fun h => bits h.toNat 11 7 == f) s
  obtain ⟨hsame, hvtasks, hvmem⟩ := emptyReserve_spec f u
  have hctx (d j : Nat) : getCtx (resetPages f s) d j = getCtx v d j := rfl
  have hcount : (resetPages f s).hub.counters = v.hub.counters.filter (fun p => p.1 / 4096 != f) := rfl
  refine ⟨fun d j h => ?_, (htasks.trans hvtasks).trans ⟨rfl, rfl⟩, fun i hi => ?_, fun hs hr => ?_⟩
  · rw [hctx, getCtx_of_sameBut hsame]
    exact hclear d j h
  · rw [counter, hcount]
    refine tget_of_forall_ne fun p hp hk => ?_
    have hne : p.1 / 4096 ≠ f := by simpa using (List.mem_filter.1 hp).2
    omega
  · obtain ⟨hm, hres⟩ := hsaved hs
    exact (hvmem (by rw [hres]; exact hr)).trans hm

/-- The function's queues are reset: records to them go back first. -/
theorem resetQueues_spec (f : Nat) (s : State) : KeepsTasks s (resetQueues f s)
    ∧ (s.hub.inbox = [] → (resetQueues f s).mem = s.mem ∧ (resetQueues f s).hub.saved = s.hub.saved ∧ (resetQueues f s).hub.reserve = s.hub.reserve) := by
  have hq (u : State) : KeepsTasks u (modHub (fun h => { h with queues := h.queues.map fun p => if qcVf p.2 = f then (p.1, { conf := p.2.conf &&& ~~~1 }) else p }) u) := ⟨rfl, rfl⟩
  refine ⟨(KeepsTasks.foldl (fun s x => .nack x s) _ s).trans (hq _), fun h => ?_⟩
  rw [resetQueues, h]
  exact ⟨rfl, rfl, rfl⟩

/-- A block without its EN. -/
def disabledBlock (b : BitVec 1024) : BitVec 1024 := b &&& ~~~1

theorem bits_disabledBlock (b : BitVec 1024) :
    bits (disabledBlock b).toNat 0 0 ≠ 1 ∧ ∀ hi lo, 1 ≤ lo → hi < 1024 → bits (disabledBlock b).toNat hi lo = bits b.toNat hi lo := by
  have h1 (i : Nat) : (1 : BitVec 1024).getLsbD i = decide (i = 0) := by simp
  have hbit (i : Nat) : (disabledBlock b).toNat.testBit i = (b.toNat.testBit i && decide (i ≠ 0)) := by
    rw [disabledBlock, BitVec.testBit_toNat, BitVec.testBit_toNat, BitVec.getLsbD_and, BitVec.getLsbD_not, h1]
    by_cases hi : i < 1024
    · simp [hi]
    · simp [BitVec.getLsbD_of_ge b i (not_lt.1 hi)]
  refine ⟨fun h => ?_, fun hi lo hlo _ => Nat.eq_of_testBit_eq fun i => ?_⟩
  · rw [bits_one_iff, hbit] at h
    simp at h
  · simp only [bits, Nat.testBit_mod_two_pow, Nat.testBit_shiftRight, hbit, show lo + i ≠ 0 by omega, ne_eq, not_false_eq_true, decide_true, Bool.and_true]

/-- Fields of a function whose block has lost its EN. -/
theorem fblk_disabled {t : State} (hw : twf 0 s.hub.funcs = true) (h : t.hub.funcs = tset 0 s.hub.funcs f (disabledBlock (tget 0 s.hub.funcs f))) (hi lo : Nat) :
    fblk t f hi lo = bits (disabledBlock (tget 0 s.hub.funcs f)).toNat hi lo := by
  have hget : tget 0 t.hub.funcs f = disabledBlock (tget 0 s.hub.funcs f) := by
    rw [h]
    exact Laws.tget_tset_same hw
  exact congrArg (fun b : BitVec 1024 => bits b.toNat hi lo) hget

/-- The last step of a reset: the function reads as disabled, and its fault queue numbers from 0. -/
def disableFunc (f : Nat) (s : State) : State :=
  modHub (fun h => { h with funcs := tset 0 h.funcs f (disabledBlock (tget 0 h.funcs f)), fqSeq := h.fqSeq.filter (fun p => p.1 != f), fqRecent := h.fqRecent.filter fun p => p.1 != f }) s

theorem resetFunction_eq : resetFunction f s = disableFunc f (resetPages f (resetContexts f (resetQueues f s))) := rfl

theorem functionReset_eq (hf : f ≤ 16) (he : fEnabled s f = true) : exec (.functionReset f) s = .next (resetFunction f s) := by
  have hx : exec (.functionReset f) s = execFunctionReset f s := rfl
  rw [hx, execFunctionReset, atFunc_of hf, if_pos he]

theorem disableFunc_spec (hw : twf 0 s.hub.funcs = true) : fEnabled (disableFunc f s) f = false
    ∧ ∀ hi lo, 1 ≤ lo → hi < 1024 → fblk (disableFunc f s) f hi lo = fblk s f hi lo := by
  obtain ⟨hen, hbits⟩ := bits_disabledBlock (tget 0 s.hub.funcs f)
  have hblk := fblk_disabled (t := disableFunc f s) hw rfl
  refine ⟨?_, fun hi lo hlo hhi => (hblk hi lo).trans (hbits hi lo hlo hhi)⟩
  rw [fEnabled, hblk]
  simpa using hen

/-- A function reset disables the function, leaves it no context and no task, and zeroes its counters (R336). -/
theorem resetFunction_spec (hw : twf 0 s.hub.funcs = true) : fEnabled (resetFunction f s) f = false
    ∧ (∀ d j, j < 4 → (getCtx (resetFunction f s) d j).life ≠ .idle → (getCtx (resetFunction f s) d j).func.toNat ≠ f)
    ∧ (∀ hi lo, 1 ≤ lo → hi < 1024 → fblk (resetFunction f s) f hi lo = fblk s f hi lo)
    ∧ (∀ i, i < 4096 → counter (resetFunction f s) f i = 0) ∧ (∀ x ∈ (resetFunction f s).hub.tasks, x.func ≠ f)
    ∧ (s.hub.inbox = [] → s.hub.saved = [] → (∀ r ∈ s.hub.reserve, r.1 ≠ f) → (resetFunction f s).mem = s.mem) := by
  obtain ⟨hq, hqmem⟩ := resetQueues_spec f s
  obtain ⟨hclear, hcmem, hcfuncs, hctasks, hcsaved, hcres⟩ := resetContexts_spec f (resetQueues f s)
  obtain ⟨hpclear, hp, hpcount, hpmem⟩ := resetPages_spec f (resetContexts f (resetQueues f s))
  rw [resetFunction_eq]
  generalize resetQueues f s = s1 at *
  generalize resetContexts f s1 = s2 at *
  generalize resetPages f s2 = s3 at *
  have hfuncs : s3.hub.funcs = s.hub.funcs := hp.funcs.trans (hcfuncs.trans hq.funcs)
  obtain ⟨hen, hblk⟩ := disableFunc_spec (f := f) (s := s3) (by rw [hfuncs]; exact hw)
  refine ⟨hen, fun d j hj => hpclear d j (hclear d j hj), fun hi lo hlo hhi => (hblk hi lo hlo hhi).trans (SameDev.fblk hfuncs ..), hpcount, fun x hx => ?_, fun hi hs hr => ?_⟩
  · have hx3 : x ∈ s3.hub.tasks := hx
    rw [hp.tasks, hctasks] at hx3
    simpa using (List.mem_filter.1 hx3).2
  · obtain ⟨hm, hsv, hrs⟩ := hqmem hi
    refine (hpmem ?_ ?_).trans (hcmem.trans hm)
    · rw [hcsaved, hsv, hs]
      rfl
    · rw [hcres, hrs]
      exact hr

end

/-- Settles O59: each write by the step of bring-up behind which it acts, and a function reset by its three steps. -/
theorem functionsAndManagement : Obligations.FunctionsAndManagement := by
  unfold Obligations.FunctionsAndManagement
  intro f q c k blk w e s
  refine ⟨fun hf hb he hen hsc hfail => functionEnable_spec hf hb he hen hsc hfail, fun hf hb => functionEnable_early hf hb, fun cause => ?_,
    fun hf he hen => functionUpdate_spec hf he hen, fun hf he hw => ⟨_, functionReset_eq hf he, resetFunction_spec hw⟩, fun hq h6 h => queueConfigWrite_spec hq h6 h,
    fun hq h6 => queueConfigWrite_early hq h6, fun hf i a v hi hp => remoteRingEntryWrite_eq hf hi hp, fun m => rfl, manage_range_early, fun h2 pc => manage_startSup_early h2 c k f pc,
    fun g n => rfl, fun a b hab ha hb hw hs => copyPage_spec hab hw hs ha hb, fun hc => ⟨?_, ?_⟩, fun hc hk => ⟨?_, ?_⟩, fun pa bs hw => manage_mem_spec pa bs hw⟩
  · intro failed
    refine ⟨fun hf hb he hen hsc hfail => ?_, fun hq h7 hw hfail => queueConfigWrite_fails hq h7 hw hfail, fun n h5 h6 hfail => manage_package_fails n h5 h6 hfail⟩
    rw [functionEnable_takes hf hb he hen hsc, completeStep_fails hfail]
  · exact congrArg Core.tshare (getCore_manageCore hc _)
  · exact congrArg Core.cachecfg (getCore_manageCore hc _)
  · exact congrArg Context.domain (getCtx_manageCtx hc hk _)
  · exact congrArg Context.savecfg (getCtx_manageCtx hc hk _)

end Sys2Proof.Machine


/-! ## Saving and restoring (R113, R130, R131): O58 -/

namespace Sys2Proof.Machine

/-- A running context of task 1 that used SYNC line 1 of its die: `DOMAIN` 11:9 is 1. -/
def movedLine : Context := { resetContext 0 with life := .running, task := 1, domain := 0x23F }

/-- Task 1 with its one member at context 0 of core 0; it holds no SYNC line on that die, as
after `dropLine` when its last placed context there was saved. -/
def lineTask : TaskSt := { id := 1, func := 0, queue := 0, seq := 0, lr := 0, prio := 0, places := [(0, 0)] }

/-- The saved context of `lineTask`. -/
def lineSaved : Saved := { core := 0, ctxId := 0, ctx := movedLine, faulted := false }

/-- The package out of reset, with `lineTask` running and its only context saved. -/
def lineState : State := { State.reset with hub := { resetHub with tasks := [lineTask], saved := [lineSaved] } }

/-- The restore happens in a step: the place is free and `lineSaved` is the context it takes. -/
theorem lineState_restores : lineState.hub.saved.find? (fun v => v.core == 0 && v.ctxId == 0 && mayRestore lineState v) = some lineSaved := by
  decide +kernel

/-- So the counterexample is a step of the machine. -/
theorem contextRestore_lineState : exec (.contextRestore 0 0) lineState = .next (restoreCtx lineSaved lineState) := by
  change execContextRestore 0 0 lineState = _
  rw [execContextRestore, Laws.atCtx_of rfl (by norm_num), lineState_restores]
  rfl

/-- `giveLine` finds no line of the task on the die and line 0 free, so the restore writes line 0
into `DOMAIN` 11:9. -/
theorem restoreCtx_lineSaved_domain : (getCtx (restoreCtx lineSaved lineState) 0 0).domain = 0x3F := by
  decide +kernel

/-- Refutes O58: the clause on what comes back says that every field but the registers, `SAVECFG`,
the fault and the block is as it was saved. A task that holds no SYNC line on the die any more is
given a free one as its context comes back, so `DOMAIN` 11:9 is the new line (R113, R131): saved
with line 1, the context of `lineSaved` comes back with line 0. -/
theorem not_savingAndRestoring : ¬ Obligations.SavingAndRestoring := by
  unfold Obligations.SavingAndRestoring
  intro h
  obtain ⟨-, -, -, -, -, -, -, comesBack, -⟩ := h 0 0 lineTask lineState rfl (by norm_num)
  obtain ⟨-, -, -, -, -, -, asSaved⟩ := comesBack lineSaved rfl rfl rfl rfl rfl rfl rfl rfl rfl rfl rfl
  have kept : (getCtx (restoreCtx lineSaved lineState) 0 0).domain = movedLine.domain := congrArg Context.domain asSaved
  rw [restoreCtx_lineSaved_domain] at kept
  exact absurd kept (by decide)

end Sys2Proof.Machine
